-- ==== Sys2Proof/Word.lean ====
section
/-! DEFINITION. The words of the machine and their plainest arithmetic (R5: little-endian, bit 0 least significant). -/

namespace Sys2Proof

/-- A byte of any memory. -/
abbrev Byte := BitVec 8
/-- A dword: a lane of a vector register, a scalar register, an instruction word. -/
abbrev W32 := BitVec 32
/-- A 64-bit value: a program counter, a pair, a timeline counter. -/
abbrev W64 := BitVec 64

namespace Word

/-- The two halves of a 64-bit value, low half first. -/
def lo (w : W64) : W32 := w.setWidth 32
def hi (w : W64) : W32 := (w >>> 32).setWidth 32
/-- A 64-bit value from its low and high halves. -/
def join (l h : W32) : W64 := h ++ l

/-- Bits [h:l] of a natural number (R5). -/
def field (n h l : Nat) : Nat := (n / 2 ^ l) % 2 ^ (h + 1 - l)

/-- Bit `i` of a natural number. -/
def bit (n i : Nat) : Bool := n / 2 ^ i % 2 == 1

end Word
end Sys2Proof
end

