-- ==== Sys2Proof/Config.lean ====
section
/-! DEFINITION. What an implementation fixes, and the free values: constants with no body, of which nothing can be proved
but that they exist. A statement that holds of this model holds whatever they are. -/

namespace Sys2Proof
namespace Config

/-- FREE VALUE. Byte `off` of a scratchpad nobody has written, `nonce` naming the team's start (R48).
[MARK DESIGN CHOICE log 62] -/
opaque freeScratch : (nonce off : Nat) → Byte
/-- FREE VALUE. Word `i` of an accumulator tile nobody has written (R48). [MARK DESIGN CHOICE log 62] -/
opaque freeTile : (nonce i : Nat) → W32
/-- FREE VALUE. The byte at `addr` of a line written under key `written`, read under key `reader` (R348).
[MARK DESIGN CHOICE log 38] -/
opaque foreignByte : (reader written addr : Nat) → Byte
/-- FREE VALUE. Which of the values that meet the bound of R200 or R260 function `fn` takes at `a`: a fixed function (R191).
[MARK DESIGN CHOICE log 54] -/
opaque approxPick : (fn : Nat) → (a : W32) → Nat
/-- FREE VALUE. The detail of the record with sequence number `seq` where its class states none (R355).
[MARKS DESIGN CHOICE log 47, DESIGN CHOICE log 87] -/
opaque freeDetail : (seq : Nat) → W32
/-- FREE VALUE. Does L1, the sampler cache or the translation buffer (`which` 0, 1, 2) still serve line or page `x` at a
cycle? Replacement is not stated (R94, R105, R106). [MARK DESIGN CHOICE log 15] -/
opaque cacheKeeps : (which cycle x : Nat) → Bool
/-- FREE VALUE. A sample the spec states no value for: coordinates that overflow, an empty record, a level fraction that is no
number (R228, R229). [MARK DESIGN CHOICE log 56] -/
opaque freeTexel : (u v : W32) → (c : Nat) → W32
/-- The home segment, 0 to 95 on its die, of a physical line (R15, R475). [MARK DESIGN CHOICE log 26] -/
opaque lineHash : (line : Nat) → Fin 96
/-- The home segment of a tag over the 192 segments of the package (R16, R475). [MARK DESIGN CHOICE log 90] -/
opaque tagHash : (ctx index : Nat) → Fin 192
/-- Which of the L2 segment's 1,024 sets of 16 ways holds a line: not stated (R1, R15). [MARK DESIGN CHOICE log 26] -/
opaque lineSet : (line : Nat) → Fin 1024
/-- FREE VALUE. Which of n entries a full L1 (0) or sampler cache (1) gives up at a cycle: replacement is not stated (R86).
[MARK DESIGN CHOICE log 15] -/
opaque cacheVictim : (which cycle : Nat) → Nat
/-- FREE VALUE. Which of the values a sampler read may return for the 4-byte element at `a` it returns (R131).
[MARK DESIGN CHOICE log 143] -/
opaque samplerPick : (cycle a : Nat) → Nat
/-- Which of its ports a line's requests to a peer leave by: the hash is not given (R344). [MARK DESIGN CHOICE log 134] -/
opaque portHash : (line : Nat) → Nat
/-- How many flits a request takes that carries n bytes: the size of a flit is not given (R347). [MARK DESIGN CHOICE log 134] -/
opaque flitsOf : (n : Nat) → Nat
/-- The fuses' identity keys, 0 RSA-3072 and 1 SLH-DSA-SHA2-192s: of each, the public half (R345). [MARK DESIGN CHOICE log 135] -/
opaque identityKey : (kind : Nat) → Nat
/-- The certificate chain of an identity key in flash (R345). [MARK DESIGN CHOICE log 135] -/
opaque certificates : (kind : Nat) → List Byte
/-- SHA-384 (R345). [MARK DESIGN CHOICE log 135] -/
opaque sha384 : List Byte → BitVec 384
/-- The signature of a message under the private half of an identity key (R345). [MARK DESIGN CHOICE log 135] -/
opaque signature : (kind : Nat) → List Nat → Nat
/-- The version of a firmware image that the anti-rollback counter is compared with (R349). [MARK DESIGN CHOICE log 136] -/
opaque imageVersion : (image : List Byte) → Nat
/-- How many spare lanes each direction of the die bridge has (R411). [MARK DESIGN CHOICE log 8] -/
opaque spareLanes : (dir : Nat) → Fin 64
/-- The bytes of the boot ROM (0), of stage-1 firmware (1) and of the recovery image (2) (R345, R349, R469).
[MARK DESIGN CHOICE log 122] -/
opaque bootImage : (which : Nat) → List Byte
/-- FREE VALUE. The bytes of the handler image that a context names by its entry at a cycle: the spec gives no extent (R345).
[MARK DESIGN CHOICE log 122] -/
opaque handlerImage : (ctx cycle : Nat) → (entry : W64) → List Byte
/-- FREE VALUE. Which signatures of the handler image at `entry` of a context fail at a cycle: bit 0 RSA, bit 1 SLH-DSA (R464).
[MARK DESIGN CHOICE log 50] -/
opaque imageFails : (ctx cycle : Nat) → (entry : W64) → BitVec 2
/-- FREE VALUE. Word `i` of the annex's entry layout, which the spec does not give (R278). [MARK DESIGN CHOICE log 89] -/
opaque annexWord : (entry i : Nat) → W32

/-- The watchdog interval in core cycles (R376). -/
def watchdog : Nat := 2 ^ 32
/-- The bound on a peer's response in core cycles (R457). -/
def peerBound : Nat := 2 ^ 24
/-- Twice the heartbeat period of R462, 20 s, in core cycles at 3.0 GHz (R2). [MARK DESIGN CHOICE log 5] -/
def heartbeatBound : Nat := 60000000000
/-- 100 ms of R461 in core cycles at 3.0 GHz (R2). [MARK DESIGN CHOICE log 5] -/
def linkDownBound : Nat := 300000000
/-- L2 cycles of one timeout unit (R272). [MARK DESIGN CHOICE log 5] -/
def timeoutUnit : Nat := 1024

/-- Function numbers for `approxPick`. -/
def fnRcp : Nat := 0
def fnRsq : Nat := 1
def fnExp2 : Nat := 2
def fnLog2 : Nat := 3
def fnSin : Nat := 4
def fnCos : Nat := 5
def fnGelu : Nat := 6
def fnSilu : Nat := 7

end Config
end Sys2Proof
end

