-- ==== Sys2Proof/Machine/Formats.lean ====
section
/-! DEFINITION. Number formats, exact values, rounding and narrowing (R55 to R69). Values are exact rationals, and only a
named rounding gives them up (R8). -/

namespace Sys2Proof.Machine

/-- An exact value: NaN, an infinity, or (-1)^neg * n / d with d at least 1 (a zero keeps its sign). -/
inductive FVal where
  | nan
  | inf (neg : Bool)
  | fin (neg : Bool) (n d : Nat)
  deriving DecidableEq, Repr

/-- Rounding modes: nearest ties to even, nearest ties away, toward zero (R66, R67). -/
inductive Rnd where
  | rne | rta | rtz
  deriving DecidableEq, Repr

/-- How a floating layout codes its special values (R60). -/
inductive Specials where
  | ieee | e4m3 | none
  deriving DecidableEq, Repr

/-- A floating layout (R59): exponent and mantissa widths, bias, specials. -/
structure FFmt where
  ebits : Nat
  mbits : Nat
  bias : Nat
  sp : Specials
  deriving DecidableEq, Repr

def fmtF32 : FFmt := { ebits := 8, mbits := 23, bias := 127, sp := .ieee }
def fmtF16 : FFmt := { ebits := 5, mbits := 10, bias := 15, sp := .ieee }
def fmtBF16 : FFmt := { ebits := 8, mbits := 7, bias := 127, sp := .ieee }
def fmtE4M3 : FFmt := { ebits := 4, mbits := 3, bias := 7, sp := .e4m3 }
def fmtE5M2 : FFmt := { ebits := 5, mbits := 2, bias := 15, sp := .ieee }
def fmtE2M3 : FFmt := { ebits := 2, mbits := 3, bias := 1, sp := .none }
def fmtE3M2 : FFmt := { ebits := 3, mbits := 2, bias := 3, sp := .none }
def fmtE2M1 : FFmt := { ebits := 2, mbits := 1, bias := 1, sp := .none }

namespace FFmt

def width (f : FFmt) : Nat := 1 + f.ebits + f.mbits
/-- The sign bit's weight. -/
def signBit (f : FFmt) : Nat := 2 ^ (f.ebits + f.mbits)
/-- The code of the largest finite magnitude (R59, R60). -/
def maxCode (f : FFmt) : Nat :=
  match f.sp with
  | .ieee => (2 ^ f.ebits - 1) * 2 ^ f.mbits - 1
  | .e4m3 => 2 ^ (f.ebits + f.mbits) - 2
  | .none => 2 ^ (f.ebits + f.mbits) - 1
/-- The code of +infinity in a layout that has one. -/
def infCode (f : FFmt) : Nat := (2 ^ f.ebits - 1) * 2 ^ f.mbits
/-- The NaN a conversion writes (R58, R69): canonical, 0x7F for E4M3, 0x7E for E5M2. -/
def nanCode (f : FFmt) : Nat :=
  match f.sp with
  | .ieee => f.infCode + 2 ^ (f.mbits - 1)
  | .e4m3 => 2 ^ (f.ebits + f.mbits) - 1
  | .none => 0

/-- The value of a code (R59, R60). -/
def decode (f : FFmt) (c : Nat) : FVal :=
  let neg := Word.bit c (f.ebits + f.mbits)
  let e := Word.field c (f.ebits + f.mbits - 1) f.mbits
  let m := c % 2 ^ f.mbits
  let special := c % f.signBit > f.maxCode
  if special then
    match f.sp with
    | .ieee => if m = 0 then .inf neg else .nan
    | _ => .nan
  else
    let sig := if e = 0 then m else 2 ^ f.mbits + m
    let ex := (if e = 0 then 1 else e)
    -- sig * 2^(ex - bias - mbits)
    if ex ≥ f.bias + f.mbits then .fin neg (sig * 2 ^ (ex - f.bias - f.mbits)) 1
    else .fin neg sig (2 ^ (f.bias + f.mbits - ex))

end FFmt

/-- n / d rounded to an integer. -/
def rdiv (m : Rnd) (n d : Nat) : Nat :=
  let q := n / d
  let r := n % d
  match m with
  | .rtz => q
  | .rta => if 2 * r ≥ d then q + 1 else q
  | .rne => if 2 * r > d then q + 1 else if 2 * r = d then q + q % 2 else q

/-- floor(log2(n / d)) for n, d ≥ 1. -/
def flog2 (n d : Nat) : Int :=
  let l : Int := (Nat.log2 n : Int) - (Nat.log2 d : Int)
  let ge : Bool := if l ≥ 0 then decide (n ≥ d * 2 ^ l.toNat) else decide (n * 2 ^ (-l).toNat ≥ d)
  if ge then l else l - 1

/-- n / d times 2^k, as a numerator and a denominator. -/
def scale2 (n d : Nat) (k : Int) : Nat × Nat :=
  if k ≥ 0 then (n * 2 ^ k.toNat, d) else (n, d * 2 ^ (-k).toNat)

/-- The magnitude code (exponent field above mantissa) of n / d rounded with an unbounded exponent (R68). -/
def magCode (f : FFmt) (m : Rnd) (n d : Nat) : Nat :=
  if n = 0 then 0 else
  let emin : Int := 1 - (f.bias : Int) - f.mbits
  let q : Int := max (flog2 n d - f.mbits) emin
  let (n', d') := scale2 n d (-q)
  let k := rdiv m n' d'
  -- value k * 2^q; k ≤ 2^(mbits+1); the codes of one exponent are 2^mbits apart
  if k < 2 ^ f.mbits then k else ((q - emin).toNat + 1) * 2 ^ f.mbits + (k - 2 ^ f.mbits)

/-- A value rounded to a floating layout with infinities, as vector arithmetic rounds (R195): overflow is infinite. -/
def encodeF (f : FFmt) (m : Rnd) (v : FVal) : Nat :=
  match v with
  | .nan => f.nanCode
  | .inf s => f.infCode + (if s then f.signBit else 0)
  | .fin s n d => min (magCode f m n d) f.infCode + (if s then f.signBit else 0)

/-- round_fp32_rne of the manual's pseudocode. -/
def f32 (v : FVal) : W32 := BitVec.ofNat 32 (encodeF fmtF32 .rne v)
/-- The value of FP32 bits. -/
def ofF32 (w : W32) : FVal := fmtF32.decode w.toNat

namespace FVal

def isNan : FVal → Bool
  | .nan => true
  | _ => false
def isFinite : FVal → Bool
  | .fin _ _ _ => true
  | _ => false
def isZero : FVal → Bool
  | .fin _ n _ => n == 0
  | _ => false
def neg : FVal → FVal
  | .nan => .nan
  | .inf s => .inf (!s)
  | .fin s n d => .fin (!s) n d
def abs : FVal → FVal
  | .nan => .nan
  | .inf _ => .inf false
  | .fin _ n d => .fin false n d
def sign : FVal → Bool
  | .nan => false
  | .inf s => s
  | .fin s _ _ => s

def ofInt (i : Int) : FVal := .fin (i < 0) i.natAbs 1
/-- The signed numerator over the denominator. -/
def num : FVal → Int
  | .fin s n _ => if s then -(n : Int) else n
  | _ => 0
def den : FVal → Nat
  | .fin _ _ d => d
  | _ => 1

/-- Exact sum. An exact zero is -0 only when both terms are negative zeros (IEEE 754, nearest rounding). -/
def add (a b : FVal) : FVal :=
  match a, b with
  | .nan, _ => .nan
  | _, .nan => .nan
  | .inf s, .inf t => if s = t then .inf s else .nan
  | .inf s, _ => .inf s
  | _, .inf t => .inf t
  | .fin s n d, .fin t n' d' =>
    let i : Int := (if s then -((n * d' : Nat) : Int) else (n * d' : Nat)) + (if t then -((n' * d : Nat) : Int) else (n' * d : Nat))
    if i = 0 then .fin (s && t) 0 1 else .fin (i < 0) i.natAbs (d * d')

def sub (a b : FVal) : FVal := add a b.neg

/-- Exact product; an infinity times a zero is NaN. -/
def mul (a b : FVal) : FVal :=
  match a, b with
  | .nan, _ => .nan
  | _, .nan => .nan
  | .inf s, .inf t => .inf (s != t)
  | .inf s, .fin t n _ => if n = 0 then .nan else .inf (s != t)
  | .fin s n _, .inf t => if n = 0 then .nan else .inf (s != t)
  | .fin s n d, .fin t n' d' => .fin (s != t) (n * n') (d * d')

/-- Exact quotient, IEEE 754-2019 division (R201). -/
def div (a b : FVal) : FVal :=
  match a, b with
  | .nan, _ => .nan
  | _, .nan => .nan
  | .inf _, .inf _ => .nan
  | .inf s, .fin t _ _ => .inf (s != t)
  | .fin s _ _, .inf t => .fin (s != t) 0 1
  | .fin s n d, .fin t n' d' =>
    if n' = 0 then (if n = 0 then .nan else .inf (s != t)) else .fin (s != t) (n * d') (d * n')

/-- Times 2^k. -/
def scale (v : FVal) (k : Int) : FVal :=
  match v with
  | .fin s n d => let p := scale2 n d k; .fin s p.1 p.2
  | v => v

/-- Ordered comparison of two values that are not NaN: a < b, with -0 equal to +0 (R198). -/
def lt (a b : FVal) : Bool :=
  match a, b with
  | .inf s, .inf t => s && !t
  | .inf s, .fin _ _ _ => s
  | .fin _ _ _, .inf t => !t
  | .fin _ _ d, .fin _ _ d' => decide (a.num * d' < b.num * d)
  | _, _ => false
def eq (a b : FVal) : Bool :=
  match a, b with
  | .inf s, .inf t => s == t
  | .fin _ _ d, .fin _ _ d' => decide (a.num * d' = b.num * d)
  | _, _ => false
def le (a b : FVal) : Bool := lt a b || eq a b

/-- minimumNumber of IEEE 754-2019 (R197): -0 counts as less than +0. -/
def minNum (a b : FVal) : FVal :=
  match a, b with
  | .nan, b => b
  | a, .nan => a
  | a, b => if lt a b then a else if lt b a then b else if a.sign then a else b
/-- maximumNumber (R197). -/
def maxNum (a b : FVal) : FVal :=
  match a, b with
  | .nan, b => b
  | a, .nan => a
  | a, b => if lt a b then b else if lt b a then a else if a.sign then b else a

/-- Rounded to an integral value by `r` on the magnitude, given the sign; infinities, zeros and signs kept (R196). -/
def integral (r : Bool → Nat → Nat → Nat) (v : FVal) : FVal :=
  match v with
  | .fin s n d => .fin s (r s n d) 1
  | v => v
/-- floor toward minus infinity on a magnitude of sign s. -/
def floorMag (s : Bool) (n d : Nat) : Nat := if s then (n + d - 1) / d else n / d
def ceilMag (s : Bool) (n d : Nat) : Nat := if s then n / d else (n + d - 1) / d
def floorInt (v : FVal) : Int :=
  match v with
  | .fin s n d => if s then -(floorMag s n d : Int) else floorMag s n d
  | _ => 0

end FVal

/-- The signed integer nearest n / d of sign s. -/
def roundInt (m : Rnd) (v : FVal) : Int :=
  match v with
  | .fin s n d => if s then -(rdiv m n d : Int) else rdiv m n d
  | _ => 0

/-! ### Format codes (R55) -/

/-- The floating layout of a code, the elements of the MX formats among them. -/
def floatFmt (code : Nat) : Option FFmt :=
  match code with
  | 1 => some fmtF32
  | 2 => some fmtF16
  | 3 => some fmtBF16
  | 4 => some fmtE4M3
  | 5 => some fmtE5M2
  | 6 => some fmtE2M3
  | 7 => some fmtE3M2
  | 8 => some fmtE2M1
  | 9 => some fmtE4M3
  | 10 => some fmtE5M2
  | 11 => some fmtE2M3
  | 12 => some fmtE3M2
  | 13 => some fmtE2M1
  | _ => none

/-- Is the code an MX format (R55)? -/
def isMx (code : Nat) : Bool := 9 ≤ code && code ≤ 14

/-- Element width in bits of a code (R55); onion elements have `planes` bits. -/
def fmtBits (code planes : Nat) : Nat :=
  match code with
  | 1 => 32 | 2 => 16 | 3 => 16 | 4 => 8 | 5 => 8 | 6 => 6 | 7 => 6 | 8 => 4 | 9 => 8 | 10 => 8 | 11 => 6 | 12 => 6
  | 13 => 4 | 14 => 8 | 15 => 8 | 16 => 8 | 17 => 8 | 18 => 16 | 19 => 32 | 20 => planes | 21 => 24 | 22 => 8 | 23 => 8
  | _ => 0

/-- Saturation class of a code (R55). -/
def satClass (code : Nat) : Option (Fin 4) :=
  match code with
  | 2 => some 0 | 3 => some 0
  | 4 => some 1 | 5 => some 1 | 9 => some 1 | 10 => some 1
  | 6 => some 2 | 7 => some 2 | 8 => some 2 | 11 => some 2 | 12 => some 2 | 13 => some 2
  | 14 => some 3 | 16 => some 3 | 17 => some 3 | 18 => some 3 | 19 => some 3 | 20 => some 3 | 22 => some 3 | 23 => some 3
  | _ => none

/-- Two's complement value of the low w bits. -/
def sext (w n : Nat) : Int :=
  let r := n % 2 ^ w
  if 2 * r ≥ 2 ^ w then (r : Int) - 2 ^ w else r

/-- The low w bits of an integer. -/
def lowBits (w : Nat) (i : Int) : Nat := (i % (2 ^ w : Int)).toNat

/-- Integer codes: width, signedness (INT8, UINT8, INT16, INT32, ON of k planes, MXINT8). -/
def intFmt (code planes : Nat) : Option (Nat × Bool) :=
  match code with
  | 14 => some (8, true)
  | 16 => some (8, true)
  | 17 => some (8, false)
  | 18 => some (16, true)
  | 19 => some (32, true)
  | 20 => some (planes, true)
  | _ => none

/-- The exact value of an element (R59 to R65). Onion and MX elements are without scale. -/
def valueOf (code planes bits : Nat) : FVal :=
  match floatFmt code with
  | some f => f.decode (bits % 2 ^ f.width)
  | none =>
    match code with
    | 14 => (FVal.ofInt (sext 8 bits)).scale (-6)
    | 16 => .ofInt (sext 8 bits)
    | 17 => .ofInt (bits % 256)
    | 18 => .ofInt (sext 16 bits)
    | 19 => .ofInt (sext 32 bits)
    | 20 => .ofInt (sext planes bits)
    | 21 => .ofInt (sext 24 bits)
    | 22 => .fin false (bits % 256) 255
    | 23 => let i := max (sext 8 bits) (-127); .fin (i < 0) i.natAbs 127
    | _ => .fin false 0 1

/-- The rounding mode of a narrowing to a code under an rnd field (R66, R67). -/
def narrowMode (code rnd : Nat) : Rnd :=
  match rnd with
  | 1 => .rne
  | 2 => .rtz
  | _ => if code = 2 || code = 3 || code = 18 || code = 19 || code = 1 then .rne else .rta

/-- Range of an integer target. -/
def intRange (w : Nat) (sgn : Bool) : Int × Int :=
  if sgn then (-(2 ^ (w - 1) : Int), 2 ^ (w - 1) - 1) else (0, 2 ^ w - 1)

/-- Narrowing of a floating value to a floating target without the unlimited range of `encodeF` (R68, R69).
`mx` marks an MX element target, which clamps as FP6 does. Answers the code and whether a clamp was made. -/
def narrowFloat (f : FFmt) (mx : Bool) (mode : Rnd) (sat : Bool) (v : FVal) : Nat × Bool :=
  let s := if v.sign then f.signBit else 0
  match v with
  | .nan => (f.nanCode, f.sp == .none)
  | .inf _ =>
    if mx || f.sp == .none then (f.maxCode + s, true)
    else match f.sp with
      | .ieee => if sat then (f.maxCode + s, true) else (f.infCode + s, false)
      | _ => if sat then (f.maxCode + s, true) else (f.nanCode + s, false)
  | .fin _ n d =>
    let c := magCode f mode n d
    if c ≤ f.maxCode then (c + s, false)
    else if mx || f.sp == .none then (f.maxCode + s, true)
    else match f.sp with
      | .ieee =>
        if sat then (f.maxCode + s, true)
        else if mode = .rtz then (f.maxCode + s, true)
        else (f.infCode + s, false)
      | _ => if sat then (f.maxCode + s, true) else (f.nanCode + s, false)

/-- An exact value narrowed or converted to a code (R66 to R69): the element's bits and whether a clamp was made.
`srcInt` says that the source is an integer format (the last row of R68). FP32 targets are rounded as vector
arithmetic rounds: integers reach them inexactly (R203), and an MX element times its scale may lie beyond their range, which gives an
infinity. [MARKS DEDUCED log 139, DEDUCED log 146] -/
def narrow (code planes rnd : Nat) (sat srcInt : Bool) (v : FVal) : Nat × Bool :=
  let mode := narrowMode code rnd
  match floatFmt code with
  | some f => if code = 1 then (encodeF fmtF32 mode v, false) else narrowFloat f (isMx code) mode sat v
  | none =>
    match intFmt code planes with
    | some (w, sgn) =>
      let (lo, hi) := intRange w sgn
      -- MXINT8 elements hold value * 2^6 (R64)
      let v' := if code = 14 then v.scale 6 else v
      match v' with
      | .nan => (0, true)
      | .inf s => (lowBits w (if s then lo else hi), true)
      | .fin _ _ _ =>
        let i := roundInt mode v'
        if lo ≤ i ∧ i ≤ hi then (lowBits w i, false)
        else if srcInt && !sat && code ≠ 14 then (lowBits w i, false)
        else (lowBits w (if i < lo then lo else hi), true)
    | none =>
      match code with
      | 22 =>
        match v with
        | .nan => (0, true)
        | .inf s => (if s then 0 else 255, true)
        | .fin s n d =>
          let k := rdiv mode (n * 255) d
          if s then (if k = 0 then (0, false) else (0, true)) else if k ≤ 255 then (k, false) else (255, true)
      | 23 =>
        match v with
        | .nan => (0, true)
        | .inf s => (if s then 0x81 else 127, true)
        | .fin s n d =>
          let k := rdiv mode (n * 127) d
          let (k', cl) := if k ≤ 127 then (k, false) else (127, true)
          (lowBits 8 (if s then -(k' : Int) else k'), cl)
      | _ => (0, false)

/-- Is every value of code `s` representable in code `t`, so that a conversion is no narrowing? Used only for the
rounding of an exact value, which is the same either way; kept for R203's "not narrowing is exact". -/
def isIntCode (c : Nat) : Bool := c = 16 || c = 17 || c = 18 || c = 19 || c = 20

/-! ### Quantising to MX blocks (R73) -/

/-- emax of an MX element format. -/
def mxEmax (code : Nat) : Int :=
  match code with
  | 9 => 8 | 10 => 15 | 11 => 2 | 12 => 4 | 13 => 2 | _ => 0

/-- The larger magnitude of two finite values. -/
def maxMag (a b : FVal) : FVal := if FVal.lt a.abs b.abs then b.abs else a.abs

/-- R73: the scale code, the element codes and how many of them were clamped. -/
def mxQuant (code rnd : Nat) (sat : Bool) (xs : List FVal) : Nat × List Nat × Nat :=
  if xs.any (fun x => !x.isFinite) then (0xFF, xs.map (fun _ => 0), 0)
  else
    match xs.foldl maxMag (.fin false 0 1) with
    | .fin _ 0 _ => (0, xs.map (fun _ => 0), 0)
    | .fin _ n d =>
      let e := max (-127) (min 127 (flog2 n d - mxEmax code))
      let rs := xs.map (fun x => narrow code 0 rnd sat false (x.scale (-e)))
      ((e + 127).toNat, rs.map Prod.fst, (rs.filter Prod.snd).length)
    | _ => (0xFF, xs.map (fun _ => 0), 0)

/-- 2^(e - 127), or NaN, of an E8M0 code (R61), applied to a value. -/
def applyScale (sc : Nat) (v : FVal) : FVal := if sc % 256 = 0xFF then .nan else v.scale ((sc % 256 : Nat) - 127)

/-! ### The onion (R76 to R78) -/

/-- A read of k of n planes: floor(x / 2^(n-k)). -/
def onionRead (n k : Nat) (x : Int) : Int := x / (2 ^ (n - k) : Int)

end Sys2Proof.Machine
end

