-- ==== Sys2Proof/Machine/Approx.lean ====
section
/-! DEFINITION. Square roots, and the approximate functions of R200, R201 and R260: an exact value in high-precision fixed
point, the interval its bound allows, and a free choice (`Config.approxPick`) of the result inside that interval. -/

namespace Sys2Proof.Machine

/-- floor(sqrt n), bit by bit from 2^i down. -/
def isqrtBits (n : Nat) : Nat → Nat → Nat
  | 0, r => r
  | i + 1, r => isqrtBits n i (if (r + 2 ^ i) * (r + 2 ^ i) ≤ n then r + 2 ^ i else r)
def isqrt (n : Nat) : Nat := isqrtBits n (Nat.log2 n / 2 + 1) 0

/-- sqrt(n / d) as a rational with a sticky last bit below every rounding position of FP32. -/
def sqrtSticky (n d : Nat) : Nat × Nat :=
  let k : Nat := 200
  let x := n * 2 ^ (2 * k) / d
  let s := isqrt x
  let sticky := if s * s = x ∧ n * 2 ^ (2 * k) % d = 0 then 0 else 1
  (2 * s + sticky, 2 ^ (k + 1))

/-- VSQRT: correctly rounded (R200, R201). -/
def sqrtF32 (a : W32) : W32 :=
  match ofF32 a with
  | .nan => f32 .nan
  | .inf s => if s then f32 .nan else f32 (.inf false)
  | .fin s n d => if n = 0 then f32 (.fin s 0 1) else if s then f32 .nan else
      let p := sqrtSticky n d; f32 (.fin false p.1 p.2)

/-! ### Fixed point, 128 fraction bits -/

def fxOne : Int := 2 ^ 128
/-- ln 2 and pi in fixed point, from their decimal expansions. -/
def fxLn2 : Int := 693147180559945309417232121458176568075500134360255254120680 * 2 ^ 128 / 10 ^ 60
def fxPi : Int := 3141592653589793238462643383279502884197169399375105820974944 * 2 ^ 128 / 10 ^ 60

/-- sum over k of t^k / k!, `fuel` more terms after `term` = t^k / k!. -/
def expTaylor (t : Int) : Nat → Int → Int → Int
  | 0, _, acc => acc
  | f + 1, term, acc =>
    let k : Int := 60 - (f : Int)
    let term' := term * t / 2 ^ 128 / k
    expTaylor t f term' (acc + term')

/-- e^t as a fixed-point mantissa in [1, 2) and a binary exponent. -/
def expFx (t : Int) : Int × Int :=
  let k := t / fxLn2
  let r := t - k * fxLn2
  (expTaylor r 60 fxOne fxOne, k)

/-- sum of the alternating series of sine (start term t, k = 1) or cosine (start term 1, k = 0). -/
def trigTaylor (t2 : Int) : Nat → Int → Int → Int → Int
  | 0, _, _, acc => acc
  | f + 1, k, term, acc =>
    let term' := -(term * t2 / 2 ^ 128) / ((k + 1) * (k + 2))
    trigTaylor t2 f (k + 2) term' (acc + term')

/-- atanh's series: sum of z^(2k+1) / (2k+1). -/
def atanhSeries (z2 : Int) : Nat → Int → Int → Int → Int
  | 0, _, _, acc => acc
  | f + 1, k, p, acc =>
    let p' := p * z2 / 2 ^ 128
    atanhSeries z2 f (k + 2) p' (acc + p' / (k + 2))

/-- n / d in fixed point. -/
def toFx (v : FVal) : Int := v.num * 2 ^ 128 / (v.den : Int)
def ofFx (x : Int) : FVal := .fin (x < 0) x.natAbs (2 ^ 128)

/-- log2 of n / d in fixed point. -/
def log2Fx (n d : Nat) : Int :=
  let e := flog2 n d
  let (n', d') := scale2 n d (-e)
  let z : Int := ((n' : Int) - d') * 2 ^ 128 / (n' + d' : Nat)
  let at2 := 2 * atanhSeries (z * z / 2 ^ 128) 50 1 z z
  e * 2 ^ 128 + at2 * 2 ^ 128 / fxLn2

/-! ### Values inside a bound -/

/-- One unit in the last place of FP32 at a value; 2^-149 for subnormals and zero (R200). -/
def ulpF32 (v : FVal) : FVal :=
  match v with
  | .fin _ n d => if n = 0 then .fin false 1 (2 ^ 149) else
      let e := max (flog2 n d - 23) (-149)
      (FVal.fin false 1 1).scale e
  | v => v

/-- FP32 codes on one signed line: negative codes below zero. -/
def orderOf (neg : Bool) (c : Nat) : Int := if neg then -(c : Int) else c
def lineF32 (i : Int) : W32 := if i < 0 then BitVec.ofNat 32 (2 ^ 31 + i.natAbs) else BitVec.ofNat 32 i.natAbs

/-- The largest code of a magnitude at most n / d, and the smallest at least n / d. -/
def magDown (n d : Nat) : Nat := min (magCode fmtF32 .rtz n d) fmtF32.maxCode
def magUp (n d : Nat) : Nat :=
  let c := magCode fmtF32 .rtz n d
  let c' := if FVal.lt (fmtF32.decode (min c fmtF32.maxCode)) (.fin false n d) then c + 1 else c
  min c' fmtF32.maxCode

/-- The lowest finite FP32 at or above a value, and the highest at or below it, on the signed line. -/
def lineUp (v : FVal) : Int :=
  match v with
  | .fin s n d => if s then orderOf true (magDown n d) else orderOf false (magUp n d)
  | _ => 0
def lineDown (v : FVal) : Int :=
  match v with
  | .fin s n d => if s then orderOf true (magUp n d) else orderOf false (magDown n d)
  | _ => 0

/-- The free choice among the finite FP32 values within `bound` of `x`, zeros of both signs among them; the nearest value where the interval
holds none. [MARK DESIGN CHOICE log 54] -/
def pickWithin (fn : Nat) (a : W32) (x bound : FVal) : W32 :=
  let lo := lineUp (x.sub bound)
  let hi := lineDown (x.add bound)
  let n := (hi - lo).toNat + 1
  let k := Config.approxPick fn a % (if lo ≤ 0 ∧ 0 ≤ hi then n + 1 else n)
  if lo ≤ hi then (if k = n then f32 (.fin true 0 1) else lineF32 (lo + (k : Nat))) else f32 x

/-- Is a magnitude beyond the FP32 range once rounded? -/
def overflowsF32 (v : FVal) : Bool :=
  match v with
  | .fin _ n d => decide (magCode fmtF32 .rne n d > fmtF32.maxCode)
  | _ => false

/-- Within `k` units in the last place of `x`; a result beyond the range is infinite. [MARK DESIGN CHOICE log 54] -/
def pickUlps (fn k : Nat) (a : W32) (x : FVal) : W32 :=
  if overflowsF32 x then f32 (.inf x.sign)
  else pickWithin fn a x ((ulpF32 x).mul (.fin false k 1))

/-- Is n / d a power of two? -/
def isPow2 (n d : Nat) : Bool :=
  n != 0 && (let p := scale2 n d (-(flog2 n d)); p.1 == p.2)

/-- VRCP (R200, R201). [MARK DESIGN CHOICE log 54] -/
def rcpF32 (a : W32) : W32 :=
  match ofF32 a with
  | .nan => f32 .nan
  | .inf s => f32 (.fin s 0 1)
  | .fin s n d =>
    if n = 0 then f32 (.inf s)
    else
      let x := FVal.fin s d n
      if isPow2 d n && decide (flog2 d n ≥ -126) && decide (flog2 d n ≤ 127) then f32 x else pickUlps Config.fnRcp 1 a x

/-- VRSQ (R200, R201). -/
def rsqF32 (a : W32) : W32 :=
  match ofF32 a with
  | .nan => f32 .nan
  | .inf s => if s then f32 .nan else f32 (.fin false 0 1)
  | .fin s n d =>
    if n = 0 then f32 (.inf s)
    else if s then f32 .nan
    else
      let p := sqrtSticky d n
      let x := FVal.fin false p.1 p.2
      if isPow2 n d && flog2 n d % 2 == 0 then f32 x else pickUlps Config.fnRsq 1 a x

/-- 2^v of an exact finite value, as an exact-enough rational. -/
def exp2Val (v : FVal) : FVal :=
  let t := max (-(400 * 2 ^ 128)) (min (400 * 2 ^ 128) (toFx v))
  let i := t / 2 ^ 128
  let fr := t - i * 2 ^ 128
  let e := expFx (fr * fxLn2 / 2 ^ 128)
  (ofFx e.1).scale (e.2 + i)

/-- VEXP2 (R200, R201). [MARK DESIGN CHOICE log 54] -/
def exp2F32 (a : W32) : W32 :=
  match ofF32 a with
  | .nan => f32 .nan
  | .inf s => if s then f32 (.fin false 0 1) else f32 (.inf false)
  | .fin s n d =>
    if n = 0 then f32 (.fin false 1 1)
    else if n % d = 0 ∧ FVal.le (.fin s n d) (.fin false 127 1) ∧ FVal.le (.fin true 126 1) (.fin s n d) then
      f32 ((FVal.fin false 1 1).scale (if s then -(n / d : Nat) else (n / d : Nat)))
    else if FVal.le (.fin false 128 1) (.fin s n d) then f32 (.inf false)
    else pickUlps Config.fnExp2 2 a (exp2Val (.fin s n d))

/-- VLOG2 (R200, R201). [MARK DESIGN CHOICE log 54] -/
def log2F32 (a : W32) : W32 :=
  match ofF32 a with
  | .nan => f32 .nan
  | .inf s => if s then f32 .nan else f32 (.inf false)
  | .fin s n d =>
    if n = 0 then f32 (.inf true)
    else if s then f32 .nan
    else if isPow2 n d then f32 (.ofInt (flog2 n d))
    else
      let x := ofFx (log2Fx n d)
      if FVal.le (.fin false 1 2) x.abs then pickUlps Config.fnLog2 2 a x
      else pickWithin Config.fnLog2 a x (.fin false 1 (2 ^ 22))

/-- VSIN (cos = false) and VCOS (R200, R201): the argument in turns. [MARK DESIGN CHOICE log 54] -/
def trigF32 (cos : Bool) (a : W32) : W32 :=
  match ofF32 a with
  | .fin s n d =>
    if 4 * n % d = 0 then
      let k := (4 * n / d) % 4
      let k := if s then (4 - k) % 4 else k
      if cos then (match k with | 0 => f32 (.fin false 1 1) | 2 => f32 (.fin true 1 1) | _ => f32 (.fin false 0 1))
      else (match k with | 1 => f32 (.fin false 1 1) | 3 => f32 (.fin true 1 1) | _ => f32 (.fin s 0 1))
    else
      let r := n % d
      let t := 2 * fxPi * ((if s then -(r : Int) else r) * 2 ^ 128 / d) / 2 ^ 128
      let t2 := t * t / 2 ^ 128
      let x := if cos then trigTaylor t2 50 0 fxOne fxOne else trigTaylor t2 50 1 t t
      pickWithin (if cos then Config.fnCos else Config.fnSin) a (ofFx x) (.fin false 1 (2 ^ 22))
  | _ => f32 .nan

/-- v times the logistic function of t: v * e^t / (1 + e^t). -/
def timesLogistic (v t : FVal) : FVal :=
  let tx := max (-(2000 * 2 ^ 128)) (min (2000 * 2 ^ 128) (toFx t))
  let e := expFx tx
  let et := (ofFx e.1).scale e.2
  (v.mul et).div (et.add (.fin false 1 1))

/-- GELU-tanh of R260: 0.5v(1 + tanh y) is v times the logistic function of 2y. [MARK DESIGN CHOICE log 54] -/
def geluF32 (w : W32) : W32 :=
  match ofF32 w with
  | .nan => f32 .nan
  | .inf s => if s then f32 (.fin true 0 1) else f32 (.inf false)
  | v =>
    if v.isZero then w else
      let y := (FVal.fin false 797885 1000000).mul (v.add ((FVal.fin false 44715 1000000).mul (v.mul (v.mul v))))
      pickUlps Config.fnGelu 2 w (timesLogistic v (y.mul (.fin false 2 1)))

/-- SiLU of R260: v / (1 + e^-v). [MARK DESIGN CHOICE log 54] -/
def siluF32 (w : W32) : W32 :=
  match ofF32 w with
  | .nan => f32 .nan
  | .inf s => if s then f32 (.fin true 0 1) else f32 (.inf false)
  | v => if v.isZero then w else pickUlps Config.fnSilu 2 w (timesLogistic v v)

end Sys2Proof.Machine
end

