-- ==== Sys2Proof/Syntax/Fields.lean ====
section
/-! DEFINITION. The operand fields an instruction holds (R147 to R151) and the data an event of the operation table names. -/

namespace Sys2Proof

/-- The five forms of R148. -/
inductive Form where
  | f64 | f96c | f96l | f128c | f128l
  deriving DecidableEq, Repr

/-- A source field: its two-bit kind tag and its 11-bit value (R150). -/
inductive Src where
  /-- tag 0b00: vector register -/
  | vec (n : BitVec 11)
  /-- tag 0b01: scalar number (R151) -/
  | scal (n : BitVec 11)
  /-- tag 0b10: constant bank and dword, bank in [10:8] -/
  | const (n : BitVec 11)
  /-- tag 0b11: inline literal, or 0x400 for the long literal (R153) -/
  | lit (n : BitVec 11)
  deriving DecidableEq, Repr

/-- The destination field: kind bit and number (R149). -/
inductive Dst where
  | vec (n : BitVec 11)
  | scal (n : BitVec 11)
  deriving DecidableEq, Repr

/-- Every field of an instruction word but its opcode (R147, R148). A field the form does not have is zero. -/
structure Operands where
  form : Form
  dst : Dst
  a : Src
  b : Src
  /-- source C, bits [76:64] of the C forms -/
  c : Src
  /-- source D, bits [89:77] of F128C -/
  d : Src
  /-- mod, bits [62:50] -/
  m : BitVec 13
  /-- xmod: [95:77] of F96C, [127:90] of F128C -/
  x : BitVec 38
  /-- the literal of the L forms, bits above 63 -/
  lit : BitVec 64
  deriving DecidableEq, Repr

/-- A host operation's flow (R341): ROD flows have a number, RUD has no order. A packet of a session's flows may fail authentication
(R463). [MARK DESIGN CHOICE log 114] -/
inductive Flow where
  | rod (n : Nat)
  | rud
  | forged (session : Nat)
  deriving DecidableEq, Repr

/-- What CREATE_CONTEXT is given (R346). -/
structure CreateRequest where
  /-- the SPDM session whose flow the endpoint is bound to -/
  session : Nat
  /-- frames (physical addresses, 64 KiB aligned) the context is given; the root table's frame among them -/
  frames : List Nat
  root : W64
  /-- the bound packet of mailbox 0, 64 bytes -/
  packet : List Byte
  slotBase : W64
  slots : Nat
  deriving DecidableEq, Repr

/-- What a start-up step met (R349, R467): passed, or failed with the units that failed, or hung. The units are, for steps 6 and 9,
the octets, die 1 in [31:16]; for step 7 the stacks; for step 12 the lanes, 4 for each port. -/
inductive StepResult where
  | pass
  | fail (units : BitVec 72)
  /-- the step fails, and in the same start UALink lanes fail (R471) -/
  | failLanes (units lanes : BitVec 72)
  | hang
  deriving DecidableEq, Repr

/-- How the reading of a line from HBM ends (R407, R410): without error, with an error corrected, or uncorrectable. -/
inductive FillRead where
  | good | corrected | failed
  deriving DecidableEq, Repr

/-- What comes of the attestation of the peer at a port (R345, R347, R463): its attestation, and the two signatures of its report. -/
structure PeerReport where
  port : Nat
  attested : Bool
  rsaOk : Bool
  slhOk : Bool
  deriving DecidableEq, Repr

/-- What a start finds around the package: the distance word of every other device, and what the ports' peers attest (R345, R347).
[MARK DESIGN CHOICE log 115] -/
structure Surroundings where
  hops : List (Nat × W32)
  reports : List PeerReport
  deriving DecidableEq, Repr

/-- Consecutive packets of a host Write: their bytes, and whether others follow (R340, R341). -/
structure Packets where
  bytes : List Byte
  more : Bool
  deriving DecidableEq, Repr

/-- The entry of a store queue: its group and its position in the queue (R122). -/
structure QueuePlace where
  group : Nat
  pos : Nat
  deriving DecidableEq, Repr

/-- What the sensors give: the package's power in milliwatts, and the hottest die sensor (R350). -/
structure SensorReading where
  power : Nat
  hottest : Nat
  deriving DecidableEq, Repr

/-- What a message between devices is (R309): a LAUNCH names its reply mailbox and whether its group was privileged.
[MARK DESIGN CHOICE log 33] -/
inductive PeerMsg where
  | post | copy | report
  | launch (reply : Option Nat) (priv : Bool)
  deriving DecidableEq, Repr

/-- A request a peer device makes of this one (R412, R340 for the message): all addresses are local HBM. -/
inductive PeerRequestIn where
  | read (device id addr n : Nat)
  | write (device id addr : Nat) (bytes : List Byte)
  /-- an atomic: operation code of R224, operand and compare value, and whether it returns the old value -/
  | atomic (device id addr aop : Nat) (c d : W64) (ret : Bool)
  /-- a message into a mailbox of a context -/
  | message (device id ctx mb : Nat) (kind : PeerMsg) (bytes : List Byte)
  /-- a timeline of a context advanced by a TPEER of the peer (R235) -/
  | timeline (device id ctx tl : Nat)
  /-- flits in a row that fail authentication at a port (R456, R463) -/
  | forged (port flits : Nat)
  deriving DecidableEq, Repr

end Sys2Proof
end

