-- ==== Sys2Proof/Syntax.lean ====
section
/-! DEFINITION. The instructions and operations of the device, one constructor per row of spec/opcode_table.json. -/

namespace Sys2Proof

/-- One row of the operation table: a word a gang issues (with its fields, R147), or an event of an engine, a home
segment, the distributor, the host, a link or firmware (with the names of what it acts on). -/
inductive Instr where
  /-- NOP (R176): Takes one issue slot and changes no state. -/
  | nop (o : Operands)
  /-- BR (R175): Unconditional PC-relative branch of each member slice. -/
  | br (o : Operands)
  /-- BRC (R175): Branches each slice on its scc with sense .T or .F, splitting the gang when members differ. -/
  | brc (o : Operands)
  /-- BEXECZ (R175): Branches the whole gang when the gang-assembled exec is zero. -/
  | bexecz (o : Operands)
  /-- BEXECNZ (R175): Branches the whole gang when the gang-assembled exec is nonzero. -/
  | bexecnz (o : Operands)
  /-- BRANY (R35): Each slice branches when any of its active lanes has vcc set, splitting the gang by decision. -/
  | brany (o : Operands)
  /-- BRALL (R35): Each slice branches when no active lane has vcc clear, splitting the gang by decision. -/
  | brall (o : Operands)
  /-- CALL (R175): Writes the return address into a scalar pair and branches PC-relative. -/
  | call (o : Operands)
  /-- RET (R175): Branches each slice to the 64-bit address in its scalar pair. -/
  | ret (o : Operands)
  /-- JMPI (R175): Indirect branch to a scalar-pair or constant target, splitting by distinct targets. -/
  | jmpi (o : Operands)
  /-- REGANG (R36): The slice waits at a rejoin tag until every slice of the rejoin set waits, then classes merge. -/
  | regang (o : Operands)
  /-- REGION (R40): Sets rentry to the address of the REGION in every member slice. -/
  | region (o : Operands)
  /-- YIELD (R322): Returns the group's current priority to its base level and counts as its last issue. -/
  | yield (o : Operands)
  /-- SLEEP (R178): The gang waits n cycles or until a barrier object of the team changes phase. -/
  | sleep (o : Operands)
  /-- SLEEP_EXPIRY (R178): The cycle counter reaches the SLEEP's issue value plus n and the gang becomes ready. -/
  | sleepExpiry (t g k : Nat)
  /-- EXIT (R38): Ends every member slice of the gang; may retire the group and complete rejoin or barrier arrivals. -/
  | exit (o : Operands)
  /-- TRAP (R363): Raises 11.code: codes 0-511 stop the group and abort its team, 512-1023 post a record and continue. -/
  | trap (o : Operands)
  /-- BAR (R179): Member slices arrive at a named barrier, opening a phase or joining it, and wait for completion. -/
  | bar (o : Operands)
  /-- GETID (R181): Writes the identifier chosen by the selector to a vector or scalar destination. -/
  | getid (o : Operands)
  /-- SFMT (R182): Sets the format register fmt in every member slice. -/
  | sfmt (o : Operands)
  /-- SMOV (R183): Scalar move. -/
  | smov (o : Operands)
  /-- SADD (R183): 32-bit scalar add with carry into scc. -/
  | sadd (o : Operands)
  /-- SSUB (R183): 32-bit scalar subtract with borrow into scc. -/
  | ssub (o : Operands)
  /-- SMUL (R183): Low 32 bits of a scalar product. -/
  | smul (o : Operands)
  /-- SMULHI (R183): High 32 bits of the signed scalar product. -/
  | smulhi (o : Operands)
  /-- SMULHU (R183): High 32 bits of the unsigned scalar product. -/
  | smulhu (o : Operands)
  /-- SAND (R183): Scalar AND, scc set when the result is nonzero. -/
  | sand (o : Operands)
  /-- SOR (R183): Scalar OR, scc set when the result is nonzero. -/
  | sor (o : Operands)
  /-- SXOR (R183): Scalar XOR, scc set when the result is nonzero. -/
  | sxor (o : Operands)
  /-- SANDN (R183): Scalar AND NOT, scc set when the result is nonzero. -/
  | sandn (o : Operands)
  /-- SSHL (R183): Scalar shift left. -/
  | sshl (o : Operands)
  /-- SSHR (R183): Scalar logical shift right. -/
  | sshr (o : Operands)
  /-- SSRA (R183): Scalar arithmetic shift right. -/
  | ssra (o : Operands)
  /-- SMIN (R183): Signed scalar minimum. -/
  | smin (o : Operands)
  /-- SMAX (R183): Signed scalar maximum. -/
  | smax (o : Operands)
  /-- SMINU (R183): Unsigned scalar minimum. -/
  | sminu (o : Operands)
  /-- SMAXU (R183): Unsigned scalar maximum. -/
  | smaxu (o : Operands)
  /-- SCMP (R184): 32-bit scalar comparison writing scc. -/
  | scmp (o : Operands)
  /-- SSEL (R183): Selects a or b by whether c is nonzero. -/
  | ssel (o : Operands)
  /-- SBFE (R185): Extracts a signed or unsigned bit field. -/
  | sbfe (o : Operands)
  /-- SBFI (R185): Inserts a bit field. -/
  | sbfi (o : Operands)
  /-- SCLZ (R183): Counts leading zero bits. -/
  | sclz (o : Operands)
  /-- SPOPC (R183): Counts set bits. -/
  | spopc (o : Operands)
  /-- SFF1 (R183): Index of the lowest set bit. -/
  | sff1 (o : Operands)
  /-- SDIVU (R183): Unsigned scalar division. -/
  | sdivu (o : Operands)
  /-- SREMU (R183): Unsigned scalar remainder. -/
  | sremu (o : Operands)
  /-- SBREV (R183): Reverses the bits of a scalar. -/
  | sbrev (o : Operands)
  /-- SADD64 (R186): 64-bit scalar add with carry into scc. -/
  | sadd64 (o : Operands)
  /-- SSUB64 (R186): 64-bit scalar subtract with borrow into scc. -/
  | ssub64 (o : Operands)
  /-- SMUL64 (R186): Low 64 bits of a 64-bit product. -/
  | smul64 (o : Operands)
  /-- SSHL64 (R186): 64-bit shift left. -/
  | sshl64 (o : Operands)
  /-- SSHR64 (R186): 64-bit logical shift right. -/
  | sshr64 (o : Operands)
  /-- SCMP64 (R184): 64-bit scalar comparison writing scc. -/
  | scmp64 (o : Operands)
  /-- SMOV64 (R186): 64-bit scalar move. -/
  | smov64 (o : Operands)
  /-- MSAVE (R187): Saves exec and narrows it by an operand mask. -/
  | msave (o : Operands)
  /-- MSET (R187): Sets exec from an operand. -/
  | mset (o : Operands)
  /-- MNOT (R187): Saves exec and sets it to the operand AND NOT exec. -/
  | mnot (o : Operands)
  /-- MCOUNT (R187): Counts the active lanes set in the operand. -/
  | mcount (o : Operands)
  /-- VMOV (R192): Vector move. -/
  | vmov (o : Operands)
  /-- VADD (R192): Vector integer add per element. -/
  | vadd (o : Operands)
  /-- VSUB (R192): Vector integer subtract per element. -/
  | vsub (o : Operands)
  /-- VMUL (R192): Low bits of the vector integer product. -/
  | vmul (o : Operands)
  /-- VMULHI (R192): High bits of the vector integer product. -/
  | vmulhi (o : Operands)
  /-- VMAD (R192): Vector integer multiply-add. -/
  | vmad (o : Operands)
  /-- VAND (R192): Vector AND. -/
  | vand (o : Operands)
  /-- VOR (R192): Vector OR. -/
  | vor (o : Operands)
  /-- VXOR (R192): Vector XOR. -/
  | vxor (o : Operands)
  /-- VSHL (R192): Vector shift left. -/
  | vshl (o : Operands)
  /-- VSHR (R192): Vector logical shift right. -/
  | vshr (o : Operands)
  /-- VSRA (R192): Vector arithmetic shift right. -/
  | vsra (o : Operands)
  /-- VMIN (R192): Vector integer minimum. -/
  | vmin (o : Operands)
  /-- VMAX (R192): Vector integer maximum. -/
  | vmax (o : Operands)
  /-- VCMP (R193): Vector integer comparison writing a lane mask. -/
  | vcmp (o : Operands)
  /-- VSEL (R194): Per-lane select by a vector or lane-mask operand. -/
  | vsel (o : Operands)
  /-- VBFE (R192): Per-lane bit field extract. -/
  | vbfe (o : Operands)
  /-- VBFI (R192): Per-lane bit field insert. -/
  | vbfi (o : Operands)
  /-- VPOPC (R192): Per-lane population count. -/
  | vpopc (o : Operands)
  /-- VCLZ (R192): Per-lane leading zero count. -/
  | vclz (o : Operands)
  /-- VADDC (R194): Per-lane add with carry in and out through vcc. -/
  | vaddc (o : Operands)
  /-- VFADD (R196): Floating add, rounded once to nearest even. -/
  | vfadd (o : Operands)
  /-- VFSUB (R196): Floating subtract. -/
  | vfsub (o : Operands)
  /-- VFMUL (R196): Floating multiply. -/
  | vfmul (o : Operands)
  /-- VFMA (R197): Fused floating multiply-add, rounded once. -/
  | vfma (o : Operands)
  /-- VFMIN (R197): IEEE minimumNumber per element. -/
  | vfmin (o : Operands)
  /-- VFMAX (R197): IEEE maximumNumber per element. -/
  | vfmax (o : Operands)
  /-- VFCMP (R198): Floating comparison writing a lane mask. -/
  | vfcmp (o : Operands)
  /-- VFRACT (R197): Fractional part a minus floor(a). -/
  | vfract (o : Operands)
  /-- VFLOOR (R196): Rounds down to an integral value. -/
  | vfloor (o : Operands)
  /-- VFCEIL (R196): Rounds up to an integral value. -/
  | vfceil (o : Operands)
  /-- VFRNDE (R196): Rounds to the nearest integral value, ties to even. -/
  | vfrnde (o : Operands)
  /-- VFTRUNC (R196): Rounds toward zero to an integral value. -/
  | vftrunc (o : Operands)
  /-- VFDOT2 (R197): Two-element dot product plus FP32 addend, rounded once. -/
  | vfdot2 (o : Operands)
  /-- VFCLASS (R199): Writes a lane mask of lanes whose class is in the operand mask. -/
  | vfclass (o : Operands)
  /-- VRCP (R200): Approximate reciprocal. -/
  | vrcp (o : Operands)
  /-- VRSQ (R200): Approximate reciprocal square root. -/
  | vrsq (o : Operands)
  /-- VSQRT (R200): Correctly rounded square root. -/
  | vsqrt (o : Operands)
  /-- VEXP2 (R200): Approximate power of two. -/
  | vexp2 (o : Operands)
  /-- VLOG2 (R200): Approximate base-2 logarithm. -/
  | vlog2 (o : Operands)
  /-- VSIN (R200): Sine of an argument in turns. -/
  | vsin (o : Operands)
  /-- VCOS (R200): Cosine of an argument in turns. -/
  | vcos (o : Operands)
  /-- VDIV (R200): Correctly rounded division. -/
  | vdiv (o : Operands)
  /-- VCVT (R203): Converts one element per lane between formats, narrowing under fmt. -/
  | vcvt (o : Operands)
  /-- VPACK (R204): Packs narrow elements from n registers into one image. -/
  | vpack (o : Operands)
  /-- VUNPACK (R204): Unpacks an image into n registers, zero- or sign-extended. -/
  | vunpack (o : Operands)
  /-- VQUANT (R205): Quantises FP32 values to ofmt, or to an MX block across the group. -/
  | vquant (o : Operands)
  /-- VDEQ (R206): Reconstructs FP32 values from codes with scale and zero point. -/
  | vdeq (o : Operands)
  /-- VSCALE (R207): Multiplies by a power of two, rounded once. -/
  | vscale (o : Operands)
  /-- QRANGE (R208): Computes per-lane scale and zero point of a channel range. -/
  | qrange (o : Operands)
  /-- VLANE (R209): Reads a lane within each slice. -/
  | vlane (o : Operands)
  /-- VBCAST (R209): Broadcasts one lane to all lanes. -/
  | vbcast (o : Operands)
  /-- VSHUF (R209): Per-lane arbitrary lane read. -/
  | vshuf (o : Operands)
  /-- VROT (R209): Rotates lanes by a uniform amount. -/
  | vrot (o : Operands)
  /-- VSWZ (R209): Reads the lane whose number is XORed with a uniform value. -/
  | vswz (o : Operands)
  /-- VREDUCE (R210): Pairwise-tree reduction over the group or each slice. -/
  | vreduce (o : Operands)
  /-- VSCAN (R210): Ordered left-fold scan, inclusive or exclusive. -/
  | vscan (o : Operands)
  /-- VFIRST (R209): Lane mask of the lowest set active lane of the gang or each slice. -/
  | vfirst (o : Operands)
  /-- VBALLOT (R209): Lane mask of lanes whose value is nonzero. -/
  | vballot (o : Operands)
  /-- VREADL (R209): Reads one lane into a scalar. -/
  | vreadl (o : Operands)
  /-- VWRITEL (R211): Writes a uniform value into one lane of a member slice. -/
  | vwritel (o : Operands)
  /-- VUNIF (R211): Reads the lowest active lane and sets scc when all active lanes agree. -/
  | vunif (o : Operands)
  /-- VLD (R216): Vector load through a buffer record with coalescing and translation. -/
  | vld (o : Operands)
  /-- VST (R216): Vector store at per-lane indices (F96C form) entering the store queue. -/
  | vst (o : Operands)
  /-- VST_SEQUENTIAL (R214): Vector store with lane L at index L or first + L (F64 and F96L forms). -/
  | vstSequential (o : Operands)
  /-- VLDX (R217): Converting load of one element per lane to FP32 or a 32-bit integer. -/
  | vldx (o : Operands)
  /-- VSTX (R217): Converting store narrowing each lane to the record format. -/
  | vstx (o : Operands)
  /-- SLD (R216): Scalar load through a buffer record. -/
  | sld (o : Operands)
  /-- SST (R216): Scalar store through a buffer record. -/
  | sst (o : Operands)
  /-- VPREF (R218): Prefetches sectors into L2 and L1 without visible effect. -/
  | vpref (o : Operands)
  /-- LDREC (R219): Builds a read-only INT32 record over a code pool. -/
  | ldrec (o : Operands)
  /-- VLDS (R220): Vector scratchpad load. -/
  | vlds (o : Operands)
  /-- VSTS (R220): Vector scratchpad store. -/
  | vsts (o : Operands)
  /-- SLDS (R220): Scalar scratchpad load. -/
  | slds (o : Operands)
  /-- SSTS (R220): Scalar scratchpad store. -/
  | ssts (o : Operands)
  /-- ACCZERO (R221): Zeroes accumulator tiles. -/
  | acczero (o : Operands)
  /-- ACCRD (R221): Reads an accumulator row into vector registers. -/
  | accrd (o : Operands)
  /-- ACCWR (R221): Writes vector registers into an accumulator row. -/
  | accwr (o : Operands)
  /-- ACCST (R221): Stores accumulator rows to scratchpad. -/
  | accst (o : Operands)
  /-- ACCLD (R221): Loads accumulator rows from scratchpad. -/
  | accld (o : Operands)
  /-- CBLD (R223): Loads dwords into a constant bank from memory. -/
  | cbld (o : Operands)
  /-- VATOM (R225): Per-lane global atomic performed at the home segment or owning device. -/
  | vatom (o : Operands)
  /-- VATOMS (R225): Per-lane scratchpad atomic. -/
  | vatoms (o : Operands)
  /-- SATOM (R225): Scalar global atomic. -/
  | satom (o : Operands)
  /-- FENCE (R129): Orders the group's accesses at a scope, waiting as its form requires. -/
  | fence (o : Operands)
  /-- FENCE_SMP (R131): Fence that also drains to home segments and invalidates the sampler cache. -/
  | fenceSmp (o : Operands)
  /-- VSAMPLE (R228): Filtered texture sample through the sampler path. -/
  | vsample (o : Operands)
  /-- VGATHER4 (R229): Gathers one component of the four bilinear taps. -/
  | vgather4 (o : Operands)
  /-- VSAMPLEL (R229): Trilinear sample blending two levels by a fraction. -/
  | vsamplel (o : Operands)
  /-- SAMPLER_RETURN (R230): Texels arrive and the filtered result is written to the lane's registers. -/
  | samplerReturn (t g r : Nat)
  /-- TCOPY (R232): Queues a copy with an optional transform between global, scratchpad and mailbox. -/
  | tcopy (o : Operands)
  /-- TCOPYX (R234): Queues a multi-plane copy completing once. -/
  | tcopyx (o : Operands)
  /-- TPEER (R235): Queues a global-to-global copy with one side in the peer window. -/
  | tpeer (o : Operands)
  /-- COPY_BYTES_LAND (R233): Copy bytes land at the destination and add to the barrier object's arrived bytes. -/
  | copyBytesLand (copy : Nat)
  /-- COPY_COMPLETE (R233): The last byte reaches its coherence point and the barrier object or timeline advances. -/
  | copyComplete (copy : Nat)
  /-- BARINIT (R237): Initialises a barrier object and sets its object bit. -/
  | barinit (o : Operands)
  /-- BAREXP (R237): Adds bytes to a barrier object's expected count. -/
  | barexp (o : Operands)
  /-- BARARV (R237): Decrements pending arrivals as a release at .CORE. -/
  | bararv (o : Operands)
  /-- BWAIT (R237): Waits until the barrier object's phase differs from the named one. -/
  | bwait (o : Operands)
  /-- BTEST (R237): Sets scc when the phase differs, acquiring when set. -/
  | btest (o : Operands)
  /-- TLWAIT (R238): Waits until a timeline counter reaches a value, acquiring at .DOM. -/
  | tlwait (o : Operands)
  /-- TLSIG (R238): Advances a timeline counter as a release at its scope. -/
  | tlsig (o : Operands)
  /-- TLRD (R238): Reads a timeline counter, relaxed. -/
  | tlrd (o : Operands)
  /-- MBPOST (R239): Posts bytes from scratchpad as a message to a local or peer mailbox. -/
  | mbpost (o : Operands)
  /-- LAUNCH (R315): Posts a launch packet as a message, optionally asking for a residency report. -/
  | launch (o : Operands)
  /-- SATRD (R241): Reads a saturation counter of the team. -/
  | satrd (o : Operands)
  /-- MJOB (R265): Queues a matrix job with its card, base tile and fmt, waiting for a queue entry. -/
  | mjob (o : Operands)
  /-- COMMIT (R266): Closes the group's open jobs into a numbered commit group. -/
  | commit (o : Operands)
  /-- MWAIT (R267): Waits until at most n commit groups are pending, then acquires at .CORE. -/
  | mwait (o : Operands)
  /-- MQUERY (R268): Reads job-queue and commit-group state. -/
  | mquery (o : Operands)
  /-- JOB_STEP_COMMIT (R245): A step's array cycles end and its accumulator, post-operator, statistics and counter effects commit together. -/
  | jobStepCommit (core : Nat)
  /-- TAGALLOC (R283): Allocates the lowest free tag index. -/
  | tagalloc (o : Operands)
  /-- TAGSET (R284): Writes masked dwords of a tag record at its home segment. -/
  | tagset (o : Operands)
  /-- TAGFREE (R285): Frees a tag index and advances its generation. -/
  | tagfree (o : Operands)
  /-- RVSEND (R286): Sends a scratchpad operand to a slot of a tag. -/
  | rvsend (o : Operands)
  /-- RVSENDG (R286): Sends vector register bytes to a slot of a tag. -/
  | rvsendg (o : Operands)
  /-- RENDEZVOUS_ARRIVAL (R277): An operand arrives at the tag's home segment, is checked, queued or combined with its partner. -/
  | rendezvousArrival (send : Nat)
  /-- RENDEZVOUS_TIMEOUT (R279): A round's timeout elapses, the operand goes to lost property and the tag is orphaned. -/
  | rendezvousTimeout (ctx index : Nat)
  /-- RENDEZVOUS_DELIVERY (R280): A result is delivered to a tag, scratchpad or global destination when its path has room. -/
  | rendezvousDelivery (entry dest : Nat)
  /-- GDONE (R289): Waits for the generator's stores and moves its block to filled. -/
  | gdone (o : Operands)
  /-- GFAIL (R289): Ends the generator's attempt with a code. -/
  | gfail (o : Operands)
  /-- PRBLK (R290): Reads the fill state of a procedural block. -/
  | prblk (o : Operands)
  /-- PREVICT (R291): Evicts a filled procedural block now or when it becomes unpinned. -/
  | previct (o : Operands)
  /-- PROCEDURAL_TOUCH (R114): A touch at the block's home segment starts a fill, queues, proceeds or is charged. -/
  | proceduralTouch (touch : Nat)
  /-- BLOCK_UNPIN (R118): The last access through a block is performed and a pending eviction takes effect. -/
  | blockUnpin (ctx block : Nat)
  /-- GENERATOR_ATTEMPT_END (R430): A generator attempt ends by a retried cause; a new team is launched after the old retires, or the block fails. -/
  | generatorAttemptEnd (ctx block : Nat)
  /-- SYSRD (R297): Reads a system register. -/
  | sysrd (o : Operands)
  /-- SYSWR (R297): Writes a system register that has no row of its own. -/
  | syswr (o : Operands)
  /-- APUSH (R300): SYSWR to apush0 or apush1 pushes a frame onto a die's allotment. -/
  | apush (o : Operands)
  /-- HENTRY_WRITE (R464): SYSWR to hentry takes effect only after both image signatures verify, else 10.1. -/
  | hentryWrite (o : Operands)
  /-- TRET (R301): Ends the handler and resumes at the faulting instruction. -/
  | tret (o : Operands)
  /-- TRET_OFF (R301): Switches off the faulting lanes and resumes without them. -/
  | tretOff (o : Operands)
  /-- PMAP (R298): Maps a frame into an invalid level-0 leaf. -/
  | pmap (o : Operands)
  /-- PUNMAP (R298): Clears a leaf and invalidates the page. -/
  | punmap (o : Operands)
  /-- PUNMAP_RET (R298): Clears a leaf and pushes its local frame back onto the allotment. -/
  | punmapRet (o : Operands)
  /-- TLBINV_ALL (R299): Discards every cached translation of the context and waits. -/
  | tlbinvAll (o : Operands)
  /-- TLBINV_PAGE (R299): Discards cached translations of one page. -/
  | tlbinvPage (o : Operands)
  /-- TLBINV_RANGE (R299): Discards cached translations of n consecutive pages. -/
  | tlbinvRange (o : Operands)
  /-- POOLGET (R300): Pops a frame from a die's part of the allotment. -/
  | poolget (o : Operands)
  /-- HALTCTX (R302): Begins a full stop of another context and advances a timeline once saved. -/
  | haltctx (o : Operands)
  /-- HALTCTX_RES (R451): Makes a stopped context runnable and restarts its sources. -/
  | haltctxRes (o : Operands)
  /-- MBREG (R303): Registers or withdraws a mailbox with its bound packet and slots. -/
  | mbreg (o : Operands)
  /-- PRDECL (R304): Declares a procedural range and writes its leaves. -/
  | prdecl (o : Operands)
  /-- PRDECL_DEL (R304): Deletes a procedural range once no block is filling. -/
  | prdeclDel (o : Operands)
  /-- TAGPOOL (R305): Sets the tag pool, annex and lost-property area and zeroes the records. -/
  | tagpool (o : Operands)
  /-- POOL_HEADER (R144): A pool header sends the slice past the pool. -/
  | poolHeader (w : BitVec 30)
  /-- STORE_QUEUE_DRAIN (R122): A store-queue entry leaves, updates L1 and reaches its coherence point. -/
  | storeQueueDrain (t : Nat) (entry : QueuePlace)
  /-- LOAD_RETURN (R50): Load data returns and the scoreboarded register is written. -/
  | loadReturn (t g r : Nat)
  /-- L2_FILL (R407): A home segment fills a line from HBM, delivering an uncorrectable error to its consumers. -/
  | l2Fill (line : Nat) (victim : Option Nat) (read : FillRead)
  /-- MAILBOX_MESSAGE (R308): A message is written whole into the lowest free slot, or held, dropped or refused. -/
  | mailboxMessage (msg : Nat)
  /-- RECORD_DELIVERY (R357): A queued fault record or held message takes a freed slot of its mailbox. -/
  | recordDelivery (ctx mb : Nat)
  /-- TEAM_START (R320): The constant banks are loaded and all groups of the team start together. -/
  | teamStart (t : Nat)
  /-- TEAM_RETIRE (R53): All groups retired and work settled, the team's resources return. -/
  | teamRetire (t : Nat)
  /-- PRIORITY_PROMOTION (R322): A ready group not issued for 64 cycles rises one priority level. -/
  | priorityPromotion (t g : Nat)
  /-- WAIT_WATCHDOG (R377): A wait lasting 2^32 cycles posts one 7.3 record. -/
  | waitWatchdog (t g k : Nat)
  /-- STARVED_LANES (R378): Lanes inactive for a watchdog interval post one 7.4 record. -/
  | starvedLanes (t g k : Nat)
  /-- RESIDENCY_REPORT_OVERDUE (R390): No report of a tracked LAUNCH within a watchdog interval posts 7.12. -/
  | residencyReportOverdue (ctx launch : Nat)
  /-- HOST_SEND (R340): An Ultra Ethernet Send places one message into a mailbox. -/
  | hostSend (flow : Flow) (ctx mb : Nat) (bytes : List Byte)
  /-- HOST_WRITE (R340): A Write stores bytes in the delivery window and advances a timeline. -/
  | hostWrite (flow : Flow) (ctx offset tl : Nat) (packets : Packets)
  /-- HOST_READ (R340): A Read returns bytes from the delivery window. -/
  | hostRead (flow : Flow) (ctx offset n : Nat)
  /-- HOST_ACKNOWLEDGEMENT (R342): The host transport acknowledges an outbound message, releasing .SYS waits. -/
  | hostAcknowledgement (msg : Nat)
  /-- GET_VERSION (R346): SPDM request for supported versions. -/
  | getVersion (session : Nat)
  /-- GET_CAPABILITIES (R346): SPDM request for capabilities. -/
  | getCapabilities (session : Nat)
  /-- NEGOTIATE_ALGORITHMS (R346): SPDM algorithm negotiation. -/
  | negotiateAlgorithms (session : Nat)
  /-- KEY_EXCHANGE (R346): Hybrid ECDH and ML-KEM session key exchange. -/
  | keyExchange (session : Nat)
  /-- FINISH (R346): Completes the SPDM session handshake. -/
  | finish (session : Nat)
  /-- KEY_UPDATE (R346): Updates session keys. -/
  | keyUpdate (session : Nat)
  /-- END_SESSION (R346): Ends the SPDM session. -/
  | endSession (session : Nat)
  /-- CREATE_CONTEXT (R346): Allocates a context, its key, frames, xlroot, host endpoint and privileged mailbox 0. -/
  | createContext (r : CreateRequest)
  /-- DESTROY_CONTEXT (R452): Stops a context, discards its state and erases its key. -/
  | destroyContext (session ctx : Nat)
  /-- GET_TELEMETRY (R350): Returns the telemetry block. -/
  | getTelemetry (session : Nat)
  /-- VACATE_CORES (R437): Makes cores ineligible and moves every team resident on them. -/
  | vacateCores (session : Nat) (mask : BitVec 256) (count : Nat)
  /-- RESTORE_CORES (R437): Makes named cores eligible again. -/
  | restoreCores (session : Nat) (mask : BitVec 256)
  /-- BIND_ENDPOINT (R465): Binds a context's host endpoint to this session's flow. -/
  | bindEndpoint (session ctx : Nat)
  /-- RESTART (R465): Starts again from step 1, setting the recovery-exit flag from recovery. -/
  | restart (session : Nat)
  /-- UPDATE_FIRMWARE (R465): Writes a verified firmware image to flash from the recovery image. -/
  | updateFirmware (session : Nat) (image : List Byte) (rsaOk slhOk : Bool)
  /-- SESSION_HEARTBEAT_EXPIRY (R462): Twice the heartbeat period without an authenticated packet ends the session. -/
  | sessionHeartbeatExpiry (session : Nat)
  /-- PEER_REQUEST (R412): A UALink request from a peer is performed at this device. -/
  | peerRequest (r : PeerRequestIn)
  /-- PEER_RESPONSE (R457): A response to an outstanding peer request arrives. -/
  | peerResponse (req : Nat) (bytes : List Byte) (code : Nat)
  /-- PEER_REQUEST_TIMEOUT (R457): A peer request unanswered for 2^24 cycles fails with 9.1. -/
  | peerRequestTimeout (req : Nat)
  /-- UALINK_LANE_FAIL (R458): A failed lane narrows the port or takes it out of service, replaying flits. -/
  | ualinkLaneFail (port lane : Nat)
  /-- BRIDGE_FLIT_FAIL (R411): A bridge flit is retransmitted, a lane spared, or 8.8 raised and every context stopped. -/
  | bridgeFlitFail (dir : Nat) (bulk : Bool) (retries : Nat)
  /-- POWER_THROTTLE (R350): Package power above the limit lowers the core clock in 100 MHz steps. -/
  | powerThrottle (sensors : SensorReading)
  /-- POWER_ON_RESET (R349): Power-good and reset run the sixteen start-up steps; what the peers of the ports attest (R347). -/
  | powerOnReset (steps : List StepResult) (id : BitVec 10) (around : Surroundings)
  /-- TEAM_SAVE (R439): Once drains, copies and jobs settle, the victim team's state is saved and its resources released. -/
  | teamSave (t : Nat)
  /-- CONTEXT_DRAIN_END (R448): Every free-slot counter of a draining context is full and saving begins. -/
  | contextDrainEnd (ctx : Nat)
  /-- PATH_CHANGE (R459): A path through the domain to a peer changes, and device firmware rewrites that peer's hop-table entry (pcls, hops), posting 9.5 or 9.3. -/
  | pathChange (device : Nat) (pcls : BitVec 2) (hops : BitVec 4)
  /-- GET_DIGESTS (R346): SPDM request for certificate digests. -/
  | getDigests (session : Nat)
  /-- GET_CERTIFICATE (R346): SPDM request for a certificate chain. -/
  | getCertificate (session : Nat)
  /-- CHALLENGE (R346): SPDM attestation challenge. -/
  | challenge (session : Nat)
  /-- GET_MEASUREMENTS (R346): SPDM request for measurements. -/
  | getMeasurements (session : Nat)
  /-- HEARTBEAT (R462): Keeps the SPDM session alive. -/
  | heartbeat (session : Nat)
  /-- RESET_DEGRADATION (R465): Clears the degradation table from the next start. -/
  | resetDegradation (session : Nat)
  /-- PORT_KEY_REFRESH (R347): A port's key is refreshed within 2^32 flits; failure takes the port out with 10.3. -/
  | portKeyRefresh (port : Nat) (ok : Bool)
  /-- ROW_DISTURBANCE_ALERT (R410): A row's activation count reaches its threshold and neighbours are refreshed. -/
  | rowDisturbanceAlert (die : Nat)
  /-- FILLER (R143): A zero word sends the slice to the next 32-byte boundary. -/
  | filler
  /-- TEAM_PLACEMENT (R318): Each cycle the distributor places at most one team, saved teams first. -/
  | teamPlacement
  /-- ETHERNET_LINK_DOWN (R461): A link loss lasting 100 ms posts 9.6 down. -/
  | ethernetLinkDown
  /-- ETHERNET_LINK_UP (R461): Link recovery after such a loss posts 9.6 up. -/
  | ethernetLinkUp
  /-- ETHERNET_LOSS_OF_LOCK (R461): The Ethernet port loses lock, starts retraining and begins timing the 100 ms after which 9.6 down is posted. -/
  | ethernetLossOfLock
  deriving DecidableEq, Repr

end Sys2Proof
end

