-- ==== Sys2Proof/Machine/Encoding.lean ====
section
/-! DEFINITION. The encoding tables: per instruction its opcode, accepted forms, operand fields and assigned modifier bits
(R147 to R161, and each instruction's own table). Decoding and the tests of R352 read them. -/

namespace Sys2Proof.Machine

/-- How often an instruction acts (R34). -/
inductive Kind where
  | lane | slice | issue
  deriving DecidableEq, Repr

/-- What a source field accepts (R150, R152, R213). -/
inductive Role where
  /-- the instruction does not read it: reserved -/
  | no
  /-- tags accepted: vector, scalar, constant, literal; 32-bit words of a scalar or constant operand; vector registers read;
  specials 70 and 72 read as 64-bit values -/
  | src (v s c l : Bool) (w vn : Nat) (spec : Bool)
  deriving DecidableEq, Repr

/-- What the destination field accepts (R149, R151, R152). -/
inductive DRole where
  | no
  /-- n vector registers -/
  | vec (n : Nat)
  /-- any scalar destination: s0 to s63, exec, vcc, scc; numbers 67 to 72 are read-only (0.8) -/
  | sreg
  /-- a lane mask: numbers 0 to 65 (R189) -/
  | mask
  /-- s0 to s63 -/
  | s63
  /-- q0 to q31; `ro`: numbers 67 to 72 are read-only specials (R365) -/
  | pair (ro : Bool)
  /-- MQUERY: q0 to q31; any other scalar number is 0.9 (R370) -/
  | even
  /-- b0 to b15 -/
  | quad
  /-- one word of any scalar destination, two or four words of s0 to s63 (R151, R152) -/
  | words (n : Nat)
  /-- one, two or four words of s0 to s63 -/
  | sized (n : Nat)
  /-- GETID: a vector register or s0 to s63 -/
  | vecOrS
  deriving DecidableEq, Repr

/-- What the tables say of one instruction with its operands. -/
structure Sig where
  op : Nat
  kind : Kind
  forms : List Form
  dst : DRole := .no
  a : Role := .no
  b : Role := .no
  c : Role := .no
  d : Role := .no
  /-- assigned bits of mod (bit 0 is instruction bit 50) and of xmod -/
  mm : Nat := 0
  xm : Nat := 0
  /-- an assigned field holds a reserved value (0.6) -/
  resv : Bool := false
  /-- closes the current region (R41) -/
  closes : Bool := false
  /-- a supervisor instruction (R293) -/
  sup : Bool := false
  deriving DecidableEq, Repr

/-- Instruction bits [h:l] of mod, bits 50 to 62. -/
def mf (o : Operands) (h l : Nat) : Nat := Word.field o.m.toNat (h - 50) (l - 50)

/-- The mask of instruction bits [h:l] within mod. -/
def bits (h l : Nat) : Nat := 2 ^ (h - 49) - 2 ^ (l - 50)

def fieldAbove (o : Operands) (h l n : Nat) : Bool := decide (mf o h l > n)
def fieldIs (o : Operands) (h l n : Nat) : Bool := decide (mf o h l = n)

/-- A 32-bit operand of any kind. -/
def anyW : Role := .src true true true true 1 1 true
/-- A uniform 32-bit operand: scalar, constant or literal. -/
def uniW : Role := .src false true true true 1 0 true
/-- A literal. -/
def litW : Role := .src false false false true 1 0 true
/-- A scalar or a literal. -/
def slW : Role := .src false true false true 1 0 true
/-- BAR's barrier: vector, scalar or literal (R176). -/
def vslW : Role := .src true true false true 1 1 true
/-- n vector registers. -/
def vecW (n : Nat) : Role := .src true false false false 1 n true
/-- A 64-bit operand (R152, R153). -/
def pairW : Role := .src false true true true 2 0 true
/-- RET's and JMPI's target: a pair, or an even constant dword (R174). -/
def targetW (c : Bool) : Role := .src false true c false 2 0 false
/-- A buffer record: quad, constant quad, or selector in a vector register (R213). -/
def recW : Role := .src true true true false 4 1 false
/-- A parameter quad (R231). -/
def quadW : Role := .src false true true false 4 0 false
/-- A data operand of n words (R215): no literal of four words exists. -/
def dataW (v : Bool) (n : Nat) : Role := .src v true true (n < 4) n n true
def no : Role := .no

def isC (o : Operands) : Bool := o.form == .f96c
def isD (o : Operands) : Bool := o.form == .f128c

/-- The value of an inline literal field, two's complement (R153). -/
def inlineLit (n : BitVec 11) : Int := n.toInt

/-- A literal selector outside 0 to n. -/
def litAbove (a : Src) (n : Nat) : Bool :=
  match a with
  | .lit k => decide (inlineLit k < 0 ∨ (n : Int) < inlineLit k)
  | _ => false

/-- Registers of a width code (R215). -/
def widthRegs (o : Operands) : Nat :=
  match mf o 62 60 with
  | 3 => 2
  | 4 => 4
  | _ => 1

/-- Bytes of a width code (R215). -/
def widthBytes (w : Nat) : Nat := 2 ^ w

/-- Width codes 5 to 7, and sx with w of 2 or more (R215). -/
def loadWidthReserved (o : Operands) : Bool := fieldAbove o 62 60 4 || (fieldIs o 59 59 1 && fieldAbove o 62 60 1)
/-- Width codes 5 to 7, and sx, on a store (R215). -/
def storeWidthReserved (o : Operands) : Bool := fieldAbove o 62 60 4 || fieldIs o 59 59 1
/-- A load takes ord 0 or 1 (R214); with ord 0 scope is ignored (R157). -/
def loadOrdReserved (o : Operands) : Bool := fieldAbove o 51 50 1 || (fieldIs o 51 50 1 && fieldAbove o 54 52 5)
/-- A store takes ord 0 or 2 (R214). -/
def storeOrdReserved (o : Operands) : Bool :=
  fieldIs o 51 50 1 || fieldIs o 51 50 3 || (fieldIs o 51 50 2 && fieldAbove o 54 52 5)

/-- The byte offset ofs in xmod [92:77] of the F96C form (R214). -/
def ofsMask (o : Operands) : Nat := if isC o then 0xFFFF else 0

/-- VPACK's and VUNPACK's n (R204). -/
def packCount (o : Operands) : Nat :=
  match mf o 52 50 with
  | 0 => 16 | 1 => 8 | 2 => 5 | 3 => 4 | 4 => 2 | _ => 1
def packWidth (o : Operands) : Nat :=
  match mf o 52 50 with
  | 0 => 2 | 1 => 4 | 2 => 6 | 3 => 8 | _ => 16

/-- nb of the accumulator instructions (R221). -/
def blockCount (o : Operands) : Nat := mf o 53 52 + 1

/-- Source format codes VCVT accepts, and their widths (R202). -/
def vcvtCode (n : Nat) : Bool := (1 ≤ n && n ≤ 8) || (16 ≤ n && n ≤ 19) || n == 22 || n == 23
def vcvtWidth (n : Nat) : Nat :=
  match n with
  | 1 => 32 | 2 => 16 | 3 => 16 | 6 => 6 | 7 => 6 | 8 => 4 | 18 => 16 | 19 => 32 | _ => 8
/-- A reserved VCVT format code or sel (R202). -/
def vcvtReserved (o : Operands) : Bool :=
  let s := mf o 54 50
  !vcvtCode s || !vcvtCode (mf o 59 55) ||
    decide (mf o 62 60 > (if s = 6 ∨ s = 7 then 4 else 32 / vcvtWidth s - 1))

/-- Atomics: .CAS, the 64-bit operations, .NR (R224). -/
def isCas (o : Operands) : Bool := fieldIs o 62 58 1
def atomRegs (o : Operands) : Nat := if 14 ≤ mf o 62 58 ∧ mf o 62 58 ≤ 16 then 2 else 1
def noReturn (o : Operands) : Bool := fieldIs o 55 55 1

/-- TCOPY's mod bits: exp only where dkind is 1 (R231). -/
def copyMask (o : Operands) : Nat := bits 62 60 + bits 53 50 + (if fieldIs o 62 61 1 then bits 59 59 else 0)

/-- The tables' row of an instruction; an event or a non-instruction word has none. [MARK DEDUCED log 148] -/
def sig (i : Instr) : Option Sig :=
  match i with
  | .nop _ => some { op := 0x000, kind := .issue, forms := [.f64] }
  | .br _ => some { op := 0x001, kind := .slice, forms := [.f64, .f96l], a := litW }
  | .brc _ => some { op := 0x002, kind := .slice, forms := [.f64, .f96l], a := litW, mm := bits 50 50 }
  | .bexecz _ => some { op := 0x003, kind := .slice, forms := [.f64, .f96l], a := litW }
  | .bexecnz _ => some { op := 0x004, kind := .slice, forms := [.f64, .f96l], a := litW }
  | .brany _ => some { op := 0x005, kind := .slice, forms := [.f64, .f96l], a := litW }
  | .brall _ => some { op := 0x006, kind := .slice, forms := [.f64, .f96l], a := litW }
  | .call _ => some { op := 0x007, kind := .slice, forms := [.f64, .f96l], dst := .pair false, a := litW }
  | .ret _ => some { op := 0x008, kind := .slice, forms := [.f64], a := (targetW false) }
  | .jmpi _ => some { op := 0x009, kind := .slice, forms := [.f64], a := (targetW true) }
  | .regang _ => some { op := 0x00A, kind := .slice, forms := [.f64, .f96l], a := slW }
  | .region _ => some { op := 0x00B, kind := .slice, forms := [.f64] }
  | .yield _ => some { op := 0x00C, kind := .issue, forms := [.f64] }
  | .sleep _ => some { op := 0x00D, kind := .issue, forms := [.f64, .f96l], a := uniW }
  | .exit _ => some { op := 0x00E, kind := .slice, forms := [.f64] }
  | .trap _ => some { op := 0x00F, kind := .issue, forms := [.f64], a := litW }
  | .bar _ => some { op := 0x010, kind := .issue, forms := [.f64], a := vslW, b := slW }
  | .getid o => some { op := 0x011, kind := .slice, forms := [.f64], dst := (if o.a = .lit 0 then .vec 1 else .vecOrS), a := litW, resv := (litAbove o.a 13) }
  | .sfmt _ => some { op := 0x012, kind := .slice, forms := [.f64, .f96l], a := uniW }
  | .smov _ => some { op := 0x040, kind := .slice, forms := [.f64, .f96l], dst := .sreg, a := uniW }
  | .sadd _ => some { op := 0x041, kind := .slice, forms := [.f64, .f96l], dst := .sreg, a := uniW, b := uniW }
  | .ssub _ => some { op := 0x042, kind := .slice, forms := [.f64, .f96l], dst := .sreg, a := uniW, b := uniW }
  | .smul _ => some { op := 0x043, kind := .slice, forms := [.f64, .f96l], dst := .sreg, a := uniW, b := uniW }
  | .smulhi _ => some { op := 0x044, kind := .slice, forms := [.f64, .f96l], dst := .sreg, a := uniW, b := uniW }
  | .smulhu _ => some { op := 0x045, kind := .slice, forms := [.f64, .f96l], dst := .sreg, a := uniW, b := uniW }
  | .sand _ => some { op := 0x046, kind := .slice, forms := [.f64, .f96l], dst := .sreg, a := uniW, b := uniW }
  | .sor _ => some { op := 0x047, kind := .slice, forms := [.f64, .f96l], dst := .sreg, a := uniW, b := uniW }
  | .sxor _ => some { op := 0x048, kind := .slice, forms := [.f64, .f96l], dst := .sreg, a := uniW, b := uniW }
  | .sandn _ => some { op := 0x049, kind := .slice, forms := [.f64, .f96l], dst := .sreg, a := uniW, b := uniW }
  | .sshl _ => some { op := 0x04A, kind := .slice, forms := [.f64, .f96l], dst := .sreg, a := uniW, b := uniW }
  | .sshr _ => some { op := 0x04B, kind := .slice, forms := [.f64, .f96l], dst := .sreg, a := uniW, b := uniW }
  | .ssra _ => some { op := 0x04C, kind := .slice, forms := [.f64, .f96l], dst := .sreg, a := uniW, b := uniW }
  | .smin _ => some { op := 0x04D, kind := .slice, forms := [.f64, .f96l], dst := .sreg, a := uniW, b := uniW }
  | .smax _ => some { op := 0x04E, kind := .slice, forms := [.f64, .f96l], dst := .sreg, a := uniW, b := uniW }
  | .sminu _ => some { op := 0x04F, kind := .slice, forms := [.f64, .f96l], dst := .sreg, a := uniW, b := uniW }
  | .smaxu _ => some { op := 0x050, kind := .slice, forms := [.f64, .f96l], dst := .sreg, a := uniW, b := uniW }
  | .scmp o => some { op := 0x051, kind := .slice, forms := [.f64, .f96l], a := uniW, b := uniW, mm := bits 60 57 + bits 52 50, resv := (fieldAbove o 60 57 5 || fieldAbove o 52 50 1) }
  | .ssel _ => some { op := 0x052, kind := .slice, forms := [.f96c], dst := .sreg, a := uniW, b := uniW, c := uniW }
  | .sbfe _ => some { op := 0x053, kind := .slice, forms := [.f96c], dst := .sreg, a := uniW, b := uniW, c := uniW, mm := bits 50 50 }
  | .sbfi _ => some { op := 0x054, kind := .slice, forms := [.f96c], dst := .sreg, a := uniW, b := uniW, c := uniW }
  | .sclz _ => some { op := 0x055, kind := .slice, forms := [.f64, .f96l], dst := .sreg, a := uniW }
  | .spopc _ => some { op := 0x056, kind := .slice, forms := [.f64, .f96l], dst := .sreg, a := uniW }
  | .sff1 _ => some { op := 0x057, kind := .slice, forms := [.f64, .f96l], dst := .sreg, a := uniW }
  | .sdivu _ => some { op := 0x058, kind := .slice, forms := [.f64, .f96l], dst := .sreg, a := uniW, b := uniW }
  | .sremu _ => some { op := 0x059, kind := .slice, forms := [.f64, .f96l], dst := .sreg, a := uniW, b := uniW }
  | .sbrev _ => some { op := 0x05A, kind := .slice, forms := [.f64, .f96l], dst := .sreg, a := uniW }
  | .sadd64 _ => some { op := 0x080, kind := .slice, forms := [.f64, .f96l, .f128l], dst := .pair true, a := pairW, b := pairW }
  | .ssub64 _ => some { op := 0x081, kind := .slice, forms := [.f64, .f96l, .f128l], dst := .pair true, a := pairW, b := pairW }
  | .smul64 _ => some { op := 0x082, kind := .slice, forms := [.f64, .f96l, .f128l], dst := .pair true, a := pairW, b := pairW }
  | .sshl64 _ => some { op := 0x083, kind := .slice, forms := [.f64, .f96l, .f128l], dst := .pair true, a := pairW, b := uniW }
  | .sshr64 _ => some { op := 0x084, kind := .slice, forms := [.f64, .f96l, .f128l], dst := .pair true, a := pairW, b := uniW }
  | .scmp64 o => some { op := 0x085, kind := .slice, forms := [.f64, .f96l, .f128l], a := pairW, b := pairW, mm := bits 60 57 + bits 52 50, resv := (fieldAbove o 60 57 5 || fieldAbove o 52 50 1) }
  | .smov64 _ => some { op := 0x086, kind := .slice, forms := [.f64, .f96l, .f128l], dst := .pair true, a := pairW }
  | .msave _ => some { op := 0x087, kind := .slice, forms := [.f64, .f96l], dst := .sreg, a := uniW }
  | .mset _ => some { op := 0x088, kind := .slice, forms := [.f64, .f96l], a := uniW }
  | .mnot _ => some { op := 0x089, kind := .slice, forms := [.f64, .f96l], dst := .sreg, a := uniW }
  | .mcount _ => some { op := 0x08A, kind := .slice, forms := [.f64, .f96l], dst := .sreg, a := uniW }
  | .vmov o => some { op := 0x0C0, kind := .lane, forms := [.f64, .f96l], dst := .vec 1, a := anyW, mm := bits 52 50, resv := (fieldAbove o 52 50 0) }
  | .vadd o => some { op := 0x0C1, kind := .lane, forms := [.f64, .f96l], dst := .vec 1, a := anyW, b := anyW, mm := bits 52 50, resv := (fieldAbove o 52 50 5) }
  | .vsub o => some { op := 0x0C2, kind := .lane, forms := [.f64, .f96l], dst := .vec 1, a := anyW, b := anyW, mm := bits 52 50, resv := (fieldAbove o 52 50 5) }
  | .vmul o => some { op := 0x0C3, kind := .lane, forms := [.f64, .f96l], dst := .vec 1, a := anyW, b := anyW, mm := bits 52 50, resv := (fieldAbove o 52 50 5) }
  | .vmulhi o => some { op := 0x0C4, kind := .lane, forms := [.f64, .f96l], dst := .vec 1, a := anyW, b := anyW, mm := bits 52 50, resv := (fieldAbove o 52 50 5) }
  | .vmad o => some { op := 0x0C5, kind := .lane, forms := [.f96c], dst := .vec 1, a := anyW, b := anyW, c := anyW, mm := bits 52 50, resv := (fieldAbove o 52 50 5) }
  | .vand o => some { op := 0x0C6, kind := .lane, forms := [.f64, .f96l], dst := .vec 1, a := anyW, b := anyW, mm := bits 52 50, resv := (fieldAbove o 52 50 0) }
  | .vor o => some { op := 0x0C7, kind := .lane, forms := [.f64, .f96l], dst := .vec 1, a := anyW, b := anyW, mm := bits 52 50, resv := (fieldAbove o 52 50 0) }
  | .vxor o => some { op := 0x0C8, kind := .lane, forms := [.f64, .f96l], dst := .vec 1, a := anyW, b := anyW, mm := bits 52 50, resv := (fieldAbove o 52 50 0) }
  | .vshl o => some { op := 0x0C9, kind := .lane, forms := [.f64, .f96l], dst := .vec 1, a := anyW, b := anyW, mm := bits 52 50, resv := (fieldAbove o 52 50 5) }
  | .vshr o => some { op := 0x0CA, kind := .lane, forms := [.f64, .f96l], dst := .vec 1, a := anyW, b := anyW, mm := bits 52 50, resv := (fieldAbove o 52 50 5) }
  | .vsra o => some { op := 0x0CB, kind := .lane, forms := [.f64, .f96l], dst := .vec 1, a := anyW, b := anyW, mm := bits 52 50, resv := (fieldAbove o 52 50 5) }
  | .vmin o => some { op := 0x0CC, kind := .lane, forms := [.f64, .f96l], dst := .vec 1, a := anyW, b := anyW, mm := bits 52 50, resv := (fieldAbove o 52 50 5) }
  | .vmax o => some { op := 0x0CD, kind := .lane, forms := [.f64, .f96l], dst := .vec 1, a := anyW, b := anyW, mm := bits 52 50, resv := (fieldAbove o 52 50 5) }
  | .vcmp o => some { op := 0x0CE, kind := .lane, forms := [.f64, .f96l], dst := .mask, a := anyW, b := anyW, mm := bits 60 57 + bits 52 50, resv := (fieldAbove o 52 50 1 || fieldAbove o 60 57 5) }
  | .vsel o => some { op := 0x0CF, kind := .lane, forms := [.f96c], dst := .vec 1, a := anyW, b := anyW, c := anyW, mm := bits 52 50, resv := (fieldAbove o 52 50 0) }
  | .vbfe o => some { op := 0x0D0, kind := .lane, forms := [.f96c], dst := .vec 1, a := anyW, b := anyW, c := anyW, mm := bits 52 50, resv := (fieldAbove o 52 50 1) }
  | .vbfi o => some { op := 0x0D1, kind := .lane, forms := [.f96c], dst := .vec 1, a := anyW, b := anyW, c := anyW, mm := bits 52 50, resv := (fieldAbove o 52 50 0) }
  | .vpopc o => some { op := 0x0D2, kind := .lane, forms := [.f64, .f96l], dst := .vec 1, a := anyW, mm := bits 52 50, resv := (fieldAbove o 52 50 0) }
  | .vclz o => some { op := 0x0D3, kind := .lane, forms := [.f64, .f96l], dst := .vec 1, a := anyW, mm := bits 52 50, resv := (fieldAbove o 52 50 0) }
  | .vaddc o => some { op := 0x0D4, kind := .lane, forms := [.f64, .f96l], dst := .vec 1, a := anyW, b := anyW, mm := bits 52 50, resv := (fieldAbove o 52 50 0) }
  | .vfadd o => some { op := 0x100, kind := .lane, forms := [.f64, .f96l], dst := .vec 1, a := anyW, b := anyW, mm := bits 56 50, resv := (fieldAbove o 52 50 2) }
  | .vfsub o => some { op := 0x101, kind := .lane, forms := [.f64, .f96l], dst := .vec 1, a := anyW, b := anyW, mm := bits 56 50, resv := (fieldAbove o 52 50 2) }
  | .vfmul o => some { op := 0x102, kind := .lane, forms := [.f64, .f96l], dst := .vec 1, a := anyW, b := anyW, mm := bits 56 50, resv := (fieldAbove o 52 50 2) }
  | .vfma o => some { op := 0x103, kind := .lane, forms := [.f96c], dst := .vec 1, a := anyW, b := anyW, c := anyW, mm := bits 56 50, xm := 3, resv := (fieldAbove o 52 50 2) }
  | .vfmin o => some { op := 0x104, kind := .lane, forms := [.f64, .f96l], dst := .vec 1, a := anyW, b := anyW, mm := bits 56 50, resv := (fieldAbove o 52 50 2) }
  | .vfmax o => some { op := 0x105, kind := .lane, forms := [.f64, .f96l], dst := .vec 1, a := anyW, b := anyW, mm := bits 56 50, resv := (fieldAbove o 52 50 2) }
  | .vfcmp o => some { op := 0x106, kind := .lane, forms := [.f64, .f96l], dst := .mask, a := anyW, b := anyW, mm := bits 60 57 + bits 56 50, resv := (fieldAbove o 52 50 0 || fieldAbove o 60 57 7) }
  | .vfract o => some { op := 0x107, kind := .lane, forms := [.f64, .f96l], dst := .vec 1, a := anyW, mm := bits 56 50, resv := (fieldAbove o 52 50 2) }
  | .vfloor o => some { op := 0x108, kind := .lane, forms := [.f64, .f96l], dst := .vec 1, a := anyW, mm := bits 56 50, resv := (fieldAbove o 52 50 2) }
  | .vfceil o => some { op := 0x109, kind := .lane, forms := [.f64, .f96l], dst := .vec 1, a := anyW, mm := bits 56 50, resv := (fieldAbove o 52 50 2) }
  | .vfrnde o => some { op := 0x10A, kind := .lane, forms := [.f64, .f96l], dst := .vec 1, a := anyW, mm := bits 56 50, resv := (fieldAbove o 52 50 2) }
  | .vftrunc o => some { op := 0x10B, kind := .lane, forms := [.f64, .f96l], dst := .vec 1, a := anyW, mm := bits 56 50, resv := (fieldAbove o 52 50 2) }
  | .vfdot2 o => some { op := 0x10C, kind := .lane, forms := [.f96c], dst := .vec 1, a := anyW, b := anyW, c := anyW, mm := bits 56 50, xm := 3, resv := (fieldAbove o 52 50 2 || fieldIs o 52 50 0) }
  | .vfclass o => some { op := 0x10D, kind := .lane, forms := [.f64, .f96l], dst := .mask, a := anyW, b := anyW, mm := bits 56 50, resv := (fieldAbove o 52 50 0) }
  | .vrcp _ => some { op := 0x140, kind := .lane, forms := [.f64, .f96l], dst := .vec 1, a := anyW, mm := bits 56 53 }
  | .vrsq _ => some { op := 0x141, kind := .lane, forms := [.f64, .f96l], dst := .vec 1, a := anyW, mm := bits 56 53 }
  | .vsqrt _ => some { op := 0x142, kind := .lane, forms := [.f64, .f96l], dst := .vec 1, a := anyW, mm := bits 56 53 }
  | .vexp2 _ => some { op := 0x143, kind := .lane, forms := [.f64, .f96l], dst := .vec 1, a := anyW, mm := bits 56 53 }
  | .vlog2 _ => some { op := 0x144, kind := .lane, forms := [.f64, .f96l], dst := .vec 1, a := anyW, mm := bits 56 53 }
  | .vsin _ => some { op := 0x145, kind := .lane, forms := [.f64, .f96l], dst := .vec 1, a := anyW, mm := bits 56 53 }
  | .vcos _ => some { op := 0x146, kind := .lane, forms := [.f64, .f96l], dst := .vec 1, a := anyW, mm := bits 56 53 }
  | .vdiv _ => some { op := 0x147, kind := .lane, forms := [.f64, .f96l], dst := .vec 1, a := anyW, b := anyW, mm := bits 56 53 }
  | .vcvt o => some { op := 0x148, kind := .lane, forms := [.f64, .f96l], dst := .vec 1, a := anyW, mm := bits 62 50, resv := (vcvtReserved o) }
  | .vpack o => some { op := 0x149, kind := .lane, forms := [.f64, .f96l], dst := .vec 1, a := (vecW (packCount o)), mm := bits 52 50, resv := (fieldAbove o 52 50 4) }
  | .vunpack o => some { op := 0x14A, kind := .lane, forms := [.f64, .f96l], dst := .vec (packCount o), a := (vecW 1), mm := bits 53 50, resv := (fieldAbove o 52 50 4) }
  | .vquant _ => some { op := 0x14B, kind := .lane, forms := [.f96c], dst := .vec 1, a := anyW, b := anyW, c := anyW }
  | .vdeq _ => some { op := 0x14C, kind := .lane, forms := [.f96c], dst := .vec 1, a := anyW, b := anyW, c := anyW }
  | .vscale _ => some { op := 0x14D, kind := .lane, forms := [.f64, .f96l], dst := .vec 1, a := anyW, b := anyW }
  | .qrange _ => some { op := 0x14E, kind := .lane, forms := [.f96c], dst := .vec 2, a := anyW, b := anyW, c := slW }
  | .vlane _ => some { op := 0x180, kind := .lane, forms := [.f64, .f96l], dst := .vec 1, a := (vecW 1), b := anyW }
  | .vbcast _ => some { op := 0x181, kind := .lane, forms := [.f64, .f96l], dst := .vec 1, a := (vecW 1), b := uniW }
  | .vshuf _ => some { op := 0x182, kind := .lane, forms := [.f64, .f96l], dst := .vec 1, a := (vecW 1), b := anyW }
  | .vrot _ => some { op := 0x183, kind := .lane, forms := [.f64, .f96l], dst := .vec 1, a := (vecW 1), b := uniW }
  | .vswz _ => some { op := 0x184, kind := .lane, forms := [.f64, .f96l], dst := .vec 1, a := (vecW 1), b := uniW }
  | .vreduce o => some { op := 0x185, kind := .lane, forms := [.f64, .f96l], dst := .vec 1, a := (vecW 1), mm := bits 53 50 + bits 55 55, resv := (fieldAbove o 53 50 10) }
  | .vscan o => some { op := 0x186, kind := .lane, forms := [.f64, .f96l], dst := .vec 1, a := (vecW 1), mm := bits 55 50, resv := (fieldAbove o 53 50 10) }
  | .vfirst _ => some { op := 0x187, kind := .lane, forms := [.f64, .f96l], dst := .mask, a := uniW, mm := bits 50 50 }
  | .vballot _ => some { op := 0x188, kind := .lane, forms := [.f64, .f96l], dst := .mask, a := (vecW 1) }
  | .vreadl _ => some { op := 0x189, kind := .lane, forms := [.f64, .f96l], dst := .s63, a := (vecW 1), b := uniW }
  | .vwritel _ => some { op := 0x18A, kind := .lane, forms := [.f64, .f96l], dst := .vec 1, a := uniW, b := uniW }
  | .vunif _ => some { op := 0x18B, kind := .lane, forms := [.f64, .f96l], dst := .s63, a := (vecW 1) }
  | .vld o => some { op := 0x1C0, kind := .lane, forms := [.f64, .f96c, .f96l], dst := .vec (widthRegs o), a := recW, b := anyW, mm := bits 62 59 + bits 54 50, xm := ofsMask o, resv := (loadWidthReserved o || loadOrdReserved o) }
  | .vst o => some { op := 0x1C1, kind := .lane, forms := [.f96c], a := recW, b := anyW, c := (dataW true (widthRegs o)), mm := bits 62 59 + bits 54 50, xm := ofsMask o, resv := (storeWidthReserved o || storeOrdReserved o) }
  | .vstSequential o => some { op := 0x1C1, kind := .lane, forms := [.f64, .f96l], a := recW, b := (dataW true (widthRegs o)), mm := bits 62 59 + bits 54 50, resv := (storeWidthReserved o || storeOrdReserved o) }
  | .vldx o => some { op := 0x1C2, kind := .lane, forms := [.f64, .f96c, .f96l], dst := .vec 1, a := recW, b := anyW, mm := bits 54 50, xm := ofsMask o, resv := (loadOrdReserved o) }
  | .vstx o => some { op := 0x1C3, kind := .lane, forms := [.f64, .f96c, .f96l], a := recW, b := (if isC o then anyW else dataW true 1), c := (if isC o then dataW true 1 else no), mm := bits 54 50, xm := ofsMask o, resv := (storeOrdReserved o) }
  | .sld o => some { op := 0x1C4, kind := .issue, forms := [.f64, .f96c, .f96l], dst := .sized (widthRegs o), a := recW, b := uniW, mm := bits 62 59 + bits 54 50, xm := ofsMask o, resv := (loadWidthReserved o || loadOrdReserved o) }
  | .sst o => some { op := 0x1C5, kind := .issue, forms := [.f64, .f96c, .f96l], a := recW, b := (if isC o then uniW else dataW false (widthRegs o)), c := (if isC o then dataW false (widthRegs o) else no), mm := bits 62 59 + bits 54 50, xm := ofsMask o, resv := (storeWidthReserved o || storeOrdReserved o) }
  | .vpref o => some { op := 0x1C6, kind := .lane, forms := [.f64, .f96c, .f96l], a := recW, b := anyW, xm := ofsMask o }
  | .ldrec _ => some { op := 0x1C7, kind := .issue, forms := [.f64, .f96l], dst := .quad, a := litW, b := uniW }
  | .vlds o => some { op := 0x200, kind := .lane, forms := [.f64, .f96l], dst := .vec (widthRegs o), a := anyW, b := anyW, mm := bits 62 59, resv := (loadWidthReserved o) }
  | .vsts o => some { op := 0x201, kind := .lane, forms := [.f64, .f96l], a := anyW, b := (dataW true (widthRegs o)), mm := bits 62 59, resv := (storeWidthReserved o) }
  | .slds o => some { op := 0x202, kind := .issue, forms := [.f64, .f96l], dst := .words (widthRegs o), a := uniW, b := uniW, mm := bits 62 59, resv := (loadWidthReserved o) }
  | .ssts o => some { op := 0x203, kind := .issue, forms := [.f64, .f96l], a := uniW, b := (dataW false (widthRegs o)), mm := bits 62 59, resv := (storeWidthReserved o) }
  | .acczero _ => some { op := 0x204, kind := .issue, forms := [.f64], a := anyW, b := uniW }
  | .accrd o => some { op := 0x205, kind := .issue, forms := [.f64, .f96c], dst := .vec (blockCount o), a := anyW, c := (if isC o then uniW else no), mm := (if isC o then bits 55 52 else bits 62 52) }
  | .accwr o => some { op := 0x206, kind := .issue, forms := [.f64, .f96c], a := anyW, b := (vecW (blockCount o)), c := (if isC o then uniW else no), mm := (if isC o then bits 55 52 else bits 62 52) }
  | .accst o => some { op := 0x207, kind := .issue, forms := [.f64, .f96c], a := anyW, b := uniW, c := (if isC o then uniW else no), mm := bits 62 52 }
  | .accld o => some { op := 0x208, kind := .issue, forms := [.f64, .f96c], a := anyW, b := uniW, c := (if isC o then uniW else no), mm := bits 62 52 }
  | .cbld o => some { op := 0x209, kind := .issue, forms := [.f64, .f96c], a := recW, b := uniW, c := (if isC o then uniW else no), mm := bits 62 52 }
  | .vatom o => some { op := 0x240, kind := .lane, forms := (if isCas o then [.f128c] else [.f96c, .f128c]), dst := (if noReturn o then .no else .vec (atomRegs o)), a := recW, b := anyW, c := (dataW true (atomRegs o)), d := (if isCas o then dataW true 1 else no), mm := bits 62 58 + bits 55 50, resv := (fieldAbove o 62 58 16 || fieldAbove o 54 52 5), closes := true }
  | .vatoms o => some { op := 0x241, kind := .lane, forms := (if isCas o then [.f128c] else [.f96c, .f128c]), dst := (if noReturn o then .no else .vec (atomRegs o)), a := anyW, b := anyW, c := (dataW true (atomRegs o)), d := (if isCas o then dataW true 1 else no), mm := bits 62 58 + bits 55 50, resv := (fieldAbove o 62 58 16 || fieldAbove o 54 52 1), closes := true }
  | .satom o => some { op := 0x242, kind := .issue, forms := (if isCas o then [.f128c] else [.f96c, .f128c]), dst := (if noReturn o then .no else .words (atomRegs o)), a := recW, b := uniW, c := (dataW false (atomRegs o)), d := (if isCas o then dataW false 1 else no), mm := bits 62 58 + bits 55 50, resv := (fieldAbove o 62 58 16 || fieldAbove o 54 52 5), closes := true }
  | .fence o => some { op := 0x243, kind := .issue, forms := [.f64], mm := bits 55 50, resv := (fieldIs o 51 50 3 || fieldAbove o 54 52 5), closes := true }
  | .fenceSmp o => some { op := 0x243, kind := .issue, forms := [.f64], mm := bits 55 50, resv := (fieldIs o 51 50 3 || fieldAbove o 54 52 5), closes := true }
  | .vsample o => some { op := 0x280, kind := .lane, forms := [.f96c, .f128c], dst := .vec 1, a := recW, b := anyW, c := anyW, d := (if isD o then anyW else no), mm := bits 60 58 }
  | .vgather4 o => some { op := 0x281, kind := .lane, forms := [.f96c, .f128c], dst := .vec 4, a := recW, b := anyW, c := anyW, d := (if isD o then anyW else no), mm := bits 60 59 + bits 57 56 }
  | .vsamplel _ => some { op := 0x282, kind := .lane, forms := [.f128c], dst := .vec 1, a := recW, b := anyW, c := anyW, d := anyW, mm := bits 60 59 }
  | .tcopy o => some { op := 0x283, kind := .issue, forms := [.f128c], a := recW, b := (if fieldIs o 62 61 2 then anyW else recW), c := quadW, d := anyW, mm := copyMask o, resv := (fieldIs o 62 61 3 || fieldAbove o 53 50 9), closes := true }
  | .tcopyx o => some { op := 0x284, kind := .issue, forms := [.f128c], a := recW, b := (if fieldIs o 62 61 2 then anyW else recW), c := quadW, d := quadW, mm := copyMask o, resv := (fieldIs o 62 61 3 || fieldAbove o 53 50 1), closes := true }
  | .tpeer _ => some { op := 0x285, kind := .issue, forms := [.f128c], a := recW, b := recW, c := quadW, d := anyW, mm := bits 62 62, closes := true }
  | .barinit _ => some { op := 0x2C0, kind := .issue, forms := [.f64, .f96l], a := anyW, b := uniW }
  | .barexp _ => some { op := 0x2C1, kind := .issue, forms := [.f64, .f96l], a := anyW, b := uniW, closes := true }
  | .bararv _ => some { op := 0x2C2, kind := .issue, forms := [.f64], a := anyW, closes := true }
  | .bwait _ => some { op := 0x2C3, kind := .issue, forms := [.f64], a := anyW, b := litW }
  | .btest _ => some { op := 0x2C4, kind := .issue, forms := [.f64], a := anyW, b := litW }
  | .tlwait _ => some { op := 0x2C5, kind := .issue, forms := [.f64, .f96l, .f128l], a := anyW, b := pairW }
  | .tlsig o => some { op := 0x2C6, kind := .issue, forms := [.f64, .f96l, .f128l], a := anyW, b := pairW, mm := bits 54 52, resv := (fieldIs o 54 52 0 || fieldAbove o 54 52 5), closes := true }
  | .tlrd _ => some { op := 0x2C7, kind := .issue, forms := [.f64], dst := .pair false, a := anyW }
  | .mbpost _ => some { op := 0x2C8, kind := .issue, forms := [.f96c], a := anyW, b := uniW, c := uniW, closes := true }
  | .launch _ => some { op := 0x2C9, kind := .issue, forms := [.f96c], a := anyW, b := uniW, c := uniW, closes := true }
  | .satrd _ => some { op := 0x2CA, kind := .issue, forms := [.f64], dst := .s63, a := uniW }
  | .mjob _ => some { op := 0x300, kind := .issue, forms := [.f64], a := anyW, b := anyW, closes := true }
  | .commit o => some { op := 0x301, kind := .issue, forms := [.f64], dst := (if fieldIs o 50 50 1 then .s63 else .no), mm := bits 50 50, closes := true }
  | .mwait _ => some { op := 0x302, kind := .issue, forms := [.f64], a := uniW }
  | .mquery o => some { op := 0x303, kind := .issue, forms := [.f64], dst := .even, a := litW, resv := (litAbove o.a 5) }
  | .tagalloc _ => some { op := 0x340, kind := .issue, forms := [.f64], dst := .s63 }
  | .tagset o => some { op := 0x341, kind := .issue, forms := [.f64, .f96c], a := anyW, b := uniW, c := (if isC o then uniW else no) }
  | .tagfree _ => some { op := 0x342, kind := .issue, forms := [.f64], a := anyW }
  | .rvsend _ => some { op := 0x343, kind := .issue, forms := [.f96c], a := anyW, b := uniW, c := uniW, mm := bits 50 50, closes := true }
  | .rvsendg _ => some { op := 0x344, kind := .issue, forms := [.f96c], a := anyW, b := (vecW 1), c := uniW, mm := bits 50 50, closes := true }
  | .gdone _ => some { op := 0x345, kind := .issue, forms := [.f64], closes := true }
  | .gfail _ => some { op := 0x346, kind := .issue, forms := [.f64], a := uniW, closes := true }
  | .prblk _ => some { op := 0x347, kind := .issue, forms := [.f64], dst := .s63, a := pairW }
  | .previct _ => some { op := 0x348, kind := .issue, forms := [.f64], a := pairW }
  | .sysrd o => some { op := 0x380, kind := .issue, forms := [.f64], dst := .pair false, a := litW, resv := (litAbove o.a 15), sup := true }
  | .syswr o => some { op := 0x381, kind := .issue, forms := [.f64], a := litW, b := pairW, resv := (litAbove o.a 15), closes := true, sup := true }
  | .apush o => some { op := 0x381, kind := .issue, forms := [.f64], a := litW, b := pairW, resv := (litAbove o.a 15), closes := true, sup := true }
  | .hentryWrite o => some { op := 0x381, kind := .issue, forms := [.f64], a := litW, b := pairW, resv := (litAbove o.a 15), closes := true, sup := true }
  | .tret _ => some { op := 0x382, kind := .issue, forms := [.f64], mm := bits 50 50, sup := true }
  | .tretOff _ => some { op := 0x382, kind := .issue, forms := [.f64], mm := bits 50 50, sup := true }
  | .pmap _ => some { op := 0x383, kind := .issue, forms := [.f96c], a := pairW, b := pairW, c := uniW, closes := true, sup := true }
  | .punmap _ => some { op := 0x384, kind := .issue, forms := [.f64], a := pairW, mm := bits 50 50, closes := true, sup := true }
  | .punmapRet _ => some { op := 0x384, kind := .issue, forms := [.f64], a := pairW, mm := bits 50 50, closes := true, sup := true }
  | .tlbinvAll o => some { op := 0x385, kind := .issue, forms := [.f64], mm := bits 51 50, resv := (fieldIs o 51 50 3), sup := true }
  | .tlbinvPage _ => some { op := 0x385, kind := .issue, forms := [.f64], a := pairW, mm := bits 51 50, sup := true }
  | .tlbinvRange _ => some { op := 0x385, kind := .issue, forms := [.f96c], a := pairW, c := uniW, mm := bits 51 50, sup := true }
  | .poolget _ => some { op := 0x386, kind := .issue, forms := [.f64], dst := .pair false, a := litW, sup := true }
  | .haltctx _ => some { op := 0x387, kind := .issue, forms := [.f64], a := uniW, b := uniW, mm := bits 50 50, closes := true, sup := true }
  | .haltctxRes _ => some { op := 0x387, kind := .issue, forms := [.f64], a := uniW, mm := bits 50 50, closes := true, sup := true }
  | .mbreg _ => some { op := 0x388, kind := .issue, forms := [.f96c], a := uniW, b := uniW, c := uniW, closes := true, sup := true }
  | .prdecl _ => some { op := 0x389, kind := .issue, forms := [.f64], a := uniW, b := uniW, mm := bits 50 50, closes := true, sup := true }
  | .prdeclDel _ => some { op := 0x389, kind := .issue, forms := [.f64], a := uniW, mm := bits 50 50, closes := true, sup := true }
  | .tagpool o => some { op := 0x38A, kind := .issue, forms := [.f64, .f96c], a := uniW, b := uniW, c := (if isC o then uniW else no), closes := true, sup := true }
  | .sleepExpiry _ _ _ => none
  | .samplerReturn _ _ _ => none
  | .copyBytesLand _ => none
  | .copyComplete _ => none
  | .jobStepCommit _ => none
  | .rendezvousArrival _ => none
  | .rendezvousTimeout _ _ => none
  | .rendezvousDelivery _ _ => none
  | .proceduralTouch _ => none
  | .blockUnpin _ _ => none
  | .generatorAttemptEnd _ _ => none
  | .filler => none
  | .poolHeader _ => none
  | .storeQueueDrain _ _ => none
  | .loadReturn _ _ _ => none
  | .l2Fill _ _ _ => none
  | .mailboxMessage _ => none
  | .recordDelivery _ _ => none
  | .teamPlacement => none
  | .teamStart _ => none
  | .teamRetire _ => none
  | .priorityPromotion _ _ => none
  | .waitWatchdog _ _ _ => none
  | .starvedLanes _ _ _ => none
  | .residencyReportOverdue _ _ => none
  | .hostSend _ _ _ _ => none
  | .hostWrite _ _ _ _ _ => none
  | .hostRead _ _ _ _ => none
  | .hostAcknowledgement _ => none
  | .getVersion _ => none
  | .getCapabilities _ => none
  | .negotiateAlgorithms _ => none
  | .getDigests _ => none
  | .getCertificate _ => none
  | .challenge _ => none
  | .getMeasurements _ => none
  | .keyExchange _ => none
  | .finish _ => none
  | .keyUpdate _ => none
  | .heartbeat _ => none
  | .endSession _ => none
  | .createContext _ => none
  | .destroyContext _ _ => none
  | .getTelemetry _ => none
  | .vacateCores _ _ _ => none
  | .restoreCores _ _ => none
  | .bindEndpoint _ _ => none
  | .resetDegradation _ => none
  | .restart _ => none
  | .updateFirmware _ _ _ _ => none
  | .sessionHeartbeatExpiry _ => none
  | .ethernetLinkDown => none
  | .ethernetLinkUp => none
  | .peerRequest _ => none
  | .peerResponse _ _ _ => none
  | .peerRequestTimeout _ => none
  | .ualinkLaneFail _ _ => none
  | .portKeyRefresh _ _ => none
  | .bridgeFlitFail _ _ _ => none
  | .rowDisturbanceAlert _ => none
  | .powerThrottle _ => none
  | .powerOnReset _ _ _ => none
  | .teamSave _ => none
  | .contextDrainEnd _ => none
  | .pathChange _ _ _ => none
  | .ethernetLossOfLock => none

/-- The operands of an instruction word. -/
def operands (i : Instr) : Option Operands :=
  match i with
  | .nop o => some o
  | .br o => some o
  | .brc o => some o
  | .bexecz o => some o
  | .bexecnz o => some o
  | .brany o => some o
  | .brall o => some o
  | .call o => some o
  | .ret o => some o
  | .jmpi o => some o
  | .regang o => some o
  | .region o => some o
  | .yield o => some o
  | .sleep o => some o
  | .exit o => some o
  | .trap o => some o
  | .bar o => some o
  | .getid o => some o
  | .sfmt o => some o
  | .smov o => some o
  | .sadd o => some o
  | .ssub o => some o
  | .smul o => some o
  | .smulhi o => some o
  | .smulhu o => some o
  | .sand o => some o
  | .sor o => some o
  | .sxor o => some o
  | .sandn o => some o
  | .sshl o => some o
  | .sshr o => some o
  | .ssra o => some o
  | .smin o => some o
  | .smax o => some o
  | .sminu o => some o
  | .smaxu o => some o
  | .scmp o => some o
  | .ssel o => some o
  | .sbfe o => some o
  | .sbfi o => some o
  | .sclz o => some o
  | .spopc o => some o
  | .sff1 o => some o
  | .sdivu o => some o
  | .sremu o => some o
  | .sbrev o => some o
  | .sadd64 o => some o
  | .ssub64 o => some o
  | .smul64 o => some o
  | .sshl64 o => some o
  | .sshr64 o => some o
  | .scmp64 o => some o
  | .smov64 o => some o
  | .msave o => some o
  | .mset o => some o
  | .mnot o => some o
  | .mcount o => some o
  | .vmov o => some o
  | .vadd o => some o
  | .vsub o => some o
  | .vmul o => some o
  | .vmulhi o => some o
  | .vmad o => some o
  | .vand o => some o
  | .vor o => some o
  | .vxor o => some o
  | .vshl o => some o
  | .vshr o => some o
  | .vsra o => some o
  | .vmin o => some o
  | .vmax o => some o
  | .vcmp o => some o
  | .vsel o => some o
  | .vbfe o => some o
  | .vbfi o => some o
  | .vpopc o => some o
  | .vclz o => some o
  | .vaddc o => some o
  | .vfadd o => some o
  | .vfsub o => some o
  | .vfmul o => some o
  | .vfma o => some o
  | .vfmin o => some o
  | .vfmax o => some o
  | .vfcmp o => some o
  | .vfract o => some o
  | .vfloor o => some o
  | .vfceil o => some o
  | .vfrnde o => some o
  | .vftrunc o => some o
  | .vfdot2 o => some o
  | .vfclass o => some o
  | .vrcp o => some o
  | .vrsq o => some o
  | .vsqrt o => some o
  | .vexp2 o => some o
  | .vlog2 o => some o
  | .vsin o => some o
  | .vcos o => some o
  | .vdiv o => some o
  | .vcvt o => some o
  | .vpack o => some o
  | .vunpack o => some o
  | .vquant o => some o
  | .vdeq o => some o
  | .vscale o => some o
  | .qrange o => some o
  | .vlane o => some o
  | .vbcast o => some o
  | .vshuf o => some o
  | .vrot o => some o
  | .vswz o => some o
  | .vreduce o => some o
  | .vscan o => some o
  | .vfirst o => some o
  | .vballot o => some o
  | .vreadl o => some o
  | .vwritel o => some o
  | .vunif o => some o
  | .vld o => some o
  | .vst o => some o
  | .vstSequential o => some o
  | .vldx o => some o
  | .vstx o => some o
  | .sld o => some o
  | .sst o => some o
  | .vpref o => some o
  | .ldrec o => some o
  | .vlds o => some o
  | .vsts o => some o
  | .slds o => some o
  | .ssts o => some o
  | .acczero o => some o
  | .accrd o => some o
  | .accwr o => some o
  | .accst o => some o
  | .accld o => some o
  | .cbld o => some o
  | .vatom o => some o
  | .vatoms o => some o
  | .satom o => some o
  | .fence o => some o
  | .fenceSmp o => some o
  | .vsample o => some o
  | .vgather4 o => some o
  | .vsamplel o => some o
  | .tcopy o => some o
  | .tcopyx o => some o
  | .tpeer o => some o
  | .barinit o => some o
  | .barexp o => some o
  | .bararv o => some o
  | .bwait o => some o
  | .btest o => some o
  | .tlwait o => some o
  | .tlsig o => some o
  | .tlrd o => some o
  | .mbpost o => some o
  | .launch o => some o
  | .satrd o => some o
  | .mjob o => some o
  | .commit o => some o
  | .mwait o => some o
  | .mquery o => some o
  | .tagalloc o => some o
  | .tagset o => some o
  | .tagfree o => some o
  | .rvsend o => some o
  | .rvsendg o => some o
  | .gdone o => some o
  | .gfail o => some o
  | .prblk o => some o
  | .previct o => some o
  | .sysrd o => some o
  | .syswr o => some o
  | .apush o => some o
  | .hentryWrite o => some o
  | .tret o => some o
  | .tretOff o => some o
  | .pmap o => some o
  | .punmap o => some o
  | .punmapRet o => some o
  | .tlbinvAll o => some o
  | .tlbinvPage o => some o
  | .tlbinvRange o => some o
  | .poolget o => some o
  | .haltctx o => some o
  | .haltctxRes o => some o
  | .mbreg o => some o
  | .prdecl o => some o
  | .prdeclDel o => some o
  | .tagpool o => some o
  | .sleepExpiry _ _ _ => none
  | .samplerReturn _ _ _ => none
  | .copyBytesLand _ => none
  | .copyComplete _ => none
  | .jobStepCommit _ => none
  | .rendezvousArrival _ => none
  | .rendezvousTimeout _ _ => none
  | .rendezvousDelivery _ _ => none
  | .proceduralTouch _ => none
  | .blockUnpin _ _ => none
  | .generatorAttemptEnd _ _ => none
  | .filler => none
  | .poolHeader _ => none
  | .storeQueueDrain _ _ => none
  | .loadReturn _ _ _ => none
  | .l2Fill _ _ _ => none
  | .mailboxMessage _ => none
  | .recordDelivery _ _ => none
  | .teamPlacement => none
  | .teamStart _ => none
  | .teamRetire _ => none
  | .priorityPromotion _ _ => none
  | .waitWatchdog _ _ _ => none
  | .starvedLanes _ _ _ => none
  | .residencyReportOverdue _ _ => none
  | .hostSend _ _ _ _ => none
  | .hostWrite _ _ _ _ _ => none
  | .hostRead _ _ _ _ => none
  | .hostAcknowledgement _ => none
  | .getVersion _ => none
  | .getCapabilities _ => none
  | .negotiateAlgorithms _ => none
  | .getDigests _ => none
  | .getCertificate _ => none
  | .challenge _ => none
  | .getMeasurements _ => none
  | .keyExchange _ => none
  | .finish _ => none
  | .keyUpdate _ => none
  | .heartbeat _ => none
  | .endSession _ => none
  | .createContext _ => none
  | .destroyContext _ _ => none
  | .getTelemetry _ => none
  | .vacateCores _ _ _ => none
  | .restoreCores _ _ => none
  | .bindEndpoint _ _ => none
  | .resetDegradation _ => none
  | .restart _ => none
  | .updateFirmware _ _ _ _ => none
  | .sessionHeartbeatExpiry _ => none
  | .ethernetLinkDown => none
  | .ethernetLinkUp => none
  | .peerRequest _ => none
  | .peerResponse _ _ _ => none
  | .peerRequestTimeout _ => none
  | .ualinkLaneFail _ _ => none
  | .portKeyRefresh _ _ => none
  | .bridgeFlitFail _ _ _ => none
  | .rowDisturbanceAlert _ => none
  | .powerThrottle _ => none
  | .powerOnReset _ _ _ => none
  | .teamSave _ => none
  | .contextDrainEnd _ => none
  | .pathChange _ _ _ => none
  | .ethernetLossOfLock => none

end Sys2Proof.Machine
end

