-- ==== Sys2Proof/WellFormed.lean ====
section
/-! DEFINITION. Which terms of `Instr` are instructions: exactly those with an encoding the decoder accepts (R147 to R161,
codes 0.1, 0.2, 0.4 and 0.5 of R352). An operand's kind, alignment or range is no part of it: those are tests at issue. -/

namespace Sys2Proof

open Sys2Proof.Machine

/-- The variant of an operation that a field of its word selects (opcode table). -/
def variant (i : Instr) : Instr :=
  match i with
  | .vst o => if isC o then .vst o else .vstSequential o
  | .fence o => if fieldIs o 55 55 1 then .fenceSmp o else .fence o
  | .syswr o =>
    if o.a = .lit 4 then .hentryWrite o else if o.a = .lit 12 ∨ o.a = .lit 13 then .apush o else .syswr o
  | .tret o => if fieldIs o 50 50 1 then .tretOff o else .tret o
  | .punmap o => if fieldIs o 50 50 1 then .punmapRet o else .punmap o
  | .tlbinvAll o =>
    if fieldIs o 51 50 1 then .tlbinvPage o else if fieldIs o 51 50 2 then .tlbinvRange o else .tlbinvAll o
  | .haltctx o => if fieldIs o 50 50 1 then .haltctxRes o else .haltctx o
  | .prdecl o => if fieldIs o 50 50 1 then .prdeclDel o else .prdecl o
  | i => i

/-- The operation whose variant an instruction is. -/
def base (i : Instr) : Instr :=
  match i with
  | .vstSequential o => .vst o
  | .fenceSmp o => .fence o
  | .apush o => .syswr o
  | .hentryWrite o => .syswr o
  | .tretOff o => .tret o
  | .punmapRet o => .punmap o
  | .tlbinvPage o => .tlbinvAll o
  | .tlbinvRange o => .tlbinvAll o
  | .haltctxRes o => .haltctx o
  | .prdeclDel o => .prdecl o
  | i => i

/-- A field the form does not have holds nothing (R148). -/
def formFields (o : Operands) : Bool :=
  match o.form with
  | .f64 => o.c == .vec 0 && o.d == .vec 0 && o.x == 0 && o.lit == 0
  | .f96c => o.d == .vec 0 && decide (o.x.toNat < 2 ^ 19) && o.lit == 0
  | .f96l => o.c == .vec 0 && o.d == .vec 0 && o.x == 0 && decide (o.lit.toNat < 2 ^ 32)
  | .f128c => o.lit == 0
  | .f128l => o.c == .vec 0 && o.d == .vec 0 && o.x == 0

/-- A source field the instruction does not read is zero (R149). -/
def srcClear (r : Role) (s : Src) : Bool :=
  match r with
  | .no => s == .vec 0
  | _ => true

/-- Every reserved bit is zero (R149, R157). -/
def reservedClear (g : Sig) (o : Operands) : Bool :=
  (match g.dst with | .no => o.dst == .vec 0 | _ => true) &&
  srcClear g.a o.a && srcClear g.b o.b && srcClear g.c o.c && srcClear g.d o.d &&
  (o.m &&& ~~~(BitVec.ofNat 13 g.mm)) == 0 && (o.x &&& ~~~(BitVec.ofNat 38 g.xm)) == 0

/-- Is the term an instruction or non-instruction word of the manual, or an event? -/
def WellFormed (i : Instr) : Bool :=
  match i with
  | .poolHeader w => w.setWidth 16 != 0
  | i =>
    match sig i, operands i with
    | some g, some o =>
      g.forms.contains o.form && formFields o && reservedClear g o && variant (base i) == i
    | _, _ => true

end Sys2Proof
end

