-- ==== Sys2Proof/Decode.lean ====
section
/-! DEFINITION. Decoding and encoding of instruction words (R142 to R156). Decoding answers an instruction, or the class-0
code of R352 that the words raise: 1 (reserved opcode), 2 (form not accepted), 4 (pool header of length 0), 5 (nonzero
reserved bit). Code 3 depends on the address and is tested at fetch. -/

namespace Sys2Proof

open Sys2Proof.Machine

/-! ### The opcode map (R156): the operations of each class, by index -/

/-- Class 0x0 (R156). -/
def controlOps : List (Operands → Instr) :=
  [.nop, .br, .brc, .bexecz, .bexecnz, .brany, .brall, .call, .ret, .jmpi, .regang, .region, .yield,
   .sleep, .exit, .trap, .bar, .getid, .sfmt]

/-- Class 0x1 (R156). -/
def scalarOps : List (Operands → Instr) :=
  [.smov, .sadd, .ssub, .smul, .smulhi, .smulhu, .sand, .sor, .sxor, .sandn, .sshl, .sshr, .ssra,
   .smin, .smax, .sminu, .smaxu, .scmp, .ssel, .sbfe, .sbfi, .sclz, .spopc, .sff1, .sdivu, .sremu,
   .sbrev]

/-- Class 0x2 (R156). -/
def scalar64Ops : List (Operands → Instr) :=
  [.sadd64, .ssub64, .smul64, .sshl64, .sshr64, .scmp64, .smov64, .msave, .mset, .mnot, .mcount]

/-- Class 0x3 (R156). -/
def vectorIntOps : List (Operands → Instr) :=
  [.vmov, .vadd, .vsub, .vmul, .vmulhi, .vmad, .vand, .vor, .vxor, .vshl, .vshr, .vsra, .vmin, .vmax,
   .vcmp, .vsel, .vbfe, .vbfi, .vpopc, .vclz, .vaddc]

/-- Class 0x4 (R156). -/
def vectorFloatOps : List (Operands → Instr) :=
  [.vfadd, .vfsub, .vfmul, .vfma, .vfmin, .vfmax, .vfcmp, .vfract, .vfloor, .vfceil, .vfrnde,
   .vftrunc, .vfdot2, .vfclass]

/-- Class 0x5 (R156). -/
def convertOps : List (Operands → Instr) :=
  [.vrcp, .vrsq, .vsqrt, .vexp2, .vlog2, .vsin, .vcos, .vdiv, .vcvt, .vpack, .vunpack, .vquant, .vdeq,
   .vscale, .qrange]

/-- Class 0x6 (R156). -/
def laneOpsOps : List (Operands → Instr) :=
  [.vlane, .vbcast, .vshuf, .vrot, .vswz, .vreduce, .vscan, .vfirst, .vballot, .vreadl, .vwritel,
   .vunif]

/-- Class 0x7 (R156). -/
def memoryOps : List (Operands → Instr) :=
  [.vld, .vst, .vldx, .vstx, .sld, .sst, .vpref, .ldrec]

/-- Class 0x8 (R156). -/
def scratchOps : List (Operands → Instr) :=
  [.vlds, .vsts, .slds, .ssts, .acczero, .accrd, .accwr, .accst, .accld, .cbld]

/-- Class 0x9 (R156). -/
def atomicOps : List (Operands → Instr) :=
  [.vatom, .vatoms, .satom, .fence]

/-- Class 0xA (R156). -/
def engineOps : List (Operands → Instr) :=
  [.vsample, .vgather4, .vsamplel, .tcopy, .tcopyx, .tpeer]

/-- Class 0xB (R156). -/
def syncOps : List (Operands → Instr) :=
  [.barinit, .barexp, .bararv, .bwait, .btest, .tlwait, .tlsig, .tlrd, .mbpost, .launch, .satrd]

/-- Class 0xC (R156). -/
def matrixOps : List (Operands → Instr) :=
  [.mjob, .commit, .mwait, .mquery]

/-- Class 0xD (R156). -/
def rendezvousOps : List (Operands → Instr) :=
  [.tagalloc, .tagset, .tagfree, .rvsend, .rvsendg, .gdone, .gfail, .prblk, .previct]

/-- Class 0xE (R156). -/
def supervisorOps : List (Operands → Instr) :=
  [.sysrd, .syswr, .tret, .pmap, .punmap, .tlbinvAll, .poolget, .haltctx, .mbreg, .prdecl, .tagpool]

/-- The operation of an opcode number; none where it is reserved. -/
def opcode (op : Nat) : Option (Operands → Instr) :=
  match op / 64 with
  | 0 => controlOps[op % 64]?
  | 1 => scalarOps[op % 64]?
  | 2 => scalar64Ops[op % 64]?
  | 3 => vectorIntOps[op % 64]?
  | 4 => vectorFloatOps[op % 64]?
  | 5 => convertOps[op % 64]?
  | 6 => laneOpsOps[op % 64]?
  | 7 => memoryOps[op % 64]?
  | 8 => scratchOps[op % 64]?
  | 9 => atomicOps[op % 64]?
  | 10 => engineOps[op % 64]?
  | 11 => syncOps[op % 64]?
  | 12 => matrixOps[op % 64]?
  | 13 => rendezvousOps[op % 64]?
  | 14 => supervisorOps[op % 64]?
  | _ => none

/-! ### Fields -/

/-- A source field: tag in its low two bits (R150). -/
def decodeSrc (v : BitVec 13) : Src :=
  let n := v.extractLsb' 2 11
  match (v.extractLsb' 0 2).toNat with
  | 0 => .vec n
  | 1 => .scal n
  | 2 => .const n
  | _ => .lit n

def encodeSrc (s : Src) : BitVec 13 :=
  match s with
  | .vec n => n ++ 0#2
  | .scal n => n ++ 1#2
  | .const n => n ++ 2#2
  | .lit n => n ++ 3#2

/-- The destination field: kind in its top bit (R149). -/
def decodeDst (v : BitVec 12) : Dst :=
  let n := v.extractLsb' 0 11
  if v.extractLsb' 11 1 = 1#1 then .scal n else .vec n

def encodeDst (d : Dst) : BitVec 12 :=
  match d with
  | .vec n => 0#1 ++ n
  | .scal n => 1#1 ++ n

/-- The form that len and bit 63 select (R148). -/
def decodeForm (len b63 : Nat) : Form :=
  match len, b63 with
  | 2, 0 => .f96c
  | 2, _ => .f96l
  | 3, 0 => .f128c
  | 3, _ => .f128l
  | _, _ => .f64

/-- Words of a form. -/
def formWords (f : Form) : Nat :=
  match f with
  | .f64 => 2
  | .f96c => 3
  | .f96l => 3
  | .f128c => 4
  | .f128l => 4

/-- The operand fields of an instruction word (R147, R148); bits above the form's last word are not examined. -/
def decodeOperands (w : BitVec 128) : Operands :=
  let f := decodeForm (w.extractLsb' 0 2).toNat (w.extractLsb' 63 1).toNat
  let none := Src.vec 0
  { form := f, dst := decodeDst (w.extractLsb' 12 12), a := decodeSrc (w.extractLsb' 24 13),
    b := decodeSrc (w.extractLsb' 37 13), m := w.extractLsb' 50 13,
    c := (match f with | .f96c => decodeSrc (w.extractLsb' 64 13) | .f128c => decodeSrc (w.extractLsb' 64 13) | _ => none),
    d := (match f with | .f128c => decodeSrc (w.extractLsb' 77 13) | _ => none),
    x := (match f with | .f96c => (w.extractLsb' 77 19).setWidth 38 | .f128c => w.extractLsb' 90 38 | _ => 0),
    lit := (match f with | .f96l => (w.extractLsb' 64 32).setWidth 64 | .f128l => w.extractLsb' 64 64 | _ => 0) }

/-- Bits [63:0] of an instruction (R147). -/
def encodeCommon (op : Nat) (len : Nat) (b63 : BitVec 1) (o : Operands) : BitVec 64 :=
  b63 ++ (o.m ++ (encodeSrc o.b ++ (encodeSrc o.a ++ (encodeDst o.dst ++ (BitVec.ofNat 10 op ++ BitVec.ofNat 2 len)))))

/-- The bits of an instruction with opcode number `op` (R147, R148), zeros above its last word. -/
def encodeOperands (op : Nat) (o : Operands) : BitVec 128 :=
  match o.form with
  | .f64 => 0#64 ++ encodeCommon op 1 0 o
  | .f96c => (0#32 ++ (o.x.setWidth 19 ++ encodeSrc o.c)) ++ encodeCommon op 2 0 o
  | .f96l => (0#32 ++ o.lit.setWidth 32) ++ encodeCommon op 2 1 o
  | .f128c => (o.x ++ (encodeSrc o.d ++ encodeSrc o.c)) ++ encodeCommon op 3 0 o
  | .f128l => o.lit ++ encodeCommon op 3 1 o

/-! ### Words -/

/-- How many 32-bit words the word's own bits [1:0] name (R142); 1 for a filler or a pool header. -/
def wordCount (w : BitVec 128) : Nat := (w.extractLsb' 0 2).toNat + 1

/-- The instruction that the bits hold, lowest address in the low bits, or the class-0 code they raise (R354's order). -/
def decode (w : BitVec 128) : Except Nat Instr :=
  if w.extractLsb' 0 2 = 0#2 then
    if w.extractLsb' 0 32 = 0#32 then .ok .filler
    else if w.extractLsb' 2 16 = 0#16 then .error 4
    else .ok (.poolHeader (w.extractLsb' 2 30))
  else
    match opcode (w.extractLsb' 2 10).toNat with
    | none => .error 1
    | some f =>
      let o := decodeOperands w
      let i := variant (f o)
      match sig i with
      | none => .error 1
      | some g =>
        if !g.forms.contains o.form then .error 2
        else if (o.form == .f64 && w.extractLsb' 63 1 == 1#1) || !reservedClear g o then .error 5
        else .ok i

/-- The bits of a well-formed instruction or non-instruction word; an event has none. -/
def encode (i : Instr) : Option (BitVec 128) :=
  match i with
  | .filler => some 0#128
  | .poolHeader w => some (0#96 ++ (w ++ 0#2))
  | i =>
    match sig i, operands i with
    | some g, some o => some (encodeOperands g.op o)
    | _, _ => none

/-- What the decoder reads from an instruction of `nbits` bits whose bits are `w`, bit 0 the least significant of the first
word; every bit above is 0. -/
def decodeTableWord (nbits w : Nat) : Option Instr :=
  match decode (BitVec.ofNat 128 (w % 2 ^ nbits)) with
  | .ok i => some i
  | .error _ => none

end Sys2Proof
end

