-- ==== Sys2Proof/Machine/State.lean ====
section
/-! DEFINITION. The state of the package as plain data: every piece of state the spec names (INVENTORY.md, State). A map
is a list of (key, value) pairs with strictly rising keys; what an unlisted key stands for is said at each field. -/

namespace Sys2Proof.Machine

/-- A map from numbers: pairs in strictly rising key order. -/
abbrev Map (α : Type) := List (Nat × α)

/-- Local HBM: the bytes that differ from 0, in rising address order (log 4). [MARK DESIGN CHOICE log 4] -/
abbrev Memory := List Host.Cell

/-- Why a step stops for good. -/
inductive Fault where
  /-- Raised by every step while the boot ROM holds the package in reset (R469): nothing runs any more. Safe. -/
  | heldInReset
  deriving DecidableEq, Repr

/-- Why an operation has no meaning in a state. -/
inductive Refusal where
  /-- Raised by a dispatch arm whose instruction has no meaning yet. Safe. -/
  | notModelled (mnemonic : String)
  /-- Raised by a word's meaning when no gang issues (`State.cur` names none that exists). Safe: no run does this. -/
  | noIssuer
  /-- Raised by an event's meaning in a state in which the event cannot happen. Safe: the device never takes it. -/
  | eventNotEnabled
  /-- Raised by a step whose agenda names a word as if it were an event. Safe. -/
  | notAnEvent
  deriving DecidableEq, Repr

/-- What a gang waits at (R50); `next` is the address of the next instruction. -/
inductive WaitKind where
  | bwait (obj : Nat) (phase : Bool) (next : W64)
  | mwait (n : Nat) (next : W64)
  | tlwait (index : Nat) (n : Nat) (next : W64)
  | bar (n : Nat)
  /-- the tag of each slice -/
  | regang (tags : List W32) (next : W64)
  /-- until the cycle counter reaches a value, or a phase changes (R178) -/
  | sleep (deadline : Nat) (next : W64)
  /-- a procedural fill; `touch` is the touch on its way or queued (R113) -/
  | fill (block touch : Nat)
  /-- its fill is over, and a full queue or an earlier result holds back the access that is to be made again -/
  | refill (block touch : Nat)
  /-- a generator's GDONE: its earlier stores, by their place in the core store order (R289) -/
  | gdone (seq : Nat)
  /-- a fence of the sampler path, until the cycle counter reaches a value (R131) -/
  | smp (deadline : Nat)
  /-- a full queue or engine, a fence, a drain: the instruction is tried again -/
  | retry
  deriving DecidableEq, Repr

structure Wait where
  kind : WaitKind
  since : Nat
  /-- its 7.3 record has been posted (R377) -/
  posted : Bool
  deriving DecidableEq, Repr

/-- The state of a slice (R30). -/
structure Slice where
  pc : W64
  rentry : W64
  exec : BitVec 4
  vcc : BitVec 4
  scc : Bool
  /-- s0 to s63; unlisted 0 -/
  sregs : Map W32
  fmt : W32
  exited : Bool
  /-- BAR passages since rentry last changed, and BARs still to be passed at once after a resume (R441) -/
  barPass : Nat
  replay : Nat
  deriving DecidableEq, Repr

/-- A gang (R32). -/
structure Gang where
  members : BitVec 8
  wait : Option Wait
  /-- starved-lane watchdog (R378): since when the gang has issued without waiting, at which cycle lanes were last active at an
  issue, and the lanes a record named -/
  spinSince : Nat
  seen : List (Nat × W32)
  starved : W32
  deriving DecidableEq, Repr

/-- What a faulting gang saved, per slice (R358). -/
structure Saved where
  slice : Nat
  exec : BitVec 4
  vcc : BitVec 4
  scc : Bool
  fmt : W32
  rentry : W64
  deriving DecidableEq, Repr

/-- The context handler a group runs (R358, R359). -/
structure Handler where
  gang : Nat
  saved : List Saved
  pc : W64
  mask : W32
  /-- the faulting instruction was of issue kind (R398) -/
  issueKind : Bool
  code : Nat
  addr : W64
  detail : W32
  /-- shadow s0-s15 of slice s at 64 s + i; unlisted 0 -/
  ss : Map W32
  /-- shadow v0-v7 at 32 r + lane; unlisted 0 -/
  vs : Map W32
  deriving DecidableEq, Repr

/-- A word of a load that is read when the result returns, from the core's earlier stores and its home segment (R125, R126): the
register words it goes to, its physical address and width, and how it becomes the word. -/
structure LateWord where
  keys : List Nat
  pa : Nat
  n : Nat
  mode : Nat
  deriving DecidableEq, Repr

/-- A result not yet returned to its registers (R50): loads, samples, atomics with return, CBLD. -/
structure Ret where
  id : Nat
  /-- its place in the core store order (R122) -/
  seq : Nat
  pc : W64
  members : BitVec 8
  sampler : Bool
  /-- the fetch of an instruction whose code lies on a peer -/
  fetch : Bool
  /-- issued by the context handler: the words go to the shadow set -/
  shadow : Bool
  /-- vector words (key 32 r + lane), scalar words (key 64 slice + number) and bank dwords (key 256 b + d) to be written -/
  vw : List (Nat × W32)
  sw : List (Nat × W32)
  cw : List (Nat × W32)
  /-- lines whose L2 fill is awaited, peer requests awaited, atomics of it still in the store queue -/
  lines : List Nat
  peers : List Nat
  queued : Nat
  /-- procedural block the access went through (R118) -/
  blocks : List Nat
  /-- words still to be read at their homes, and local lines that enter L1 or the sampler cache with the return (R105, R106) -/
  late : List LateWord
  fill : List Nat
  /-- lines asked for by VPREF: nothing waits for them (R218) -/
  prefetch : Bool
  /-- mergers of gangs since it was issued: the lead slice, whose scalar registers the slices of the mask took (R37) -/
  merges : List (Nat × BitVec 8)
  deriving DecidableEq, Repr

/-- What a store-queue entry does at its coherence point. -/
inductive SQOp where
  | store (bytes : List (Nat × Byte))
  /-- an atomic of code `aop` at `addr`; `keys` name the return's words -/
  | atomic (aop addr : Nat) (c d : W64) (ret : Option Nat) (keys : List Nat)
  deriving DecidableEq, Repr

/-- A store-queue entry, or one that has left its queue and is on its way to its coherence point (R122).
[MARKS DEDUCED log 29, DEDUCED log 127] -/
structure SQEntry where
  /-- place in the core store order -/
  seq : Nat
  /-- it has left the queue -/
  left : Bool
  pc : W64
  op : SQOp
  /-- the widest scope at which it is a release, 0 for none, and the place before which lies what it follows then (R127, R129) -/
  relScope : Nat
  base : Nat
  /-- of a replicated page, the line in every replica, the one first written among them (R111) -/
  replicas : List Nat
  va : Nat
  block : Option Nat
  /-- the gang that issued it, and its lanes that went to the same block (R432) -/
  members : BitVec 8
  lanes : W32
  deriving DecidableEq, Repr

/-- A group (R31). -/
structure Group where
  role : Nat
  roleIndex : Nat
  budget : Nat
  port : Nat
  slot : Nat
  slices : List Slice
  gangs : List Gang
  /-- vector registers at 32 r + lane; unlisted 0 -/
  vregs : Map W32
  /-- the store queue, in order, behind the entries that have left it and are still on their way (R31, R122) -/
  queue : List SQEntry
  fmask : W32
  /-- the first switch-off: code, program counter, lane address (R360) -/
  firstOff : Option (Nat × W64 × W64)
  basePrio : Nat
  curPrio : Nat
  /-- R322: the cycle of the last issue, of YIELD's mark, and since when it waits to issue -/
  lastIssue : Option Nat
  yielded : Bool
  readySince : Nat
  lastGang : Nat
  cg : W32
  openJobs : List Nat
  /-- pending commit groups, number and jobs not yet complete (R266) -/
  pending : List (W32 × List Nat)
  doneCg : W32
  /-- progress of the most recently issued job (R268) and its name -/
  lastJob : Option Nat
  lastProgress : W64
  handler : Option Handler
  returns : List Ret
  /-- TAGALLOC and POOLGET results since the last closing instruction: pc, value (R283, R300); those of the context handler, since a
  closing instruction of the program's or the handler's (R359) -/
  allocs : List (W64 × W64)
  hallocs : List (W64 × W64)
  /-- how far in the core store order the accesses lie that happen before the group's next one (R128) -/
  acqSeq : Nat
  /-- the widest scope of the group's releasing fences, 0 for none: each later store is a release at it (R129) -/
  relFence : Nat
  /-- acquiring accesses not yet performed: result and scope (R127) -/
  acqs : List (Nat × Nat)
  retired : Bool
  deriving DecidableEq, Repr

/-- An accumulator tile (R103): zeroed as a whole, or not initialised; words that differ are listed. -/
structure Tile where
  zeroed : Bool
  nonce : Nat
  cells : Map W32
  deriving DecidableEq, Repr

/-- A named barrier (R51): its open phase's expected count (none: no arrival yet), the slices arrived per group. -/
structure NBar where
  phase : Bool
  expected : Option Nat
  arrived : Map (BitVec 8)
  deriving DecidableEq, Repr

/-- What makes a team a generator (R115, R288, R289). -/
structure GenInfo where
  /-- the name of the fill -/
  fill : Nat
  block : Nat
  range : Nat
  depth : Nat
  ancestors : List Nat
  attempt : Nat
  /-- GDONE or GFAIL has acted -/
  acted : Bool
  deriving DecidableEq, Repr

/-- A matrix job (R265, R443). -/
structure Job where
  id : Nat
  team : Nat
  group : Nat
  pc : W64
  card : Nat
  tile : Nat
  fmt : W32
  progress : Nat
  /-- R259: the current pass has counted its tile -/
  counted : Bool
  /-- the card as the engine read it (R415), none before the reading -/
  read : Option (List Byte)
  /-- what the job has left in the elements it has updated, at 16384 tile + word: its later steps go on from there (R222) -/
  sums : Map W32
  deriving DecidableEq, Repr

/-- How an accepted copy ends (R233). -/
inductive CopyDone where
  | object (off : Nat)
  | timeline (index : Nat)
  /-- a counter of the same context on a peer (R235) -/
  | peerTimeline (device index : Nat)
  | message (target : W32) (index : Nat)
  deriving DecidableEq, Repr

/-- A copy (R231 to R235). -/
structure Copy where
  id : Nat
  ctx : Nat
  team : Nat
  group : Nat
  /-- the issuing team's index and what makes it a generator -/
  tx : Nat
  ty : Nat
  tz : Nat
  gen : Option GenInfo
  pc : W64
  srcScratch : Bool
  dstScratch : Bool
  /-- buffer records as four dwords, low first -/
  src : List W32
  dst : List W32
  sstart : W32
  dstart : W32
  width : Nat
  height : Nat
  param : Nat
  xf : Nat
  /-- planes and steps of TCOPYX; 1, 0, 0 otherwise -/
  planes : Nat
  sstep : W32
  dstep : W32
  done : CopyDone
  /-- next element or unit to land -/
  pos : Nat
  /-- elements that met a bounds condition, and the record's data (R401) -/
  boundsHit : Nat
  boundsRec : Option (Nat × Nat)
  /-- message bytes gathered for a mailbox -/
  gathered : List Byte
  /-- destination bytes (address or scratchpad offset) moved, whose sector or dword has elements still to come (R18, R133) -/
  pending : List (Nat × Byte)
  /-- peer lines read for the unit to land next -/
  fetched : Map (List Byte)
  /-- the source dword that elements of less than 4 bytes are read from, as it was when the first of them was read (R332) -/
  ahead : List (Nat × Byte)
  /-- all bytes landed, or stopped by R417 -/
  landed : Bool
  stopped : Bool
  /-- sequence number of the core store order its source reads wait for (R132) -/
  after : Nat
  waitTouch : Option Nat
  deriving DecidableEq, Repr

inductive TeamPhase where
  | placed | running | aborting | moving | saved
  deriving DecidableEq, Repr

/-- On-core ECC words that are uncorrectable (R406): structure number and index. [MARKS DEDUCED log 39, DESIGN CHOICE log 40] -/
abbrev BadWord := Nat × Nat

/-- A team (R25, R27, R53). -/
structure Team where
  grid : Nat
  ctx : Nat
  core : Nat
  x : Nat
  y : Nat
  z : Nat
  handle : Nat
  phase : TeamPhase
  started : Bool
  groups : List Group
  scratchBytes : Nat
  scratchNonce : Nat
  /-- scratchpad bytes written so far -/
  scratch : Map Byte
  /-- granules whose object bit is set (R418) -/
  objs : Map Unit
  tiles : List Tile
  /-- constant banks at 256 b + d; unlisted 0 -/
  banks : Map W32
  bars : Map NBar
  sat : List W32
  spent : List Bool
  lim : List W32
  eve : Bool
  evmb : Nat
  priv : Bool
  gen : Option GenInfo
  bad : List BadWord
  /-- what is to abort it once its move has ended (R439): cause, detail, whether a generator's attempt may be retried -/
  doom : Option (Nat × W32 × Bool)
  /-- order of placement (R320) -/
  age : Nat
  /-- it holds resources of its core (R319) -/
  resident : Bool
  /-- the touch its constant banks wait for, and peer lines of them read so far (R313, R476) -/
  bankTouch : Option Nat
  bankLines : Map (List Byte)
  /-- saved matrix jobs and suspended copies (R443), in order -/
  savedJobs : List Job
  savedCopies : List Copy
  /-- bypasses suffered while saved (R444) -/
  bypass : Nat
  deriving DecidableEq, Repr

/-- A core (R12): caches and engine queues. -/
structure Core where
  l1 : Map (List Byte)
  /-- the values of a line read since the last FENCE of the sampler path, latest first (R131) -/
  sampler : Map (List (List Byte))
  /-- cached table entries and leaves (levels 0 to 3) and dwords of replica-set entries (levels 4 to 12): context, level, the
  virtual address above what an entry of the level covers, and the entry (R94, R295) -/
  tlb : List ((Nat × Nat × Nat) × W64)
  storeSeq : Nat
  /-- lines of code on peers as the grids of this core fetch them: grid, context and line (R146) -/
  code : List ((Nat × Nat × Nat) × List Byte)
  /-- acquires, by the place from which they count and how far requests had been numbered: what was then on its way to further replicas
  of a page may happen before what follows (R127, R128, R139) -/
  seen : List (Nat × Nat)
  vacated : Bool
  jobs : List Job
  copies : List Copy
  deriving DecidableEq, Repr

/-- Where a message comes from (R309, R373). -/
inductive MsgKind where
  | host (flow : Flow)
  | post | copy | launch | residency | refusal | record | calibration
  deriving DecidableEq, Repr

/-- What the completion of a mailbox copy advances: a counter of a context; and the copy's team and program counter (R233, R420). -/
structure Completion where
  ctx : Nat
  index : Nat
  team : Nat
  pc : W64
  deriving DecidableEq, Repr

/-- A message on its way to a slot (R308, R309). -/
structure Msg where
  id : Nat
  kind : MsgKind
  ctx : Nat
  mb : Nat
  bytes : List Byte
  /-- LAUNCH: reply mailbox with its device and context, and whether the launching group was privileged -/
  reply : Option (Nat × Nat × Nat)
  privSender : Bool
  /-- timeline advanced when the message is complete in its slot (R233) -/
  tl : Option Completion
  /-- sending device, for 7.7 and 7.8 -/
  device : Nat
  /-- slot taken, while the slot's block is being filled (R386) -/
  slot : Option Nat
  waitTouch : Option Nat
  slotAddr : W64
  /-- its bytes have been sent to the slot -/
  written : Bool
  /-- a mailbox copy that waited on a block and was suspended with its team (R442) -/
  held : Bool
  /-- the peer's request it came as -/
  ack : Option Nat
  deriving DecidableEq, Repr

inductive SlotState where
  | filling (msg : Nat)
  /-- occupied, its grid not yet created (a stopped context, R447) -/
  | waiting
  | occupied (grid : Nat)
  deriving DecidableEq, Repr

/-- A mailbox (R303, R307, R308): registration and slot states; an unlisted slot is free. -/
structure Mailbox where
  n : Nat
  base : W64
  packet : List Byte
  priv : Bool
  slots : Map SlotState
  deriving DecidableEq, Repr

/-- The timeline that a HALTCTX advances once the context it names is saved, as a release at .PKG of what its group had done: context
and counter, and the core and place of the HALTCTX (R302). -/
structure HaltTl where
  ctx : Nat
  index : Nat
  core : Nat
  place : Nat
  deriving DecidableEq, Repr

/-- What queues on a block or waits for its fill (R113, R432, R476). -/
inductive Requester where
  | gang (t g k : Nat)
  | copy (id : Nat)
  | job (core id : Nat)
  | delivery (entry dest : Nat)
  | host (op : Nat)
  | slot (msg : Nat)
  | banks (t : Nat)
  deriving DecidableEq, Repr

/-- A touch on its way to the home segment of a block's leaf (R113). -/
structure Touch where
  id : Nat
  ctx : Nat
  block : Nat
  die : Nat
  req : Requester
  /-- the generator that touches, if any -/
  gen : Option GenInfo
  lanes : W32
  addr : Nat
  /-- program counter and members of a gang that has gone on from the instruction (R409) -/
  origin : Option (W64 × BitVec 8)
  deriving DecidableEq, Repr

/-- A declared range (R112, R287). -/
structure Range where
  base : Nat
  len : Nat
  packet : List Byte
  param : W64
  limit : Nat
  retry : Nat
  budget : Nat
  tl : Option Nat
  perms : BitVec 3
  acls : BitVec 2
  deleting : Bool
  deriving DecidableEq, Repr

/-- Bookkeeping of a block that is filling or filled (R114, R118, R430). -/
structure Block where
  range : Nat
  frame : Nat
  die : Nat
  gen : GenInfo
  /-- order in which fills began (R318) -/
  began : Nat
  /-- the grid of the attempt -/
  grid : Option Nat
  /-- the finished attempt's cause, detail and whether it may be retried, until the team has retired -/
  ended : Option (Nat × W32 × Bool)
  /-- the touches queued on the fill; once it has ended, those it served -/
  queue : List Touch
  filled : Bool
  /-- order of filling (R118) -/
  filledAt : Nat
  evict : Bool
  /-- it was pinned at the end of the last cycle (R118) -/
  held : Bool
  deriving DecidableEq, Repr

/-- A tag's matching state at its home segment (R277, R279, R425). The record is in memory. -/
structure TagState where
  /-- which slot's queue holds operands, and their entries, oldest first -/
  slot : Nat
  queue : List Nat
  orphan : Bool
  rounds0 : Nat
  rounds1 : Nat
  /-- the L2 cycle in which the head's timeout started -/
  since : Nat
  deriving DecidableEq, Repr

/-- A rendezvous send, delivery to a tag or TAGSET on its way to a home segment (R276, R284). -/
structure Send where
  id : Nat
  ctx : Nat
  tag : W32
  slot : Nat
  bytes : List Byte
  /-- who sent it: a team and group; for a result the index of the tag that gave it -/
  src : Nat
  group : Nat
  /-- a TAGSET's place in the core store order (R284) -/
  seq : Nat
  /-- sender: core, team index and device; a result has core 0 -/
  core : Nat
  tx : Nat
  ty : Nat
  tz : Nat
  device : Nat
  result : Bool
  /-- a TAGSET: its mask and image -/
  set : Option (BitVec 8 × List Byte)
  deriving DecidableEq, Repr

/-- A cloakroom or annex entry (R278): an operand queued, or a result with destinations still to take it. -/
structure Entry where
  id : Nat
  ctx : Nat
  tag : W32
  /-- its entry of the annex, none in the cloakroom -/
  annex : Option Nat
  segment : Nat
  send : Send
  /-- which arrival at its slot the operand was (R423) -/
  round : Nat
  /-- destinations outstanding, number and 48-bit layout; empty for an operand -/
  dests : List (Nat × Nat)
  waitTouch : List (Nat × Nat)
  deriving DecidableEq, Repr

/-- Who a peer request is for (R457). -/
inductive PeerFor where
  /-- the words its answer gives, and whether its line enters the core's L1 or sampler cache -/
  | load (t g r : Nat) (keys : List (Nat × Nat)) (install : Bool)
  /-- its place in the core store order; of a replicated page its virtual address, and whether this is a further replica -/
  | store (t g seq : Nat) (replica : Option (Nat × Bool))
  | atomic (t g seq : Nat) (ret : Option Nat) (keys : List Nat)
  | copyRead (copy : Nat)
  | copyWrite (copy : Nat)
  | copyTimeline (t g : Nat)
  | delivery (entry dest : Nat)
  | message (msg : Nat) (tl : Option Completion)
  | slotWrite (msg : Nat)
  | banks (t : Nat)
  | host (op : Nat)
  deriving DecidableEq, Repr

/-- An outstanding request to a peer (R344, R457). -/
structure PeerReq where
  id : Nat
  device : Nat
  addr : Nat
  since : Nat
  who : PeerFor
  ctx : Nat
  pc : W64
  /-- the port it left by (R344), and whether by the port's bulk share (R17) -/
  port : Option Nat
  bulk : Bool
  /-- the bytes it carries, for its flits (R347) -/
  size : Nat
  deriving DecidableEq, Repr

/-- A tracked LAUNCH (R390). -/
structure Tracked where
  id : Nat
  target : W32
  since : Nat
  deriving DecidableEq, Repr

/-- A fault record waiting for a slot (R355, R357). -/
structure Record where
  seq : W32
  bytes : List Byte
  /-- mailbox: errmb, or the lost-property mailbox (R422) -/
  lost : Bool
  arrived : Nat
  deriving DecidableEq, Repr

/-- The states of R446 that last: Stopping and Resuming are passed through within the step that enters them (R447, R451). -/
inductive CtxPhase where
  | running | draining | saving | stopped
  deriving DecidableEq, Repr

/-- An outbound host message not yet acknowledged (R342): its number, sender, target mailbox, and the timeline a copy to it
advances. -/
structure OutAck where
  msg : Nat
  /-- how far the core store order had come when it was posted -/
  seq : Nat
  t : Nat
  g : Nat
  mb : Nat
  tl : Option Completion
  deriving DecidableEq, Repr

/-- A context (R87, R294, R446). -/
structure Ctx where
  phase : CtxPhase
  /-- stopped by 8.3 (R408, R446) -/
  fatal : Bool
  /-- DESTROY_CONTEXT waits for the stop (R452) -/
  destroying : Option Nat
  /-- timelines that HALTCTX advances once this context is stopped; and those of its own that stops now over have still to advance
  (R302) -/
  haltTls : List HaltTl
  owed : List HaltTl
  key : Nat
  xlroot : W64
  cmptab : W64
  rsetbase : W64
  dlvbase : W64
  hentry : W64
  errmb : W32
  tagbase : W64
  tagcount : W32
  annexbase : W64
  annexsize : W32
  lostbase : W64
  lostsize : W32
  defaultTmo : W32
  lostMb : W32
  allot0 : List Nat
  allot1 : List Nat
  /-- timeline counters; unlisted 0 -/
  timelines : Map W64
  tlPosted : List Nat
  mailboxes : Map Mailbox
  /-- held messages in order of arrival (R381) -/
  overflow : List (Nat × Msg)
  /-- occupied slots whose grids wait for the context to run again: mailbox, slot, message (R447, R450) -/
  waiting : List (Nat × Nat × Msg)
  /-- when it stopped, in core and L2 cycles: timeouts do not run meanwhile (R450) -/
  stoppedAt : Nat
  stoppedL2 : Nat
  records : List Record
  /-- the sequence number of the next record (R355) -/
  recSeq : W32
  dropped : W32
  tags : Map TagState
  /-- the queue of free team handles (R274): those passed over, those never issued, those freed -/
  handleSkipped : List Nat
  handleNext : Nat
  handleFreed : List Nat
  catalogue : Map Range
  blocks : Map Block
  tracked : List Tracked
  /-- the host endpoint's session -/
  endpoint : Option Nat
  /-- outbound host messages not yet acknowledged -/
  outAcks : List OutAck
  /-- measurements of the handler images loaded, whose signatures verified (R345) -/
  images : List (BitVec 384)
  deriving DecidableEq, Repr

/-- A grid (R25, R310, R318). -/
structure Grid where
  ctx : Nat
  mb : Nat
  slot : Nat
  slotAddr : W64
  packet : List Byte
  priv : Bool
  next : Nat
  retired : Nat
  total : Nat
  bypass : Nat
  blocking : Bool
  aborted : Bool
  reply : Option (Nat × Nat × Nat)
  firstTeam : Option Nat
  reported : Bool
  gen : Option GenInfo
  deriving DecidableEq, Repr

/-- An SPDM session (R346, R462). [MARK PRESUMED log 112] -/
inductive SessionStage where
  | version | capabilities | negotiated | exchanging | established
  deriving DecidableEq, Repr

structure Session where
  stage : SessionStage
  keys : Nat
  last : Nat
  authFails : Nat
  deriving DecidableEq, Repr

/-- A VACATE_CORES not yet answered (R437). -/
structure Vacate where
  session : Nat
  cores : BitVec 256
  moved : Nat
  teams : List Nat
  deriving DecidableEq, Repr

/-- Flash's degradation table (R468). -/
structure Degradation where
  i3cOff : Bool
  alone : Bool
  lanes : BitVec 72
  pins : List Nat
  oct0 : BitVec 16
  oct1 : BitVec 16
  deriving DecidableEq, Repr

/-- Start-up (R349, R466 to R470). [MARK DESIGN CHOICE log 136] -/
structure Boot where
  /-- main firmware runs, or the recovery image does, or the boot ROM holds the package in reset -/
  running : Bool
  recovery : Bool
  held : Bool
  entries : List (BitVec 16)
  counters : List Nat
  bases : List Nat
  /-- units that failed on the last start, per step, for the alternative of the next start -/
  failing : List (Option (BitVec 72))
  /-- the last failure of step 7 was of a stack at code 4, which has no alternative left (R467) -/
  spent : Bool
  degr : Degradation
  exitFlag : Bool
  /-- step 15 of this start enabled I3C (R349, R468) -/
  i3c : Bool
  starts : Nat
  /-- firmware image written by UPDATE_FIRMWARE -/
  image : List Byte
  /-- the anti-rollback counter that step 3 compares (R349) -/
  rollback : Nat
  deriving DecidableEq, Repr

/-- A UALink port (R343, R347, R458). -/
structure Port where
  bad : BitVec 4
  width : Nat
  up : Bool
  keys : Nat
  /-- the peer's attestation report has been accepted (R345, R347) -/
  attested : Bool
  /-- flits sent since the key was last refreshed (R347) -/
  flits : Nat
  deriving DecidableEq, Repr

/-- The telemetry block (R350, R410). -/
structure Telemetry where
  power : W32
  clock : W32
  throttles : W32
  hottest : W32
  alerts0 : W32
  alerts1 : W32
  corrected0 : W32
  corrected1 : W32
  deriving DecidableEq, Repr

/-- The Ethernet port (R461). -/
structure Eth where
  up : Bool
  lostAt : Option Nat
  downPosted : Bool
  deriving DecidableEq, Repr

/-- The die bridge (R411). -/
structure Bridge where
  spares0 : Nat
  spares1 : Nat
  failed : Bool
  deriving DecidableEq, Repr

/-- A host Write or Read under way (R340, R399): the bytes still to be stored or read. -/
structure HostOp where
  id : Nat
  flow : Flow
  ctx : Nat
  write : Bool
  offset : Nat
  bytes : List Byte
  n : Nat
  tl : Nat
  /-- packets of this Write are still to come (R340, R462) -/
  more : Bool
  /-- it has met a condition, and what is still to come of it stores nothing (R399) -/
  failed : Bool
  waitTouch : Option Nat
  fetched : Map (List Byte)
  deriving DecidableEq, Repr

/-- What leaves the device (R21): answers to the host, outbound messages, requests and answers to peers. -/
inductive Out where
  | hostDone (op : Nat) (ok : Bool)
  | hostRead (op : Nat) (bytes : List Byte)
  | spdm (session : Nat) (request : String) (ok : Bool) (data : List Nat)
  | hostMessage (ctx msg : Nat) (bytes : List Byte)
  | peerRead (req device addr n : Nat)
  | peerWrite (req device addr : Nat) (bytes : List Byte)
  | peerAtomic (req device addr aop : Nat) (c d : W64) (ret : Bool)
  | peerMessage (req device ctx mb : Nat) (kind : PeerMsg) (bytes : List Byte)
  | peerTimeline (req device ctx index : Nat)
  | peerAnswer (device id : Nat) (ok : Bool) (bytes : List Byte)
  | i3c (entries : List (BitVec 16))
  deriving DecidableEq, Repr

/-- MODEL'S OWN: the gang that issues: team, group, and the gang's lowest member slice. -/
structure Issuer where
  t : Nat
  g : Nat
  k : Nat
  deriving DecidableEq, Repr

/-- MODEL'S OWN: what comes next when several agents could act: an event, an issue of a gang, or issues of several ports in one cycle.
[MARK DESIGN CHOICE log 3] -/
inductive Act where
  | event (i : Instr)
  | issue (t g k : Nat)
  | issues (gs : List Issuer)
  deriving DecidableEq, Repr

/-- MODEL'S OWN: the abort of a team and its grid that waits for the end of a cycle in which several gangs issue: the team, its fault's class and
code, and what ends a generator's attempt (R394). -/
structure PutOff where
  team : Nat
  cls : Nat
  code : Nat
  cause : Nat × W32 × Bool
  deriving DecidableEq, Repr

/-- MODEL'S OWN: whose write is not yet released at .PKG (R146): a group's, by its core and place, or that of a copy or of a host Write
still under way (R137, R340). -/
inductive Writer where
  | store (core place : Nat)
  | copy (id : Nat)
  | host (op : Nat)
  deriving DecidableEq, Repr

/-- MODEL'S OWN: a block of 32 bytes as it was before a write, and the key and writer of its line; `stamp` is when the write was released,
and `by_` whose it is while it has not been (R146). -/
structure OldBlock where
  stamp : Nat
  by_ : Option Writer
  block : Nat
  bytes : List Byte
  key : Option (Nat × Nat)
  deriving DecidableEq, Repr

/-- The package. [MARKS DESIGN CHOICE log 1, DESIGN CHOICE log 3, DESIGN CHOICE log 5] -/
structure State where
  /-- the cycle counter of clock and clockhi (R151, R445) -/
  cycle : W64
  /-- L2 cycles since reset, at 2.0 GHz whatever the core clock is, and the part of the next one gone by (R1, R24, R350) -/
  l2cycle : Nat
  l2part : Nat
  mem : Memory
  /-- key under which a line was last written and the context that wrote it, 64 for none; unlisted: no key, contents as they
  stand (R348) -/
  lineKey : Map (Nat × Nat)
  /-- MODEL'S OWN: 32-byte blocks as they were before a store that some running or later grid does not fetch (R146) -/
  journal : List OldBlock
  /-- owner of a frame, by frame number; unlisted: none (R109) -/
  owner : Map Nat
  withheld : List Nat
  /-- lines resident in L2, and whether dirty -/
  l2 : Map Bool
  badLines : Map Unit
  /-- lost-sector entries: line and sector mask (R408) -/
  lost : Map (BitVec 4)
  cores : Map Core
  ctxs : Map Ctx
  grids : Map Grid
  teams : Map Team
  saved : List Nat
  gridQueue : List Nat
  sends : List Send
  entries : List Entry
  touches : List Touch
  hostOps : List HostOp
  peerReqs : List PeerReq
  msgs : List Msg
  outbox : List Out
  vacates : List Vacate
  deviceId : BitVec 10
  /-- hop table; unlisted: hops 15 (unreachable) -/
  hops : Map W32
  octetOff : BitVec 32
  ports : List Port
  bridge : Bridge
  eth : Eth
  sessions : Map Session
  boot : Boot
  tele : Telemetry
  /-- MODEL'S OWN -/
  nextId : Nat
  cur : Option Issuer
  agenda : List Act
  /-- MODEL'S OWN: none but while several gangs issue in one cycle -/
  putOff : Option (List PutOff)
  deriving DecidableEq, Repr

/-- A core with empty caches and queues. [MARK DESIGN CHOICE log 6] -/
def Core.empty : Core :=
  { l1 := [], sampler := [], tlb := [], storeSeq := 0, code := [], seen := [], vacated := false, jobs := [], copies := [] }

/-- [MARK DESIGN CHOICE log 9] -/
def Degradation.clear : Degradation :=
  { i3cOff := false, alone := false, lanes := 0, pins := List.replicate 8 0, oct0 := 0, oct1 := 0 }

/-- The machine right after reset, before start-up step 1 (R349): nothing runs, no context exists.
[MARKS DESIGN CHOICE log 1, DESIGN CHOICE log 4, DESIGN CHOICE log 5, DESIGN CHOICE log 6, DESIGN CHOICE log 7, DESIGN CHOICE log 8, DESIGN CHOICE log 9, DESIGN CHOICE log 10] -/
def State.reset : State :=
  { cycle := 0, l2cycle := 0, l2part := 0, mem := [], lineKey := [], journal := [], owner := [], withheld := [], l2 := [], badLines := [], lost := [], cores := [],
    ctxs := [], grids := [], teams := [], saved := [], gridQueue := [], sends := [], entries := [], touches := [],
    hostOps := [], peerReqs := [], msgs := [], outbox := [], vacates := [], deviceId := 0, hops := [], octetOff := 0,
    ports := List.replicate 18 { bad := 0, width := 4, up := false, keys := 0, attested := false, flits := 0 },
    bridge := { spares0 := 0, spares1 := 0, failed := false },
    eth := { up := false, lostAt := none, downPosted := false }, sessions := [],
    boot := { running := false, recovery := false, held := false, entries := List.replicate 16 0,
              counters := List.replicate 16 0, bases := List.replicate 16 0, failing := List.replicate 16 none, spent := false,
              degr := Degradation.clear, exitFlag := false, i3c := false, starts := 0, image := [], rollback := 0 },
    tele := { power := 0, clock := 3000, throttles := 0, hottest := 0, alerts0 := 0, alerts1 := 0, corrected0 := 0,
              corrected1 := 0 },
    nextId := 0, cur := none, agenda := [], putOff := none }

end Sys2Proof.Machine
end

