-- ==== Sys2Proof/Machine/Maps.lean ====
section
/-! DEFINITION. Maps in canonical form: pairs in strictly rising key order, and, where unlisted keys stand for a default
value, no entry equal to it. Memory is such a map of bytes whose default is 0 (log 4). -/

namespace Sys2Proof.Machine

/-- The value at key `k`. -/
def mget {α : Type} : Map α → Nat → Option α
  | [], _ => none
  | (j, v) :: r, k => if j = k then some v else mget r k

/-- Key `k` set to `v`. -/
def mput {α : Type} : Map α → Nat → α → Map α
  | [], k, v => [(k, v)]
  | (j, w) :: r, k, v => if j = k then (k, v) :: r else if k < j then (k, v) :: (j, w) :: r else (j, w) :: mput r k v

/-- Key `k` removed. -/
def mdel {α : Type} : Map α → Nat → Map α
  | [], _ => []
  | (j, w) :: r, k => if j = k then mdel r k else (j, w) :: mdel r k

/-- The value at `k` changed by `f`, if there is one. -/
def mmod {α : Type} (m : Map α) (k : Nat) (f : α → α) : Map α :=
  match mget m k with
  | some v => mput m k (f v)
  | none => m

/-- The value at `k`, or the default. -/
def mgetD {α : Type} (m : Map α) (d : α) (k : Nat) : α := (mget m k).getD d

/-- Key `k` set to `v` in a map with default `d`. -/
def mputD {α : Type} [DecidableEq α] (m : Map α) (d : α) (k : Nat) (v : α) : Map α :=
  if v = d then mdel m k else mput m k v

/-- Strictly rising keys above `lo`. -/
def risingFrom {α : Type} : Option Nat → Map α → Bool
  | _, [] => true
  | lo, (j, _) :: r => (match lo with | none => true | some l => decide (l < j)) && risingFrom (some j) r

/-- The canonical form of a map. -/
def mwf {α : Type} (m : Map α) : Bool := risingFrom none m

/-- The canonical form of a map with default `d`. -/
def mwfD {α : Type} [DecidableEq α] (d : α) (m : Map α) : Bool := mwf m && m.all (fun e => e.2 != d)

/-- What an address of HBM nobody has written reads as (log 4). -/
def memDefault : Byte := 0

/-- The canonical form of memory (HBM): rising addresses, no listed byte equal to the default. -/
def Memory.wf (m : Memory) : Bool := mwfD memDefault m

/-- A byte of HBM. -/
def readByte (m : Memory) (a : Nat) : Byte := mgetD m memDefault a

/-- HBM with one byte written. -/
def writeByte (m : Memory) (a : Nat) (b : Byte) : Memory := mputD m memDefault a b

/-- HBM with bytes written at consecutive addresses. -/
def writeBytes : Memory → Nat → List Byte → Memory
  | m, _, [] => m
  | m, a, b :: r => writeBytes (writeByte m a b) (a + 1) r

/-- `n` bytes of HBM from `a`. -/
def readBytes (m : Memory) (a n : Nat) : List Byte := (List.range n).map (fun i => readByte m (a + i))

/-- The little-endian number a list of bytes holds (R5). -/
def leNat : List Byte → Nat
  | [] => 0
  | b :: r => b.toNat + 256 * leNat r

/-- The low `n` bytes of a number, least significant first (R5). -/
def bytesOf : (n v : Nat) → List Byte
  | 0, _ => []
  | n + 1, v => BitVec.ofNat 8 v :: bytesOf n (v / 256)

/-- Element `i` of a list changed. -/
def lmod {α : Type} : List α → Nat → (α → α) → List α
  | [], _, _ => []
  | x :: r, 0, f => f x :: r
  | x :: r, i + 1, f => x :: lmod r i f

end Sys2Proof.Machine
end

