-- ==== Sys2Proof/Machine/Ops.lean ====
section
/-! DEFINITION. The operations every meaning shares: access to the parts of the state, masks, registers, fault records, the
abort of a team and its grid, entry to the context handler and return from it. -/

namespace Sys2Proof.Machine

/-! ### Parts of the state -/

def teamOf (s : State) (t : Nat) : Option Team := mget s.teams t
def ctxOf (s : State) (c : Nat) : Option Ctx := mget s.ctxs c
/-- A core that nothing has used has empty caches and queues. -/
def coreOf (s : State) (c : Nat) : Core := mgetD s.cores Core.empty c

def modTeam (s : State) (t : Nat) (f : Team → Team) : State := { s with teams := mmod s.teams t f }
def modGroup (s : State) (t g : Nat) (f : Group → Group) : State :=
  modTeam s t (fun tm => { tm with groups := lmod tm.groups g f })
def modCtx (s : State) (c : Nat) (f : Ctx → Ctx) : State := { s with ctxs := mmod s.ctxs c f }
def modCore (s : State) (c : Nat) (f : Core → Core) : State := { s with cores := mput s.cores c (f (coreOf s c)) }
def modGrid (s : State) (g : Nat) (f : Grid → Grid) : State := { s with grids := mmod s.grids g f }

def groupOf (s : State) (t g : Nat) : Option Group := (teamOf s t).bind (fun tm => tm.groups[g]?)

/-- Two dies of 128 cores (R11). -/
def dieOf (core : Nat) : Nat := core / 128

/-- A team with nothing in it. -/
def Team.blank : Team :=
  { grid := 0, ctx := 0, core := 0, x := 0, y := 0, z := 0, handle := 0, phase := .placed, started := false, groups := [],
    scratchBytes := 0, scratchNonce := 0, scratch := [], objs := [], tiles := [], banks := [], bars := [], sat := [0, 0, 0, 0],
    spent := [false, false, false, false], lim := [0, 0, 0, 0], eve := false, evmb := 0, priv := false, gen := none, bad := [], doom := none,
    age := 0, resident := true, bankTouch := none, bankLines := [], savedJobs := [], savedCopies := [], bypass := 0 }

/-! ### Masks (R26, R33) -/

/-- The mask whose bit i is p i, for i below n. -/
def maskNat (p : Nat → Bool) : Nat → Nat
  | 0 => 0
  | n + 1 => maskNat p n + (if p n then 2 ^ n else 0)
def maskOf (p : Nat → Bool) : W32 := BitVec.ofNat 32 (maskNat p 32)
/-- Is lane (or bit) l set? -/
def laneIn (m : W32) (l : Nat) : Bool := m.getLsbD l
def lanes (m : W32) : List Nat := (List.range 32).filter (laneIn m)
/-- The members of a gang, lowest first. -/
def membersOf (m : BitVec 8) : List Nat := (List.range 8).filter (fun i => m.getLsbD i)
/-- The lowest member slice; a gang's name in the model. -/
def leadOf (m : BitVec 8) : Nat := (membersOf m).headD 0
/-- Nibble i of a mask. -/
def nibble (m : W32) (i : Nat) : BitVec 4 := m.extractLsb' (4 * i) 4
/-- The lowest set lane. -/
def lowest (m : W32) : Option Nat := (lanes m).head?

/-- Four-bit fields of the member slices assembled, zeros elsewhere (R33). -/
def assemble (ss : List Slice) (m : BitVec 8) (f : Slice → BitVec 4) : W32 :=
  maskOf (fun l => m.getLsbD (l / 4) && (match ss[l / 4]? with | some x => (f x).getLsbD (l % 4) | none => false))

/-- exec as a gang reads it (R33, R172). -/
def gangExec (gr : Group) (m : BitVec 8) : W32 := assemble gr.slices m (fun x => x.exec) &&& ~~~gr.fmask
def gangVcc (gr : Group) (m : BitVec 8) : W32 := assemble gr.slices m (fun x => x.vcc)

def sliceOf (gr : Group) (i : Nat) : Slice :=
  gr.slices[i]?.getD { pc := 0, rentry := 0, exec := 0, vcc := 0, scc := false, sregs := [], fmt := 0, exited := true,
                       barPass := 0, replay := 0 }

/-- Every member slice changed. -/
def modMembers (gr : Group) (m : BitVec 8) (f : Nat → Slice → Slice) : Group :=
  { gr with slices := gr.slices.mapIdx (fun i x => if m.getLsbD i then f i x else x) }

/-- The gang whose lowest member is k. -/
def gangAt (gr : Group) (k : Nat) : Option Gang := gr.gangs.find? (fun q => q.members != 0 && leadOf q.members == k)
def modGang (gr : Group) (k : Nat) (f : Gang → Gang) : Group :=
  { gr with gangs := gr.gangs.map (fun q => if q.members != 0 && leadOf q.members == k then f q else q) }

/-- Slices of the group that have not exited. -/
def liveSlices (gr : Group) : BitVec 8 := BitVec.ofNat 8 (maskNat (fun i => !(sliceOf gr i).exited) 8)

/-! ### Registers -/

/-- Does slice i run the context handler, on the shadow set (R358)? -/
def shadowed (gr : Group) (i : Nat) : Bool :=
  match gr.handler with
  | some h => h.saved.any (fun x => x.slice == i)
  | none => false

/-- Scalar register n of slice i. -/
def sreg (gr : Group) (i n : Nat) : W32 :=
  if shadowed gr i then (match gr.handler with | some h => mgetD h.ss 0 (64 * i + n) | none => 0)
  else mgetD (sliceOf gr i).sregs 0 n

/-- Lane l of vector register r. -/
def vreg (gr : Group) (r l : Nat) : W32 :=
  if shadowed gr (l / 4) then (match gr.handler with | some h => mgetD h.vs 0 (32 * r + l) | none => 0)
  else mgetD gr.vregs 0 (32 * r + l)

/-- Scalar register n of slice i written. -/
def setSreg (gr : Group) (i n : Nat) (v : W32) : Group :=
  if shadowed gr i then
    { gr with handler := gr.handler.map (fun h => { h with ss := mputD h.ss 0 (64 * i + n) v }) }
  else { gr with slices := lmod gr.slices i (fun x => { x with sregs := mputD x.sregs 0 n v }) }

/-- Lane l of vector register r written. -/
def setVreg (gr : Group) (r l : Nat) (v : W32) : Group :=
  if shadowed gr (l / 4) then
    { gr with handler := gr.handler.map (fun h => { h with vs := mputD h.vs 0 (32 * r + l) v }) }
  else { gr with vregs := mputD gr.vregs 0 (32 * r + l) v }

/-- exec of the members written from the values each has computed, under fmask (R171, R172). -/
def setExec (gr : Group) (m : BitVec 8) (v : Nat → W32) : Group :=
  modMembers gr m (fun i x => { x with exec := nibble (v i &&& ~~~gr.fmask) i })
def setVcc (gr : Group) (m : BitVec 8) (v : Nat → W32) : Group := modMembers gr m (fun i x => { x with vcc := nibble (v i) i })
def setScc (gr : Group) (m : BitVec 8) (v : Nat → Bool) : Group := modMembers gr m (fun i x => { x with scc := v i })

/-- A scalar destination of each member slice written: s0 to s63, exec, vcc, scc (R151, R171). -/
def setScalar (gr : Group) (m : BitVec 8) (n : Nat) (v : Nat → W32) : Group :=
  if n < 64 then (membersOf m).foldl (fun gr i => setSreg gr i n (v i)) gr
  else match n with
    | 64 => setExec gr m v
    | 65 => setVcc gr m v
    | 66 => setScc gr m (fun i => (v i).getLsbD 0)
    | _ => gr

/-- The vector lanes of a mask written. -/
def setLanes (gr : Group) (r : Nat) (m : W32) (v : Nat → W32) : Group :=
  (lanes m).foldl (fun gr l => setVreg gr r l (v l)) gr

/-! ### Faults -/

/-- A condition met at issue: class and code, the lanes it applies to, its address and detail (none: not stated), and for the
handler each faulting lane with its address and access kind (R358). -/
structure Flt where
  cls : Nat
  code : Nat
  mask : W32
  addr : W64 := 0
  detail : Option W32 := none
  acc : List (Nat × W64 × Nat) := []
  deriving DecidableEq, Repr

/-- What a fault record is made from (R355). [MARK DEDUCED log 123] -/
structure RecIn where
  cls : Nat
  code : Nat
  mask : W32 := 0
  addr : W64 := 0
  detail : Option W32 := none
  pc : W64 := 0
  rentry : W64 := 0
  x : Nat := 0
  y : Nat := 0
  z : Nat := 0
  core : Nat := 0
  group : Nat := 0
  role : Nat := 0
  members : BitVec 8 := 0
  lost : Bool := false
  deriving DecidableEq, Repr

/-- The 256 bytes of a fault record, without the count of dropped records (R355).
[MARKS DESIGN CHOICE log 47, DESIGN CHOICE log 87, DEDUCED log 123] -/
def recordBytes (s : State) (c : Nat) (q : Ctx) (r : RecIn) : List Byte :=
  bytesOf 4 3 ++ bytesOf 4 r.cls ++ bytesOf 4 r.code ++ bytesOf 8 r.pc.toNat ++ bytesOf 8 r.rentry.toNat ++
  bytesOf 4 r.mask.toNat ++ bytesOf 8 r.addr.toNat ++ bytesOf 4 r.x ++ bytesOf 4 r.y ++ bytesOf 4 r.z ++
  bytesOf 4 (c * 2 ^ 26 + r.role * 2 ^ 24 + r.members.toNat * 2 ^ 16 + r.group * 2 ^ 8 + r.core) ++
  bytesOf 4 (r.detail.getD (Config.freeDetail q.recSeq.toNat)).toNat ++ bytesOf 4 q.recSeq.toNat ++
  bytesOf 8 s.cycle.toNat ++ bytesOf 4 s.deviceId.toNat ++ bytesOf 180 0

/-- A record enters the context's queue of 64, or is dropped; either way it takes a sequence number (R357). -/
def postRecord (s : State) (c : Nat) (r : RecIn) : State :=
  modCtx s c (fun q =>
    if q.records.length < 64 then
      { q with recSeq := q.recSeq + 1, records := q.records ++ [{ seq := q.recSeq, bytes := recordBytes s c q r, lost := r.lost, arrived := s.cycle.toNat }] }
    else { q with recSeq := q.recSeq + 1, dropped := q.dropped + 1 })

/-- A record that names a team (R355). -/
def teamRecord (tm : Team) (g : Nat) (r : RecIn) : RecIn :=
  let role := match tm.groups[g]? with | some gr => gr.role | none => 0
  { r with x := tm.x, y := tm.y, z := tm.z, core := tm.core, group := g, role := role }

/-! ### Messages the TX2 originates -/

/-- [MARK DESIGN CHOICE log 1] -/
def fresh (s : State) : Nat × State := (s.nextId, { s with nextId := s.nextId + 1 })

/-- A message to a local mailbox enters the way to its slot (R308, R309). -/
def sendLocal (s : State) (m : Msg) : State := { s with nextId := s.nextId + 1, msgs := s.msgs ++ [{ m with id := s.nextId }] }

/-- A message with nothing but a kind, a target and bytes. -/
def plainMsg (s : State) (kind : MsgKind) (ctx mb : Nat) (bytes : List Byte) : Msg :=
  { id := 0, kind := kind, ctx := ctx, mb := mb, bytes := bytes, reply := none, privSender := true, tl := none,
    device := s.deviceId.toNat, slot := none, waitTouch := none, slotAddr := 0, written := false, held := false, ack := none }

/-- The ports that reach a peer (R343). -/
def portsTo (s : State) (device : Nat) : List Nat := (List.range 18).filter (fun p => (mgetD s.hops 0x3C000000 device).getLsbD p)

/-- The port by which a request to a peer's line leaves, so that all requests of this device to the line share it (R344).
[MARK DESIGN CHOICE log 134] -/
def portOf (s : State) (device addr : Nat) : Option Nat :=
  let ps := portsTo s device
  ps[Config.portHash (addr / 128) % ps.length]?

/-- Copies, rendezvous deliveries and mailbox messages use the bulk share of a port, all else the load-store share (R344).
[MARK DESIGN CHOICE log 134] -/
def PeerFor.bulk : PeerFor → Bool
  | .copyRead _ => true
  | .copyWrite _ => true
  | .copyTimeline _ _ => true
  | .delivery _ _ => true
  | .message _ _ => true
  | .slotWrite _ => true
  | .load _ _ _ _ _ => false
  | .store _ _ _ _ => false
  | .atomic _ _ _ _ _ => false
  | .banks _ => false
  | .host _ => false

/-- Flits leave a port: their key is fresh for at least every 2^32 of them (R347). [MARK DESIGN CHOICE log 134] -/
def sendFlits (ports : List Port) (p : Option Nat) (key n : Nat) : List Port :=
  match p with
  | none => ports
  | some p => lmod ports p (fun x => if x.flits + n ≤ 2 ^ 32 then { x with flits := x.flits + n } else { x with keys := key, flits := n })

/-- A request to a peer, carrying n bytes, leaves by its line's port; it is outstanding until it is answered (R344, R457).
[MARK DESIGN CHOICE log 134] -/
def sendRequest (s : State) (device addr ctx : Nat) (pc : W64) (who : PeerFor) (n : Nat) (o : Nat → Out) : State :=
  let port := portOf s device addr
  { s with nextId := s.nextId + 1, outbox := s.outbox ++ [o s.nextId]
           ports := sendFlits s.ports port s.nextId (Config.flitsOf n)
           peerReqs := s.peerReqs ++ [{ id := s.nextId, device := device, addr := addr, since := s.cycle.toNat, who := who, ctx := ctx, pc := pc, port := port, bulk := who.bulk, size := n }] }

/-- An answer to a peer's request, carrying n bytes, leaves by the port of the line it is about (R344, R347).
[MARK DESIGN CHOICE log 134] -/
def sendAnswer (s : State) (device addr n : Nat) (o : Out) : State :=
  { s with nextId := s.nextId + 1, outbox := s.outbox ++ [o], ports := sendFlits s.ports (portOf s device addr) s.nextId (Config.flitsOf n) }

/-- A message to a mailbox of the context of the same number on a peer (R307, R457). [MARK DESIGN CHOICE log 33] -/
def sendPeerMessage (s : State) (device ctx mb : Nat) (kind : PeerMsg) (bytes : List Byte)
    (tl : Option Completion) (pc : W64) : State :=
  sendRequest s device 0 ctx pc (.message s.nextId tl) bytes.length (fun id => .peerMessage id device ctx mb kind bytes)

/-- The bytes of a residency or refusal report (R316, R389). -/
def reportBytes (s : State) (kind allOrCode placed slot ctx mb : Nat) (packet : List Byte) : List Byte :=
  bytesOf 4 kind ++ bytesOf 4 s.deviceId.toNat ++ bytesOf 4 (ctx * 2 ^ 16 + mb) ++ bytesOf 4 slot ++ bytesOf 4 placed ++
  bytesOf 4 allOrCode ++ bytesOf 40 0 ++ packet ++ bytesOf 128 0

/-- A report to the reply mailbox of a LAUNCH, on this device or on a peer. -/
def sendReport (s : State) (kind : MsgKind) (reply : Nat × Nat × Nat) (bytes : List Byte) : State :=
  if reply.1 = s.deviceId.toNat then sendLocal s (plainMsg s kind reply.2.1 reply.2.2 bytes)
  else sendPeerMessage s reply.1 reply.2.1 reply.2.2 .report bytes none 0

/-- The refusal report of a LAUNCH with a reply mailbox (R389); `slot` none when no slot was taken. [MARK DEDUCED log 100] -/
def sendRefusal (s : State) (reply : Option (Nat × Nat × Nat)) (code placed : Nat) (slot : Option Nat) (ctx mb : Nat)
    (packet : List Byte) : State :=
  match reply with
  | none => s
  | some r => sendReport s .refusal r (reportBytes s 4 code placed (slot.getD 0xFFFFFFFF) ctx mb packet)

/-! ### Abort of a team and its grid (R379, R380) -/

/-- A gang whose wait is over; the count of the starved-lane watchdog restarts (R378). [MARK DEDUCED log 124] -/
def woken (now : Nat) (q : Gang) : Gang := { q with wait := none, spinSince := now, seen := [] }

/-- A group that stops: its waits are left; the results still to return will be discarded (R379). -/
def stopGroup (gr : Group) : Group := { gr with gangs := gr.gangs.map (fun q => { q with wait := none }) }

/-- Touches that team t has made or queued are withdrawn (R379, R439). -/
def withdraw (s : State) (t : Nat) : State :=
  let keep := fun (u : Touch) => match u.req with | .gang t' _ _ => t' != t | .banks t' => t' != t | _ => true
  { s with touches := s.touches.filter keep,
           ctxs := s.ctxs.map (fun e => (e.1, { e.2 with blocks := e.2.blocks.map (fun b => (b.1, { b.2 with queue := b.2.queue.filter keep })) })) }

/-- A generator's attempt that its team's abort ends: with the cause given, unless it has ended (R430). -/
def endAttempt (s : State) (c block grid : Nat) (cause : Nat × W32 × Bool) : State :=
  modCtx s c (fun q => { q with blocks := mmod q.blocks block (fun b =>
    if b.filled ∨ b.ended ≠ none ∨ b.grid ≠ some grid then b else { b with ended := some cause }) })

/-- A team whose abort has begun, or awaits the end of its move (R379, R439). -/
def Team.ending (tm : Team) : Bool := tm.phase == .aborting || tm.doom.isSome

/-- Steps 1 to 5 of R379 on one team; `cause` is what ends a generator's attempt. A team that is being moved is aborted once it is
saved (R439). -/
def abortTeam (s : State) (t : Nat) (cause : Nat × W32 × Bool) : State :=
  match teamOf s t with
  | none => s
  | some tm =>
    if tm.ending then s
    else if tm.phase = .moving then modTeam s t (fun tm => { tm with doom := some cause })
    else
    let s := modTeam s t (fun tm => { tm with phase := .aborting, groups := tm.groups.map stopGroup, savedJobs := [], bankTouch := none })
    let s := modCore s tm.core (fun k => { k with jobs := k.jobs.filter (fun j => j.team != t) })
    let s := withdraw s t
    let s := { s with saved := s.saved.filter (fun u => u != t) }
    match tm.gen with
    | some g => endAttempt s tm.ctx g.block tm.grid cause
    | none => s

/-- The teams of a grid that are resident or saved. -/
def gridTeams (s : State) (gid : Nat) : List Nat := (s.teams.filter (fun e => e.2.grid == gid)).map Prod.fst

/-- R380: the abort of team t, which faulted with (class, code), and of its grid; 7.6 follows the team's record. -/
def abortNow (s : State) (t : Nat) (cls code : Nat) (cause : Nat × W32 × Bool) : State :=
  match teamOf s t with
  | none => s
  | some tm =>
    match mget s.grids tm.grid with
    | none => abortTeam s t cause
    | some gd =>
      let s := (gridTeams s tm.grid).foldl (fun s u => abortTeam s u (if u = t then cause else (3, BitVec.ofNat 32 (cls * 2 ^ 28 + code), true))) s
      if gd.aborted then s else
      let s := modGrid s tm.grid (fun gd => { gd with aborted := true })
      let s := { s with gridQueue := s.gridQueue.filter (fun g => g != tm.grid) }
      let s := if gd.reported then s else sendRefusal s gd.reply (if cls = 7 ∧ code = 11 then 11 else 6) gd.next (some gd.slot) gd.ctx gd.mb gd.packet
      postRecord s tm.ctx { cls := 7, code := 6, x := tm.x, y := tm.y, z := tm.z, core := tm.core, detail := some (BitVec.ofNat 32 (gd.total - gd.retired - 1)) }

/-- That abort, at once or, while several gangs issue, at the end of their cycle (R394).
[MARKS DEDUCED log 48, DESIGN CHOICE log 144] -/
def abortGrid (s : State) (t : Nat) (cls code : Nat) (cause : Nat × W32 × Bool) : State :=
  match s.putOff with
  | some l => { s with putOff := some (l ++ [{ team := t, cls := cls, code := code, cause := cause }]) }
  | none => abortNow s t cls code cause

/-- A team's place in the order of its grid (R318). -/
def gridPlace (s : State) (t : Nat) : Nat :=
  match teamOf s t with
  | some tm => tm.x + 2 ^ 32 * (tm.y + 2 ^ 16 * tm.z)
  | none => 0

/-- The aborts that a cycle of several issues has put off, of one grid the team with the lower place first (R394).
[MARK DESIGN CHOICE log 144] -/
def takeAborts (s : State) : State :=
  let l := s.putOff.getD []
  ((List.range l.length).foldl (fun (acc : State × List PutOff) _ =>
    match acc.2 with
    | [] => acc
    | p :: r =>
      let low := r.foldl (fun b x => if gridPlace s x.team < gridPlace s b.team then x else b) p
      (abortNow acc.1 low.team low.cls low.code low.cause, acc.2.erase low)) ({ s with putOff := none }, l)).1

/-- Records of conditions met at one time, then the aborts of the teams concerned, in grid order, and of their grids (R372, R380). A
team already aborting records nothing, but for the errors that return to accesses it had issued: `late` (R394).
[MARKS DEDUCED log 131, DESIGN CHOICE log 144] -/
def faultTeams (s : State) (late : Bool) (fs : List (Nat × Nat × RecIn)) : State :=
  let ends := fun (t : Nat) => match teamOf s t with | some tm => tm.ending | none => true
  let live := fs.filter (fun f => !ends f.1)
  let s := (fs.filter (fun f => late || !ends f.1)).foldl (fun s f => match teamOf s f.1 with | some tm => postRecord s tm.ctx (teamRecord tm f.2.1 f.2.2) | none => s) s
  let ts := (live.map Prod.fst).eraseDups
  let first := fun (rest : List Nat) => rest.foldl (fun (b t : Nat) => if gridPlace s t < gridPlace s b then t else b) (rest.headD 0)
  ((List.range ts.length).foldl (fun (acc : State × List Nat) _ =>
    let t := first acc.2
    let f := match live.find? (fun f => f.1 == t) with | some f => f.2.2 | none => { cls := 0, code := 0 }
    (abortGrid acc.1 t f.cls f.code (3, BitVec.ofNat 32 (f.cls * 2 ^ 28 + f.code), true), acc.2.filter (fun u => u != t))) (s, ts)).1

/-- A record for a team, then its abort and its grid's (R356, R379, R380). A team already aborting records nothing (R394).
[MARK DESIGN CHOICE log 144] -/
def faultTeam (s : State) (t g : Nat) (r : RecIn) : State :=
  match teamOf s t with
  | none => s
  | some tm =>
    if tm.ending then s else
    let s := postRecord s tm.ctx (teamRecord tm g r)
    let cause := if r.cls = 4 then (r.code, r.detail.getD 0, false) else (3, BitVec.ofNat 32 (r.cls * 2 ^ 28 + r.code), true)
    abortGrid s t r.cls r.code cause

/-! ### The context handler (R358, R359) -/

/-- A program counter holds a virtual address: its bits [63:57] are 0 (R88). [MARK DESIGN CHOICE log 149] -/
def pcBits (a : W64) : W64 := (a.extractLsb' 0 57).setWidth 64

/-- TAKING AN EXCEPTION: entry to the context handler for a class-3 fault of gang k of group g of team t (R358). -/
def enterHandler (s : State) (t g k : Nat) (hentry pc : W64) (issueKind : Bool) (f : Flt) : State :=
  modGroup s t g (fun gr =>
    match gangAt gr k with
    | none => gr
    | some q =>
      let hentry := pcBits hentry
      let ms := membersOf q.members
      let saved := ms.map (fun i => let x := sliceOf gr i
        { slice := i, exec := x.exec, vcc := x.vcc, scc := x.scc, fmt := x.fmt, rentry := x.rentry : Saved })
      let regs := [(0, Word.lo f.addr), (1, Word.hi f.addr), (2, BitVec.ofNat 32 f.cls), (3, BitVec.ofNat 32 f.code),
                   (4, f.mask), (6, Word.lo pc), (7, Word.hi pc)]
      let ss := ms.foldl (fun m i => regs.foldl (fun m r => mputD m 0 (64 * i + r.1) r.2) m) ([] : Map W32)
      let vs := f.acc.foldl (fun m (a : Nat × W64 × Nat) =>
        let m := mputD m 0 a.1 (Word.lo a.2.1)
        let m := mputD m 0 (32 + a.1) (Word.hi a.2.1)
        mputD m 0 (64 + a.1) (BitVec.ofNat 32 a.2.2)) ([] : Map W32)
      let gr := modMembers gr q.members (fun i x =>
        { x with exec := nibble f.mask i, vcc := 0, scc := false, fmt := 0, rentry := hentry, pc := hentry, barPass := 0, replay := 0 })
      let gr := modGang gr k (fun q => { q with wait := none })
      { gr with handler := some { gang := k, saved := saved, pc := pc, mask := f.mask, issueKind := issueKind, code := f.code, addr := f.addr, detail := f.detail.getD 0, ss := ss, vs := vs } })

/-- THE RETURN FROM THE HANDLER: the saved state restored under fmask, at the faulting instruction; slices that the handler has
split stay apart, and those that it has ended stay so (R32, R38, R301, R359). [MARK DEDUCED log 49] -/
def leaveHandler (now : Nat) (gr : Group) (h : Handler) : Group :=
  let ms := BitVec.ofNat 8 (maskNat (fun i => h.saved.any (fun x => x.slice == i)) 8)
  let gr := { gr with handler := none }
  let gr := h.saved.foldl (fun gr v => { gr with slices := lmod gr.slices v.slice (fun x =>
    { x with exec := v.exec &&& ~~~(nibble gr.fmask v.slice), vcc := v.vcc, scc := v.scc, fmt := v.fmt, rentry := v.rentry, pc := h.pc, barPass := 0, replay := 0 }) }) gr
  { gr with gangs := gr.gangs.map (fun q => if (q.members &&& ms) != 0 && q.wait.isSome then woken now q else q) }

/-- A synchronous condition that stops the instruction: the handler for class 3 where the context has one and the gang is not
in it, otherwise the record and the abort (R356, R359). [MARK DESIGN CHOICE log 47] -/
def deliver (s : State) (t g k : Nat) (pc : W64) (issueKind : Bool) (f : Flt) : State :=
  match teamOf s t with
  | none => s
  | some tm =>
    match tm.groups[g]? with
    | none => s
    | some gr =>
      let inH := gr.handler != none
      let hentry := match ctxOf s tm.ctx with | some q => q.hentry | none => 0
      if f.cls = 3 ∧ hentry ≠ 0 ∧ inH = false then enterHandler s t g k hentry pc issueKind f
      else
        let q := gangAt gr k
        let detail := if inH then some ((f.detail.getD (match ctxOf s tm.ctx with | some q => Config.freeDetail q.recSeq.toNat | none => 0)) ||| 0x80000000) else f.detail
        faultTeam s t g { cls := f.cls, code := f.code, mask := f.mask, addr := f.addr, detail := detail, pc := pc, rentry := (sliceOf gr k).rentry, members := (match q with | some q => q.members | none => 0) }

end Sys2Proof.Machine
end

