-- ==== Sys2Proof/Machine/Operands.lean ====
section
/-! DEFINITION. The issue of one instruction by one gang: its operands (R150 to R154, R171, R188, R213), the tests every
instruction shares (R352, R354), waiting (R50), and moving on to the next instruction. -/

namespace Sys2Proof.Machine

/-- What the issuing gang and its instruction are, as the instruction issues. -/
structure Iss where
  t : Nat
  g : Nat
  k : Nat
  tm : Team
  gr : Group
  q : Gang
  i : Instr
  o : Operands
  sg : Sig
  pc : W64
  /-- active(exec): the lanes of the gang that are in exec and not in fmask -/
  act : W32
  deriving DecidableEq, Repr

/-- The gang that `State.cur` names, about to issue `i`. -/
def issOf (s : State) (i : Instr) (o : Operands) : Option Iss :=
  match s.cur, sig i with
  | some c, some sg =>
    match teamOf s c.t with
    | some tm =>
      match tm.groups[c.g]? with
      | some gr =>
        match gangAt gr c.k with
        | some q => some { t := c.t, g := c.g, k := c.k, tm := tm, gr := gr, q := q, i := i, o := o, sg := sg,
                           pc := (sliceOf gr c.k).pc, act := gangExec gr q.members }
        | none => none
      | none => none
    | none => none
  | _, _ => none

/-! ### Literals, constants, specials -/

/-- Operand types (R154). -/
inductive Ty where
  | i32 | f32 | f16x2 | bf16x2 | i16x2 | i8x4
  deriving DecidableEq, Repr

/-- Value 0x400 of the long forms names the long literal (R153). -/
def isLong (o : Operands) (n : BitVec 11) : Bool := o.form != .f64 && n == 0x400#11

/-- A literal read as an operand type (R154). -/
def litVal (o : Operands) (ty : Ty) (n : BitVec 11) : W32 :=
  if isLong o n then o.lit.setWidth 32
  else
    let k := inlineLit n
    match ty with
    | .i32 => BitVec.ofInt 32 k
    | .f32 => f32 (.ofInt k)
    | .f16x2 => let e := encodeF fmtF16 .rne (.ofInt k); BitVec.ofNat 32 (e + e * 2 ^ 16)
    | .bf16x2 => let e := encodeF fmtBF16 .rne (.ofInt k); BitVec.ofNat 32 (e + e * 2 ^ 16)
    | .i16x2 => let e := lowBits 16 k; BitVec.ofNat 32 (e + e * 2 ^ 16)
    | .i8x4 => let e := lowBits 8 k; BitVec.ofNat 32 (e * (1 + 2 ^ 8 + 2 ^ 16 + 2 ^ 24))

/-- A literal read as a 64-bit operand (R153, R154). -/
def litVal64 (o : Operands) (n : BitVec 11) : W64 :=
  if isLong o n then (match o.form with | .f128l => o.lit | _ => (o.lit.setWidth 32).signExtend 64)
  else BitVec.ofInt 64 (inlineLit n)

/-- A dword of a constant bank; the source value is bank and dword (R150). -/
def constW (tm : Team) (n : Nat) : W32 := mgetD tm.banks 0 n

/-- A special register as slice i of the gang reads it (R151). -/
def special (s : State) (iss : Iss) (i n : Nat) : W32 :=
  match n with
  | 64 => gangExec iss.gr iss.q.members
  | 65 => gangVcc iss.gr iss.q.members
  | 66 => if (sliceOf iss.gr i).scc then 1 else 0
  | 67 => (sliceOf iss.gr i).fmt
  | 68 => Word.lo iss.gr.lastProgress
  | 69 => iss.gr.fmask
  | 70 => Word.lo s.cycle
  | 71 => Word.hi s.cycle
  | 72 => Word.lo (sliceOf iss.gr i).rentry
  | _ => 0

/-- A scalar, constant or literal source as slice i reads it, 32 bits (R171). [MARK DEDUCED log 46] -/
def scal32 (s : State) (iss : Iss) (i : Nat) (a : Src) : W32 :=
  match a with
  | .vec _ => 0
  | .scal n => if n.toNat < 64 then sreg iss.gr i n.toNat else special s iss i n.toNat
  | .const n => constW iss.tm n.toNat
  | .lit n => litVal iss.o .i32 n

/-- The same, 64 bits (R152, R153). [MARK DEDUCED log 41] -/
def scal64 (s : State) (iss : Iss) (i : Nat) (a : Src) : W64 :=
  match a with
  | .vec _ => 0
  | .scal n =>
    if n.toNat < 64 then Word.join (sreg iss.gr i n.toNat) (sreg iss.gr i (n.toNat + 1))
    else if n.toNat = 70 then s.cycle
    else if n.toNat = 72 then (sliceOf iss.gr i).rentry
    else (special s iss i n.toNat).setWidth 64
  | .const n => Word.join (constW iss.tm n.toNat) (constW iss.tm (n.toNat + 1))
  | .lit n => litVal64 iss.o n

/-- Dword j of a record or quad in registers or a constant bank (R152). [MARK DEDUCED log 41] -/
def quadW32 (s : State) (iss : Iss) (i : Nat) (a : Src) (j : Nat) : W32 :=
  match a with
  | .scal n => if n.toNat < 64 then sreg iss.gr i (n.toNat + j) else special s iss i n.toNat
  | .const n => constW iss.tm (n.toNat + j)
  | .lit n => litVal iss.o .i32 n
  | .vec _ => 0

/-- A source as lane l reads it, with an operand type for literals (R154, R188). -/
def lane32 (s : State) (iss : Iss) (ty : Ty) (l : Nat) (a : Src) : W32 :=
  match a with
  | .vec r => vreg iss.gr r.toNat l
  | .lit n => litVal iss.o ty n
  | a => scal32 s iss (l / 4) a

/-- Word j of a data operand as lane l reads it, with an operand type for literals (R154, R215). [MARK DEDUCED log 41] -/
def laneWord (s : State) (iss : Iss) (ty : Ty) (l j words : Nat) (a : Src) : W32 :=
  match a with
  | .vec r => vreg iss.gr (r.toNat + j) l
  | .lit n => if words = 2 then (if j = 0 then Word.lo (litVal64 iss.o n) else Word.hi (litVal64 iss.o n)) else litVal iss.o ty n
  | .scal n =>
    if n.toNat < 64 then sreg iss.gr (l / 4) (n.toNat + j)
    else if words = 2 then (if j = 0 then Word.lo (scal64 s iss (l / 4) a) else Word.hi (scal64 s iss (l / 4) a))
    else special s iss (l / 4) n.toNat
  | .const n => constW iss.tm (n.toNat + j)

/-- A class-0 condition on the active lanes. [MARK DEDUCED log 44] -/
def flt0 (iss : Iss) (code : Nat) : Flt := { cls := 0, code := code, mask := iss.act }

/-- The place of a class-0 code in the order of R354. -/
def rank (f : Flt) : Nat := if f.cls = 0 then (([3, 4, 1, 2, 5, 12, 7, 8, 9, 10, 6, 13, 16, 17, 18, 11, 14, 15, 19] : List Nat).takeWhile (fun c => c != f.code)).length else 32

/-- The condition that R354 takes first; of equal ones the first listed. -/
def firstFlt (fs : List (Option Flt)) : Option Flt :=
  fs.foldl (fun best f => match best, f with
    | some b, some x => if rank x < rank b then some x else some b
    | none, f => f
    | b, none => b) none

/-- The condition a test meets. -/
def fltOf {α : Type} (e : Except Flt α) : Option Flt :=
  match e with
  | .error f => some f
  | .ok _ => none

/-- A class-0 condition that holds. -/
def fltIf (iss : Iss) (b : Bool) (code : Nat) : Option Flt := if b then some (flt0 iss code) else none

/-- A uniform operand: the value of the lowest active lane, none when it is in a vector register and exec is zero, 0.11 when
active lanes disagree (R39). -/
def uniform32 (s : State) (iss : Iss) (a : Src) : Except Flt (Option W32) :=
  match a with
  | .vec r =>
    match lowest iss.act with
    | none => .ok none
    | some l0 =>
      let v := vreg iss.gr r.toNat l0
      let bad := maskOf (fun l => laneIn iss.act l && vreg iss.gr r.toNat l != v)
      if bad = 0 then .ok (some v) else .error { cls := 0, code := 11, mask := bad }
  | a => .ok (some (scal32 s iss iss.k a))

/-! ### Tests shared by every instruction (R352, R354) -/

/-- The vector register budget: the role's, or the shadow set's eight registers. -/
def budgetOf (iss : Iss) : Nat := if shadowed iss.gr iss.k then 8 else iss.gr.budget

/-- 0.7 for a source field. -/
def srcKindOk (o : Operands) (r : Role) (a : Src) : Bool :=
  match r with
  | .no => true
  | .src v s c l w _ sp =>
    match a with
    | .vec _ => v
    | .const _ => c
    | .lit n => l && !((o.form == .f96c || o.form == .f128c) && n == 0x400#11)
    | .scal n =>
      let n := n.toNat
      s && (n < 64 || (w == 1 && n ≤ 72) || (w == 2 && sp && (n == 70 || n == 72)))

/-- 0.9 for a source field. -/
def srcAligned (r : Role) (a : Src) : Bool :=
  match r with
  | .no => true
  | .src _ _ _ _ w _ _ =>
    match a with
    | .scal n => n.toNat ≥ 64 || n.toNat % w == 0
    | .const n => n.toNat % w == 0
    | _ => true

/-- 0.10 for a source field. -/
def srcInBudget (iss : Iss) (r : Role) (a : Src) : Bool :=
  match r with
  | .no => true
  | .src _ _ _ _ w vn _ =>
    match a with
    | .vec n => n.toNat + vn ≤ budgetOf iss
    | .scal n => !(shadowed iss.gr iss.k) || n.toNat ≥ 64 || n.toNat + w ≤ 16
    | _ => true

/-- Number of a scalar destination. -/
def dstNum (d : Dst) : Nat :=
  match d with
  | .vec n => n.toNat
  | .scal n => n.toNat
def dstScalar (d : Dst) : Bool :=
  match d with
  | .vec _ => false
  | .scal _ => true

/-- 0.7 for the destination; read-only specials are left to 0.8 where the instruction takes any scalar destination.
[MARKS DEDUCED log 43, DEDUCED log 147] -/
def dstKindOk (r : DRole) (d : Dst) : Bool :=
  let n := dstNum d
  match r with
  | .no => true
  | .vec _ => !dstScalar d
  | .sreg => dstScalar d && n ≤ 72
  | .mask => dstScalar d && n ≤ 65
  | .s63 => dstScalar d && n < 64
  | .pair ro => dstScalar d && (n < 64 || (ro && 67 ≤ n && n ≤ 72))
  | .even => dstScalar d
  | .quad => dstScalar d && n < 64
  | .sized _ => dstScalar d && n < 64
  | .words w => dstScalar d && (n < 64 || (w == 1 && n ≤ 72))
  | .vecOrS => !dstScalar d || n < 64

/-- 0.8: a read-only special as destination (R151). [MARKS DEDUCED log 43, DEDUCED log 147] -/
def dstWritable (r : DRole) (d : Dst) : Bool :=
  match r with
  | .sreg => dstNum d ≤ 66
  | .pair _ => dstNum d ≤ 66
  | .words _ => dstNum d ≤ 66
  | _ => true

/-- Words of a scalar destination. -/
def dstWords (r : DRole) : Nat :=
  match r with
  | .pair _ => 2
  | .even => 2
  | .quad => 4
  | .sized n => n
  | .words n => n
  | _ => 1

/-- 0.9 for the destination. -/
def dstAligned (r : DRole) (d : Dst) : Bool := !dstScalar d || (dstNum d ≥ 64 && r != .even) || (dstNum d < 64 && dstNum d % dstWords r == 0)

def dstInBudget (iss : Iss) (r : DRole) (d : Dst) : Bool :=
  match r with
  | .no => true
  | r =>
    if dstScalar d then !(shadowed iss.gr iss.k) || dstNum d ≥ 64 || dstNum d + dstWords r ≤ 16
    else dstNum d + (match r with | .vec n => n | _ => 1) ≤ budgetOf iss

/-- A group is privileged through its grid, or while it runs the handler (R293). -/
def privileged (iss : Iss) : Bool := iss.tm.priv || shadowed iss.gr iss.k

/-! ### The scoreboard (R50) -/

/-- Vector registers, scalar registers and bank dwords a source field reads. -/
def srcRegs (r : Role) (a : Src) : List Nat × List Nat × List Nat :=
  match r with
  | .no => ([], [], [])
  | .src _ _ _ _ w vn _ =>
    match a with
    | .vec n => ((List.range vn).map (fun j => n.toNat + j), [], [])
    | .scal n => ([], (List.range w).map (fun j => n.toNat + j), [])
    | .const n => ([], [], (List.range w).map (fun j => n.toNat + j))
    | .lit _ => ([], [], [])

/-- The same of the destination. -/
def dstRegs (r : DRole) (d : Dst) : List Nat × List Nat :=
  match r with
  | .no => ([], [])
  | r =>
    if dstScalar d then ([], (List.range (dstWords r)).map (fun j => dstNum d + j))
    else ((List.range (match r with | .vec n => n | _ => 1)).map (fun j => dstNum d + j), [])

/-- Vector registers an instruction may reach beyond those its roles name: the range of RVSENDG, the components of a sample,
the scale codes of VQUANT. [MARK DEDUCED log 55] -/
def furtherRegs (i : Instr) : List Nat :=
  match i with
  | .rvsendg o => (List.range 4).map (fun j => dstNum (match o.b with | .vec n => .vec n | _ => .vec 0) + j)
  | .vsample o => (List.range 4).map (fun j => dstNum o.dst + j)
  | .vsamplel o => (List.range 4).map (fun j => dstNum o.dst + j)
  | .vquant o => [dstNum o.dst + 1]
  | _ => []

/-- Bank dwords and scalar registers that a record operand reaches beyond those its role names: the dwords a selector in a vector
register names, and the second record of VSAMPLEL (R213, R229). [MARK DESIGN CHOICE log 40] -/
def furtherWords (iss : Iss) : List Nat × List Nat :=
  let n := match iss.i with | .vsamplel _ => 8 | _ => 4
  let named := fun (r : Role) (a : Src) =>
    match r, a with
    | .src true true true false 4 1 _, .vec x =>
      (([] : List Nat), match lowest iss.act with
        | some l => (List.range n).map (fun j => (vreg iss.gr x.toNat l).toNat % 2 ^ 11 + j)
        | none => [])
    | .src true true true false 4 1 _, .scal x => (((List.range n).map (fun j => x.toNat + j)), [])
    | .src true true true false 4 1 _, .const x => ([], (List.range n).map (fun j => x.toNat + j))
    | _, _ => ([], [])
  let a := named iss.sg.a iss.o.a
  let b := named iss.sg.b iss.o.b
  (a.1 ++ b.1, a.2 ++ b.2)

/-- The bank dwords that CBLD writes: those of an earlier CBLD of the gang among them have come before it reads its own (R223). -/
def loadedWords (iss : Iss) : List Nat :=
  match iss.i with
  | .cbld o =>
    let n := if o.form != .f96c then 4 else match o.c with
      | .lit k => (litVal o .i32 k).toNat
      | .const k => (constW iss.tm k.toNat).toNat
      | .scal k => if k.toNat < 64 then (sreg iss.gr iss.k k.toNat).toNat else 256
      | .vec _ => 256
    (List.range (min n 256)).map (fun i => 256 * mf o 62 60 + mf o 59 52 + i)
  | _ => []

/-- The special registers that an instruction reads without naming them (R151, R406): exec, vcc, scc and fmt.
[MARK DESIGN CHOICE log 40] -/
def impliedSpecials (g : Sig) : List Nat :=
  (if g.kind == .lane || ([0x003, 0x004, 0x005, 0x006, 0x087, 0x089, 0x08A] : List Nat).contains g.op then [64] else []) ++
  (if ([0x005, 0x006, 0x0D4] : List Nat).contains g.op then [65] else []) ++
  (if g.op = 0x002 then [66] else []) ++
  (if ([0x148, 0x14B, 0x14C, 0x14E, 0x1C3, 0x300] : List Nat).contains g.op then [67] else [])

/-- How a scalar word of a result is named: s0 to s63 of slice i at 64 i + number; exec, vcc and scc, numbers 64 to 66, from 512 on.
[MARK DEDUCED log 147] -/
def wordKey (i n : Nat) : Nat := if n < 64 then 64 * i + n else 8 * n + i
def keySlice (k : Nat) : Nat := if k < 512 then k / 64 else k % 8
def keyNum (k : Nat) : Nat := if k < 512 then k % 64 else k / 8

/-- The slices that a scalar result for slice i reaches: those that took its registers at a merger since it was issued, and not
itself where it took another's (R37). -/
def mergedSlices (ms : List (Nat × BitVec 8)) (i : Nat) : BitVec 8 :=
  ms.foldl (fun set m => if set.getLsbD m.1 then set ||| m.2 else set &&& ~~~m.2) (BitVec.twoPow 8 i)

/-- Does the instruction name a register or bank dword that a result of the gang has yet to reach? -/
def pendingReg (iss : Iss) : Bool :=
  if iss.gr.returns = [] then false else
  let o := iss.o
  let a := srcRegs iss.sg.a o.a
  let b := srcRegs iss.sg.b o.b
  let c := srcRegs iss.sg.c o.c
  let d := srcRegs iss.sg.d o.d
  let e := dstRegs iss.sg.dst o.dst
  let vs := a.1 ++ b.1 ++ c.1 ++ d.1 ++ e.1 ++ furtherRegs iss.i
  let m := furtherWords iss
  let ss := a.2.1 ++ b.2.1 ++ c.2.1 ++ d.2.1 ++ e.2 ++ m.1
  let cs := a.2.2 ++ b.2.2 ++ c.2.2 ++ d.2.2 ++ m.2 ++ loadedWords iss
  iss.gr.returns.any (fun r =>
    r.shadow == shadowed iss.gr iss.k &&
    (((r.members &&& iss.q.members) != 0 && (r.vw.any (fun w => vs.contains (w.1 / 32)) || r.cw.any (fun w => cs.contains w.1))) ||
     r.sw.any (fun w => ss.contains (keyNum w.1) && (mergedSlices r.merges (keySlice w.1) &&& iss.q.members) != 0) ||
     r.sw.any (fun w => (impliedSpecials iss.sg).contains (keyNum w.1) && iss.q.members.getLsbD (keySlice w.1))))

/-- Is the instruction an access or a synchronisation, which an acquire of the group not yet performed holds back (R127)? VPREF
takes no place in any order (R218); LDREC, SATRD, COMMIT and MQUERY access no memory and wait for nothing (R219, R241, R266, R268).
[MARK DEDUCED log 19] -/
def heldByAcquire (iss : Iss) : Bool :=
  iss.gr.acqs != [] && ((448 ≤ iss.sg.op && !([0x1C6, 0x1C7, 0x2CA, 0x301, 0x303] : List Nat).contains iss.sg.op) || iss.sg.op == 0x010)

/-- Has another group of the core an acquire beyond the core not yet performed, earlier in the core store order than a load or an atomic
would be (R128)? [MARK DEDUCED log 19] -/
def heldByMate (s : State) (iss : Iss) : Bool :=
  ([0x1C0, 0x1C2, 0x1C4, 0x209, 0x240, 0x242] : List Nat).contains iss.sg.op &&
  s.teams.any (fun e => e.2.core == iss.tm.core && e.2.groups.any (fun gr => gr.acqs.any (fun a => decide (2 ≤ a.2))))

/-! ### fmt (R56, R57) -/

/-- The fmt of one slice, which its lanes read (R57, R67). -/
def fmtAt (iss : Iss) (i : Nat) : W32 := (sliceOf iss.gr i).fmt
/-- The fmt an issue-kind instruction reads: its gang's (R57). [MARK DEDUCED log 46] -/
def fmtOf (iss : Iss) : W32 := fmtAt iss iss.k
/-- Does the fmt of some member slice pass the test? -/
def anyFmt (iss : Iss) (p : W32 → Bool) : Bool := (membersOf iss.q.members).any (fun i => p (fmtAt iss i))
/-- Its output and A formats (R56). -/
def ofmtOf (fmt : W32) : Nat := Word.field fmt.toNat 16 12
def afmtOf (fmt : W32) : Nat := Word.field fmt.toNat 4 0

/-! ### Uncorrectable on-core words (R406) -/

/-- Index of a word within its structure: group and register word (a vector's lane at 32 r + lane, a slice's scalar or special number at
128 i + number), or bank dword. -/
def eccIndex (g n : Nat) : Nat := g * 65536 + n

/-- The lanes of registers that RVSENDG reads, whatever exec holds: those of its member slices (R286).
[MARK DESIGN CHOICE log 40] -/
def sentWords (s : State) (iss : Iss) : List Nat :=
  match iss.i with
  | .rvsendg o =>
    let first := match o.b with | .vec r => r.toNat | _ => 0
    ((List.range (min 128 ((scal32 s iss iss.k o.c).toNat / 4))).filter (fun j => iss.q.members.getLsbD (j % 32 / 4))).map (fun j => 32 * (first + j / 32) + j % 32)
  | _ => []

/-- The lane of source A that a lane exchange reads for lane l, where source B holds b (R209). -/
def exchangeLane (i : Instr) (l b : Nat) : Option Nat :=
  match i with
  | .vlane _ => some (4 * (l / 4) + b % 4)
  | .vbcast _ => some (b % 32)
  | .vshuf _ => some (b % 32)
  | .vrot _ => some ((l + b % 32) % 32)
  | .vswz _ => some ((l ^^^ (b % 32)) % 32)
  | _ => none

/-- The lanes of source A that an instruction reads: those a lane exchange or VREADL picks, active or not, and otherwise the active ones
(R190, R209). [MARK DESIGN CHOICE log 40] -/
def readLanes (s : State) (iss : Iss) : List Nat :=
  match iss.i with
  | .vreadl o => (membersOf iss.q.members).map (fun i => (scal32 s iss i o.b).toNat % 32)
  | i => (lanes iss.act).map (fun l => (exchangeLane i l (lane32 s iss .i32 l iss.o.b).toNat).getD l)

/-- The lanes VWRITEL writes: lane b, read as the lane's own slice holds it, of a member slice, active or not, unless it is set in fmask
(R154, R211). [MARK DEDUCED log 46] -/
def writtenLanes (s : State) (iss : Iss) (b : Src) : W32 :=
  maskOf (fun l => iss.q.members.getLsbD (l / 4) && !laneIn iss.gr.fmask l && (scal32 s iss (l / 4) b).toNat % 32 == l)

/-- The damaged register or bank words an instruction reads: structure 1, 2 or 5, or 6 in the handler.
[MARK DESIGN CHOICE log 40] -/
def badSource (s : State) (iss : Iss) : Option Nat :=
  if iss.tm.bad = [] then none else
  let o := iss.o
  let a := srcRegs iss.sg.a o.a
  let rs := [srcRegs iss.sg.b o.b, srcRegs iss.sg.c o.c, srcRegs iss.sg.d o.d]
  let ss := (a :: rs).flatMap (fun r => r.2.1) ++ (furtherWords iss).1 ++ impliedSpecials iss.sg
  let cs := (a :: rs).flatMap (fun r => r.2.2) ++ (furtherWords iss).2
  let sent := sentWords s iss
  let sh := shadowed iss.gr iss.k
  let vr := if sent = [] then a.1.flatMap (fun r => (readLanes s iss).map (fun l => 32 * r + l)) ++ (rs.flatMap (fun r => r.1)).flatMap (fun r => (lanes iss.act).map (fun l => 32 * r + l)) else sent
  if vr.any (fun x => iss.tm.bad.contains (if sh then 6 else 1, eccIndex iss.g x)) then some (if sh then 6 else 1)
  else if ss.any (fun n => (membersOf iss.q.members).any (fun i => iss.tm.bad.contains (if sh then 6 else 2, eccIndex iss.g (128 * i + n)))) then some (if sh then 6 else 2)
  else if cs.any (fun n => iss.tm.bad.contains (5, n)) then some 5
  else none

/-- The lanes of vector destination r that an instruction writes: the second register of VQUANT takes a scale code only under an MX
format (R205). [MARK DESIGN CHOICE log 40] -/
def destLanes (s : State) (iss : Iss) (r : Nat) : W32 :=
  match iss.i with
  | .vwritel o => writtenLanes s iss o.b
  | .vquant o => if r = dstNum o.dst then iss.act else maskOf (fun l => laneIn iss.act l && isMx (ofmtOf (fmtAt iss (l / 4))))
  | _ => iss.act

/-- A write of whole words replaces the damaged ones of the destination. [MARK DESIGN CHOICE log 40] -/
def healDest (s : State) (iss : Iss) : State :=
  if iss.tm.bad = [] then s else
  let e := dstRegs iss.sg.dst iss.o.dst
  let sh := shadowed iss.gr iss.k
  let vs := e.1 ++ (match iss.i with | .vquant _ => furtherRegs iss.i | _ => [])
  let ss := e.2 ++ (match iss.i with | .sfmt _ => [67] | _ => [])
  let vk := vs.flatMap (fun r => (lanes (destLanes s iss r)).map (fun l => (if sh then 6 else 1, eccIndex iss.g (32 * r + l))))
  let sk := ss.flatMap (fun n => (membersOf iss.q.members).map (fun i => (if sh then 6 else 2, eccIndex iss.g (128 * i + n))))
  modTeam s iss.t (fun tm => { tm with bad := tm.bad.filter (fun b => !(vk ++ sk).contains b) })

/-! ### The shared conditions in the order of R354 -/

/-- A source field that can be read: none of 0.7, 0.9 and 0.10 holds of it. [MARK DEDUCED log 156] -/
def srcReadable (iss : Iss) (r : Role) (a : Src) : Bool := srcKindOk iss.o r a && srcAligned r a && srcInBudget iss r a

/-- The constant-bank selector of a record operand in a vector register, where all active lanes agree on it (R39, R213).
[MARKS DEDUCED log 156, DESIGN CHOICE log 158] -/
def recordSelector (iss : Iss) (r : Role) (a : Src) : Option Nat :=
  match a with
  | .vec x =>
    if r != recW || !srcReadable iss r a then none
    else (lowest iss.act).bind (fun l0 =>
      let v := vreg iss.gr x.toNat l0
      if (lanes iss.act).all (fun l => vreg iss.gr x.toNat l == v) then some (v.toNat % 2 ^ 11) else none)
  | _ => none

/-- A selector whose dword is not a multiple of 4: a misaligned record operand (R152, R354). [MARK DEDUCED log 156] -/
def selectorOdd (iss : Iss) : Bool :=
  [recordSelector iss iss.sg.a iss.o.a, recordSelector iss iss.sg.b iss.o.b].any (fun n => match n with | some n => n % 4 != 0 | none => false)

/-- Dword j from the start of a record operand, where it can be read (R95, R213). [MARK DEDUCED log 156] -/
def recordDword (iss : Iss) (r : Role) (a : Src) (j : Nat) : Option W32 :=
  if r != recW || !srcReadable iss r a then none
  else match a with
    | .vec _ => (recordSelector iss r a).bind (fun n => if n % 4 = 0 then some (constW iss.tm (n + j)) else none)
    | .scal n => if n.toNat + j < 64 then some (sreg iss.gr iss.k (n.toNat + j)) else none
    | .const n => if n.toNat + j < 2048 then some (constW iss.tm (n.toNat + j)) else none
    | .lit _ => none

/-- The operand that holds a mailbox target word (R231, R239). [MARK DEDUCED log 156] -/
def targetOperand (iss : Iss) : Option (Role × Src) :=
  match iss.i with
  | .mbpost o => some (iss.sg.a, o.a)
  | .launch o => some (iss.sg.a, o.a)
  | .tcopy o => if mf o 62 61 = 2 then some (iss.sg.b, o.b) else none
  | .tcopyx o => if mf o 62 61 = 2 then some (iss.sg.b, o.b) else none
  | _ => none

/-- Reserved bits of a target word (R240). -/
def targetReserved (w : W32) : Bool := w &&& 0x7C00FC00 != 0

/-- A nonzero bit in a reserved field of a word that the instruction reads as a record or a target: 0.5, which goes before 0.12 and what
follows it (R95, R240, R354, R369). An instruction that an empty exec leaves without an effect reads none (R213).
[MARK DEDUCED log 156] -/
def reservedWord (s : State) (iss : Iss) : Bool :=
  let vec := fun (a : Src) => match a with | .vec _ => true | _ => false
  let idle := iss.act == 0 && (iss.sg.kind == .lane || [(iss.sg.a, iss.o.a), (iss.sg.b, iss.o.b), (iss.sg.d, iss.o.d)].any (fun x => x.1 != no && vec x.2))
  let records := [3, 7].flatMap (fun j =>
    if j = 3 ∨ iss.sg.op = 0x282 then [recordDword iss iss.sg.a iss.o.a j, recordDword iss iss.sg.b iss.o.b j] else [])
  !idle &&
  (records.any (fun w => match w with | some w => w.extractLsb' 24 8 != 0 | none => false) ||
   (match targetOperand iss with
    | some (r, a) => srcReadable iss r a && (match uniform32 s iss a with | .ok (some w) => targetReserved w | _ => false)
    | none => false))

/-- The first shared condition an instruction meets, in R354's order: 0.5 of a word it reads, 0.12, then 0.7, 0.8, 0.9, 0.10, then 0.6. A
damaged word is tested for nothing (R406). [MARKS DEDUCED log 43, DEDUCED log 156] -/
def sharedTest (s : State) (iss : Iss) : Option Nat :=
  let o := iss.o
  let g := iss.sg
  let sound := (badSource s iss).isNone
  if sound && reservedWord s iss then some 5
  else if g.sup && !privileged iss then some 12
  else if !(srcKindOk o g.a o.a && srcKindOk o g.b o.b && srcKindOk o g.c o.c && srcKindOk o g.d o.d && dstKindOk g.dst o.dst) then some 7
  else if !dstWritable g.dst o.dst then some 8
  else if !(srcAligned g.a o.a && srcAligned g.b o.b && srcAligned g.c o.c && srcAligned g.d o.d && dstAligned g.dst o.dst) || (sound && selectorOdd iss) then some 9
  else if !(srcInBudget iss g.a o.a && srcInBudget iss g.b o.b && srcInBudget iss g.c o.c && srcInBudget iss g.d o.d
      && dstInBudget iss g.dst o.dst) then some 10
  else if g.resv then some 6
  else none

/-! ### Issue -/

/-- The detail of a record for a gang: bit 31 set in the handler (R359). -/
def handlerDetail (gr : Group) (k : Nat) (d : W32) : W32 := if shadowed gr k then d ||| 0x80000000 else d

/-- What an instruction's effect comes to: done, so that the gang moves on; done, with the program counters set by the effect;
or the gang waits and the instruction is tried again (R50). -/
inductive Eff where
  | adv (s : State)
  | stay (s : State)
  | wait (k : WaitKind) (s : State)
  deriving DecidableEq, Repr

abbrev Res := Except (Flt × State) Eff

/-- The gang waits; a wait of the same kind goes on. -/
def setWait (s : State) (t g k : Nat) (w : WaitKind) : State :=
  modGroup s t g (fun gr => modGang gr k (fun q =>
    match q.wait with
    | some x => if x.kind = w then q else { q with wait := some { kind := w, since := s.cycle.toNat, posted := false } }
    | none => { q with wait := some { kind := w, since := s.cycle.toNat, posted := false } }))

/-- The address of the next instruction in program order (R142). [MARK DESIGN CHOICE log 149] -/
def nextPc (iss : Iss) : W64 := pcBits (iss.pc + BitVec.ofNat 64 (4 * formWords iss.o.form))

/-- The gang goes on at `pc`; a region-closing instruction makes it the region entry (R40, R41, R441). -/
def moveOn (s : State) (iss : Iss) (pc : W64) : State :=
  modGroup s iss.t iss.g (fun gr =>
    let gr := modMembers gr iss.q.members (fun _ x =>
      if iss.sg.closes then { x with pc := pc, rentry := pc, barPass := 0, replay := 0 } else { x with pc := pc })
    let gr := if iss.sg.closes then { gr with allocs := if shadowed gr iss.k then gr.allocs else [], hallocs := [] } else gr
    modGang gr iss.k (fun q => { q with wait := none }))

/-- One issue of instruction `i`: the scoreboard, the shared tests, then its effect `f`. [MARK DEDUCED log 19] -/
def issued (i : Instr) (o : Operands) (s : State) (f : Iss → State → Res) : Host.Outcome State Fault Refusal :=
  match issOf s i o with
  | none => .refused .noIssuer
  | some iss =>
    if pendingReg iss || heldByAcquire iss || heldByMate s iss then .next (setWait s iss.t iss.g iss.k .retry)
    else
      match sharedTest s iss with
      | some code => .next (deliver s iss.t iss.g iss.k iss.pc true (flt0 iss code))
      | none =>
        match badSource s iss with
        | some d => .next (deliver s iss.t iss.g iss.k iss.pc true { cls := 8, code := 4, mask := iss.act, detail := some (BitVec.ofNat 32 d) })
        | none =>
        match f iss s with
        | .ok (.adv s') => .next (moveOn (healDest s' iss) iss (nextPc iss))
        | .ok (.stay s') => .next s'
        | .ok (.wait k s') => .next (setWait s' iss.t iss.g iss.k k)
        | .error (fl, s') => .next (deliver s' iss.t iss.g iss.k iss.pc (iss.sg.kind != .lane) fl)

/-- An instruction that changes nothing but its own group. -/
def groupEffect (i : Instr) (o : Operands) (s : State) (f : Iss → Except Flt Group) : Host.Outcome State Fault Refusal :=
  issued i o s (fun iss s =>
    match f iss with
    | .ok gr => .ok (.adv (modGroup s iss.t iss.g (fun _ => gr)))
    | .error fl => .error (fl, s))

/-- A test at issue. -/
def ensure (b : Bool) (f : Flt) : Except Flt Unit := if b then .ok () else .error f

/-- A test's fault with the state it leaves. -/
def orStop {α : Type} (s : State) (e : Except Flt α) : Except (Flt × State) α :=
  match e with
  | .ok a => .ok a
  | .error f => .error (f, s)

end Sys2Proof.Machine
end

