-- ==== Sys2Proof/Machine/Flags.lean ====
section
/-! DEFINITION. Flags and comparisons: scc of the scalar instructions (R183, R186), the conditions of R184 and R198, the bit
fields of R185, lane masks (R189). -/

namespace Sys2Proof.Machine

/-- Carry out of bit w - 1. -/
def carryOut {w : Nat} (a b : BitVec w) : Bool := decide (a.toNat + b.toNat ≥ 2 ^ w)
/-- Borrow: a < b unsigned. -/
def borrow {w : Nat} (a b : BitVec w) : Bool := a.ult b
/-- The result is not zero. -/
def nonZero {w : Nat} (a : BitVec w) : Bool := a != 0

/-- The condition codes 0 to 5 (R159, R184). -/
def condHolds {w : Nat} (cond : Nat) (signed : Bool) (a b : BitVec w) : Bool :=
  let lt := if signed then a.slt b else a.ult b
  match cond with
  | 0 => a == b
  | 1 => a != b
  | 2 => lt
  | 3 => lt || a == b
  | 4 => !lt && a != b
  | 5 => !lt
  | _ => false

/-- The condition codes 0 to 7 on FP32 values (R198). -/
def fcondHolds (cond : Nat) (a b : FVal) : Bool :=
  let un := a.isNan || b.isNan
  match cond with
  | 0 => !un && FVal.eq a b
  | 1 => un || !FVal.eq a b
  | 2 => !un && FVal.lt a b
  | 3 => !un && FVal.le a b
  | 4 => !un && FVal.lt b a
  | 5 => !un && FVal.le b a
  | 6 => un
  | 7 => !un
  | _ => false

/-- SBFE and VBFE (R185). -/
def bitExtract (sx : Bool) (a b c : W32) : W32 :=
  let off := b.toNat % 32
  let w := min (c.toNat % 64) (32 - off)
  let f := a.toNat / 2 ^ off % 2 ^ w
  if sx && w != 0 && Word.bit f (w - 1) then BitVec.ofInt 32 ((f : Int) - 2 ^ w) else BitVec.ofNat 32 f

/-- SBFI and VBFI (R185). -/
def bitInsert (a b c : W32) : W32 :=
  let off := c.toNat % 32
  let w := min (c.toNat / 256 % 64) (32 - off)
  let m : W32 := BitVec.ofNat 32 ((2 ^ w - 1) * 2 ^ off)
  (a &&& ~~~m) ||| ((b <<< off) &&& m)

/-- Number of leading zero bits (R183, R192). -/
def leadingZeros (a : W32) : W32 := if a = 0 then 32 else BitVec.ofNat 32 (31 - Nat.log2 a.toNat)
/-- Number of set bits. -/
def popCount (a : W32) : W32 := BitVec.ofNat 32 (lanes a).length
/-- The lowest set bit, or 0xFFFF_FFFF. -/
def firstSet (a : W32) : W32 := match lowest a with | some l => BitVec.ofNat 32 l | none => 0xFFFFFFFF
/-- Bit i moved to bit 31 - i. -/
def bitReverse (a : W32) : W32 := maskOf (fun l => laneIn a (31 - l))

def signedMin {w : Nat} (a b : BitVec w) : BitVec w := if a.slt b then a else b
def signedMax {w : Nat} (a b : BitVec w) : BitVec w := if a.slt b then b else a
def unsignedMin {w : Nat} (a b : BitVec w) : BitVec w := if a.ult b then a else b
def unsignedMax {w : Nat} (a b : BitVec w) : BitVec w := if a.ult b then b else a

/-- scc of the members written where there is a value. -/
def sccWrite (iss : Iss) (b : Nat → Option Bool) : Group :=
  modMembers iss.gr iss.q.members (fun i x => { x with scc := (b i).getD x.scc })

/-- A slice-kind result: scc where the instruction writes it, then the scalar destination, which replaces it when it is scc
(R171). -/
def sliceWrite (iss : Iss) (r : Nat → W32 × Option Bool) : Group :=
  setScalar (sccWrite iss (fun i => (r i).2)) iss.q.members (dstNum iss.o.dst) (fun i => (r i).1)

/-- A 64-bit slice-kind result in a pair (R186). -/
def sliceWrite64 (iss : Iss) (r : Nat → W64 × Option Bool) : Group :=
  let m := iss.q.members
  let n := dstNum iss.o.dst
  setScalar (setScalar (sccWrite iss (fun i => (r i).2)) m n (fun i => Word.lo (r i).1)) m (n + 1) (fun i => Word.hi (r i).1)

/-- A lane mask written to its scalar destination: exec and vcc take four bits per slice, s0 to s63 the whole mask (R189). -/
def maskWrite (iss : Iss) (m : W32) : Group := setScalar iss.gr iss.q.members (dstNum iss.o.dst) (fun _ => m)

/-- An issue-kind scalar result: the same value in every member slice (R213). [MARK DEDUCED log 46] -/
def issueWrite (iss : Iss) (gr : Group) (n : Nat) (v : W32) : Group := setScalar gr iss.q.members n (fun _ => v)
def issueWrite64 (iss : Iss) (gr : Group) (n : Nat) (v : W64) : Group :=
  issueWrite iss (issueWrite iss gr n (Word.lo v)) (n + 1) (Word.hi v)

end Sys2Proof.Machine
end

