-- ==== Sys2Proof/Machine/Control.lean ====
section
/-! DEFINITION. The control class (R174 to R182): branches, rejoining, regions, barriers, leaving, identity and formats. -/

namespace Sys2Proof.Machine

/-! ### Branches (R174, R175) -/

/-- A gang with no history. -/
def newGang (s : State) (m : BitVec 8) : Gang := { members := m, wait := none, spinSince := s.cycle.toNat, seen := [], starved := 0 }

/-- The parts of a gang by the program counter each member takes, each a mask, lowest member first. -/
def partsBy {α : Type} [DecidableEq α] (ms : List Nat) (key : Nat → α) : List (BitVec 8) :=
  (ms.filter (fun i => ms.find? (fun j => decide (key j = key i)) == some i)).map
    (fun i => BitVec.ofNat 8 (maskNat (fun j => ms.contains j && decide (key j = key i)) 8))

/-- The members go to their own program counters; each distinct one makes a gang (R175). [MARK DEDUCED log 157] -/
def takeBranch (s : State) (iss : Iss) (gr : Group) (npc : Nat → W64) : Group :=
  let m := iss.q.members
  let parts := partsBy (membersOf m) npc
  let gr := modMembers gr m (fun i x => { x with pc := npc i })
  if parts.length ≤ 1 then modGang gr iss.k (fun q => { q with wait := none })
  else { gr with gangs := gr.gangs.flatMap (fun q =>
    if q.members != 0 && leadOf q.members == iss.k then parts.map (newGang s) else [q]) }

/-- The lanes of the slices that p holds of. -/
def sliceLanes (m : BitVec 8) (p : Nat → Bool) : W32 := maskOf (fun l => m.getLsbD (l / 4) && p (l / 4))

/-- A branch: which members take it, where to, and what else it does to the group; 0.17 for a target it may not have.
[MARKS DEDUCED log 42, DEDUCED log 44, DESIGN CHOICE log 149] -/
def branch (i : Instr) (o : Operands) (s : State) (take : Iss → Nat → Bool) (target : Iss → Nat → W64) (eff : Iss → Group) :
    Host.Outcome State Fault Refusal :=
  issued i o s (fun iss s =>
    let bad := fun j => take iss j && ((target iss j).extractLsb' 0 2 != 0 || (target iss j).extractLsb' 57 7 != 0)
    let badLanes := sliceLanes iss.q.members bad
    if badLanes ≠ 0 then .error ({ cls := 0, code := 17, mask := badLanes }, s)
    else .ok (.stay (modGroup s iss.t iss.g (fun _ =>
      takeBranch s iss (eff iss) (fun j => if take iss j then target iss j else nextPc iss)))))

/-- The target of a PC-relative branch (R155). [MARK DEDUCED log 42] -/
def relTarget (iss : Iss) (a : Src) : W64 :=
  match a with
  | .lit n => iss.pc + BitVec.ofInt 64 (4 * (litVal iss.o .i32 n).toInt)
  | _ => iss.pc

def execBr (o : Operands) (s : State) : Host.Outcome State Fault Refusal :=
  branch (.br o) o s (fun _ _ => true) (fun iss _ => relTarget iss o.a) (fun iss => iss.gr)

/-- BRC.T and BRC.F: scc of each slice (R175). -/
def execBrc (o : Operands) (s : State) : Host.Outcome State Fault Refusal :=
  branch (.brc o) o s (fun iss j => (sliceOf iss.gr j).scc == (mf o 50 50 == 0)) (fun iss _ => relTarget iss o.a) (fun iss => iss.gr)

/-- BEXECZ: the gang's exec is zero (R175). -/
def execBexecz (o : Operands) (s : State) : Host.Outcome State Fault Refusal :=
  branch (.bexecz o) o s (fun iss _ => iss.act == 0) (fun iss _ => relTarget iss o.a) (fun iss => iss.gr)

def execBexecnz (o : Operands) (s : State) : Host.Outcome State Fault Refusal :=
  branch (.bexecnz o) o s (fun iss _ => iss.act != 0) (fun iss _ => relTarget iss o.a) (fun iss => iss.gr)

/-- BRANY: some active lane of the slice has its vcc bit set (R35). -/
def execBrany (o : Operands) (s : State) : Host.Outcome State Fault Refusal :=
  branch (.brany o) o s (fun iss j => (nibble (iss.act &&& gangVcc iss.gr iss.q.members) j) != 0)
    (fun iss _ => relTarget iss o.a) (fun iss => iss.gr)

/-- BRALL: no active lane of the slice has its vcc bit clear (R35). -/
def execBrall (o : Operands) (s : State) : Host.Outcome State Fault Refusal :=
  branch (.brall o) o s (fun iss j => (nibble (iss.act &&& ~~~(gangVcc iss.gr iss.q.members)) j) == 0)
    (fun iss _ => relTarget iss o.a) (fun iss => iss.gr)

/-- CALL: the return address into qk, then the branch (R175). -/
def execCall (o : Operands) (s : State) : Host.Outcome State Fault Refusal :=
  branch (.call o) o s (fun _ _ => true) (fun iss _ => relTarget iss o.a) (fun iss => sliceWrite64 iss (fun _ => (nextPc iss, none)))

/-- [MARK DEDUCED log 42] -/
def execRet (o : Operands) (s : State) : Host.Outcome State Fault Refusal :=
  branch (.ret o) o s (fun _ _ => true) (fun iss j => scal64 s iss j o.a) (fun iss => iss.gr)

/-- [MARK DEDUCED log 42] -/
def execJmpi (o : Operands) (s : State) : Host.Outcome State Fault Refusal :=
  branch (.jmpi o) o s (fun _ _ => true) (fun iss j => scal64 s iss j o.a) (fun iss => iss.gr)

/-! ### Rejoining (R36, R37) -/

/-- The tag and next address of a slice waiting at REGANG. -/
def regangOf (gr : Group) (i : Nat) : Option (W32 × W64) :=
  match gr.gangs.find? (fun q => q.members.getLsbD i) with
  | some q => match q.wait with
    | some w => match w.kind with
      | .regang tags next => some (tags.getD i 0, next)
      | _ => none
    | none => none
  | none => none

/-- The barrier a slice waits at. -/
def barOf (gr : Group) (i : Nat) : Option Nat :=
  match gr.gangs.find? (fun q => q.members.getLsbD i) with
  | some q => match q.wait with
    | some w => match w.kind with
      | .bar n => some n
      | _ => none
    | none => none
  | none => none

/-- The lead slice's s registers copied into the other slices of a part: the shadow set's, when the part runs the handler (R37,
R358). -/
def copyLead (gr : Group) (part : BitVec 8) : Group :=
  let lead := leadOf part
  if shadowed gr lead then
    { gr with handler := gr.handler.map (fun h => { h with ss := ((membersOf part).filter (fun i => i != lead && shadowed gr i)).foldl (fun m i =>
        (List.range 16).foldl (fun m n => mputD m 0 (64 * i + n) (mgetD h.ss 0 (64 * lead + n))) m) h.ss }) }
  else { gr with slices := gr.slices.mapIdx (fun i x => if part.getLsbD i then { x with sregs := (sliceOf gr lead).sregs } else x) }

/-- A gang of a resolution: a class that is one gang already stays that gang, and its count goes on unless it has waited (R37, R378). -/
def resolvedGang (s : State) (gr : Group) (part : BitVec 8) : Gang :=
  match gr.gangs.find? (fun q => q.members == part) with
  | some q =>
    let waited := match q.wait with | some w => decide (w.since < s.cycle.toNat) | none => false
    if waited then woken s.cycle.toNat q else { q with wait := none }
  | none => newGang s part

/-- Resolution of REGANG, when every live slice waits at one (R36, R37). A scalar result of the lead slice still to return is
written to the slices that took its registers too. -/
def resolveRegang (s : State) (gr : Group) : Group :=
  let live := membersOf (liveSlices gr)
  if live = [] ∨ live.any (fun i => (regangOf gr i).isNone) then gr
  else
    let tag := fun i => match regangOf gr i with | some x => x.1 | none => 0
    let next := fun i => match regangOf gr i with | some x => x.2 | none => 0
    let parts := partsBy live (fun i => ((sliceOf gr i).pc, tag i, (sliceOf gr i).fmt))
    let whole := decide (parts.length = 1)
    let slices := gr.slices.mapIdx (fun i x =>
      if x.exited then x
      else
        let part := (parts.find? (fun p => p.getLsbD i)).getD 0
        { x with scc := whole, pc := next (leadOf part), rentry := next (leadOf part), barPass := 0, replay := 0 })
    let merged := parts.filter (fun p => !gr.gangs.any (fun q => (p &&& ~~~q.members) == 0))
    let gr := { gr with slices := slices, gangs := parts.map (resolvedGang s gr),
                        returns := gr.returns.map (fun r => { r with merges := r.merges ++ (merged.filter (fun p => shadowed gr (leadOf p) == r.shadow)).map (fun p => (leadOf p, p)) }) }
    merged.foldl copyLead gr

/-- REGANG: every member waits, and the resolution is tested (R177). -/
def regangWait (s : State) (iss : Iss) : Group :=
  let tags := (List.range 8).map (fun i => scal32 s iss i iss.o.a)
  modGang iss.gr iss.k (fun q => { q with wait := some { kind := .regang tags (nextPc iss), since := s.cycle.toNat, posted := false } })

/-! ### Named barriers (R51, R179, R375, R441) -/

def barOpen : NBar := { phase := false, expected := none, arrived := [] }

/-- Has group g arrived: each of its live slices has executed the BAR (R51)? -/
def hasArrived (tm : Team) (b : NBar) (g : Nat) : Bool :=
  match tm.groups[g]? with
  | some gr => !gr.retired && liveSlices gr != 0 && ((liveSlices gr) &&& ~~~(mgetD b.arrived 0 g)) == 0
  | none => false

def arrivals (tm : Team) (b : NBar) : Nat := ((List.range tm.groups.length).filter (hasArrived tm b)).length
def liveGroups (tm : Team) : Nat := (tm.groups.filter (fun gr => !gr.retired)).length

/-- A completed phase flips, and every waiting slice goes on, having acquired at .CORE (R51). -/
def releaseBar (s : State) (t n : Nat) : State :=
  match teamOf s t with
  | none => s
  | some tm =>
    let seq := (coreOf s tm.core).storeSeq
    modTeam s t (fun tm =>
      { tm with
        bars := mput tm.bars n { phase := !(mgetD tm.bars barOpen n).phase, expected := none, arrived := [] }
        groups := tm.groups.map (fun gr =>
          let waits := fun (q : Gang) => match q.wait with | some w => w.kind == .bar n | none => false
          if gr.gangs.any waits then
            let ms := (gr.gangs.filter waits).foldl (fun m q => m ||| q.members) 0
            let gr := modMembers gr ms (fun _ x => { x with pc := pcBits (x.pc + 8), barPass := min 255 (x.barPass + 1) })
            { gr with gangs := gr.gangs.map (fun q => if waits q then woken s.cycle.toNat q else q), acqSeq := seq }
          else gr) })

/-- Barrier n of team t tested for completion (R51). -/
def testBar (s : State) (t n : Nat) : State :=
  match teamOf s t with
  | none => s
  | some tm =>
    let b := mgetD tm.bars barOpen n
    match b.expected with
    | none => s
    | some c =>
      let a := arrivals tm b
      if a ≠ 0 ∧ a ≥ (if c = 0 then liveGroups tm else c) then releaseBar s t n else s

/-- An open phase of explicit count that can no longer complete (R375). [MARK DEDUCED log 52] -/
def unreachable (tm : Team) (n : Nat) : Option (Nat × Nat) :=
  let b := mgetD tm.bars barOpen n
  match b.expected with
  | none => none
  | some c =>
    let a := arrivals tm b
    if c ≠ 0 ∧ liveGroups tm < c then some (a, c) else none

/-- Rejoin and barrier deadlock of one group (R374). [MARK DEDUCED log 53] -/
def deadlocked (gr : Group) : Bool :=
  let live := membersOf (liveSlices gr)
  live.all (fun i => (regangOf gr i).isSome || (barOf gr i).isSome) &&
  live.any (fun i => (regangOf gr i).isSome) && live.any (fun i => (barOf gr i).isSome)

/-- The record of 7.2, where it holds (R374). -/
def deadlockRecord (gr : Group) : Option RecIn :=
  if deadlocked gr then
    let live := membersOf (liveSlices gr)
    let at_ := live.filter (fun i => (regangOf gr i).isSome)
    let low := at_.headD 0
    let b := (live.filterMap (barOf gr)).headD 0
    some { cls := 7, code := 2, mask := sliceLanes (liveSlices gr) (fun _ => true),
           detail := some (handlerDetail gr low (BitVec.ofNat 32 b)), pc := (sliceOf gr low).pc, rentry := (sliceOf gr low).rentry,
           members := BitVec.ofNat 8 (maskNat (fun i => at_.contains i) 8) }
  else none

/-- 7.2 raised where it holds (R374). [MARK DEDUCED log 53] -/
def testDeadlock (s : State) (t g : Nat) : State :=
  match (groupOf s t g).bind deadlockRecord with
  | none => s
  | some r => faultTeam s t g r

/-- BAR with a barrier and a count: replayed passages, the opening of a phase, arrival (R179, R441).
[MARKS DEDUCED log 44, DEDUCED log 51, DEDUCED log 52] -/
def barArrive (s : State) (iss : Iss) (n c : Nat) : Res :=
  let m := iss.q.members
  if (membersOf m).any (fun i => (sliceOf iss.gr i).replay != 0) then
    .ok (.adv (modGroup s iss.t iss.g (fun gr =>
      { modMembers gr m (fun _ x => { x with replay := x.replay - 1, barPass := if x.replay ≤ 1 then 0 else x.barPass }) with
        acqSeq := (coreOf s iss.tm.core).storeSeq })))
  else
    let b := mgetD iss.tm.bars barOpen n
    match b.expected with
    | some c' =>
      if c' ≠ c then .error ({ cls := 7, code := 1, mask := iss.act, detail := some (BitVec.ofNat 32 n) }, s)
      else arrive b
    | none => arrive { b with expected := some c }
where
  arrive (b : NBar) : Res :=
    -- constant dwords the group has still to receive are there once the barrier is passed (R223)
    if iss.gr.returns.any (fun r => r.cw != []) then .ok (.wait .retry s) else
    let opening := (mgetD iss.tm.bars barOpen n).expected == none
    let b := { b with arrived := mput b.arrived iss.g (mgetD b.arrived 0 iss.g ||| iss.q.members) }
    let s := modTeam s iss.t (fun tm => { tm with bars := mput tm.bars n b })
    let s := setWait s iss.t iss.g iss.k (.bar n)
    match teamOf s iss.t with
    | none => .ok (.stay s)
    | some tm =>
      match (if opening then unreachable tm n else none) with
      | some (a, c) =>
        -- 7.2 goes before 7.5 (R394)
        let dead := match (groupOf s iss.t iss.g).bind deadlockRecord with | some r => [(iss.t, iss.g, r)] | none => []
        .ok (.stay (faultTeams s false (dead ++ [(iss.t, iss.g, { cls := 7, code := 5, mask := iss.act, pc := iss.pc, rentry := (sliceOf iss.gr iss.k).rentry, members := iss.q.members, detail := some (handlerDetail iss.gr iss.k (BitVec.ofNat 32 ((max a 1) * 2 ^ 16 + c * 2 ^ 8 + n))) })])))
      | none => .ok (.stay (testDeadlock (testBar s iss.t n) iss.t iss.g))

/-! ### The instructions -/

/-- NOP changes no state (R176). -/
def execNop (o : Operands) (s : State) : Host.Outcome State Fault Refusal :=
  groupEffect (.nop o) o s (fun iss => .ok iss.gr)

def execRegang (o : Operands) (s : State) : Host.Outcome State Fault Refusal :=
  issued (.regang o) o s (fun iss s =>
    .ok (.stay (testDeadlock (modGroup s iss.t iss.g (fun _ => resolveRegang s (regangWait s iss))) iss.t iss.g)))

/-- REGION: rentry := its own address (R40). -/
def execRegion (o : Operands) (s : State) : Host.Outcome State Fault Refusal :=
  groupEffect (.region o) o s (fun iss => .ok (modMembers iss.gr iss.q.members (fun _ x =>
    { x with rentry := iss.pc, barPass := 0, replay := 0 })))

/-- YIELD: the current level returns to the base level, and the group stands behind the others (R50, R322).
[MARK DEDUCED log 12] -/
def execYield (o : Operands) (s : State) : Host.Outcome State Fault Refusal :=
  groupEffect (.yield o) o s (fun iss => .ok { iss.gr with curPrio := iss.gr.basePrio, yielded := true })

/-- SLEEP n: 0 does not wait (R178). -/
def execSleep (o : Operands) (s : State) : Host.Outcome State Fault Refusal :=
  issued (.sleep o) o s (fun iss s =>
    let n := (scal32 s iss iss.k o.a).toNat
    if n = 0 then .ok (.adv s) else .ok (.wait (.sleep (s.cycle.toNat + n) (nextPc iss)) s))

/-- SLEEP_EXPIRY: the cycle counter has reached the deadline (R178). -/
def execSleepExpiry (t g k : Nat) (s : State) : Host.Outcome State Fault Refusal :=
  match (groupOf s t g).bind (fun gr => gangAt gr k) with
  | some q =>
    match q.wait with
    | some w =>
      match w.kind with
      | .sleep d next =>
        if d ≤ s.cycle.toNat then
          .next (modGroup s t g (fun gr =>
            modGang (modMembers gr q.members (fun _ x => { x with pc := next })) k (woken s.cycle.toNat)))
        else .refused .eventNotEnabled
      | _ => .refused .eventNotEnabled
    | none => .refused .eventNotEnabled
  | none => .refused .eventNotEnabled

/-- What a group's retirement does: its 2.8 report, and the barriers it leaves (R52, R361, R375, R51). [MARK DEDUCED log 52] -/
def retireGroup (s : State) (t g : Nat) : State :=
  match groupOf s t g with
  | none => s
  | some gr =>
    let s := modGroup s t g (fun gr => { gr with retired := true })
    match teamOf s t with
    | none => s
    | some tm =>
      let s := if gr.fmask = 0 then s else
        let f := gr.firstOff.getD (0, 0, 0)
        postRecord s tm.ctx (teamRecord tm g { cls := 2, code := 8, mask := gr.fmask, addr := f.2.2, pc := f.2.1, detail := some (BitVec.ofNat 32 f.1) })
      let s := match (List.range 16).findSome? (fun n => (unreachable tm n).map (fun x => (n, x.1, x.2))) with
        | some (n, a, c) => faultTeam s t g { cls := 7, code := 5, detail := some (BitVec.ofNat 32 (a * 2 ^ 16 + c * 2 ^ 8 + n)) }
        | none => s
      (List.range 16).foldl (fun s n => testBar s t n) s

/-- EXIT ends every member slice (R38); the rejoin set, the barriers and the group's retirement are tested at once. -/
def execExit (o : Operands) (s : State) : Host.Outcome State Fault Refusal :=
  issued (.exit o) o s (fun iss s =>
    let gr := modMembers iss.gr iss.q.members (fun _ x => { x with exited := true })
    let gr := { gr with gangs := gr.gangs.filter (fun q => (q.members &&& iss.q.members) == 0) }
    let s := modGroup s iss.t iss.g (fun _ => resolveRegang s gr)
    if liveSlices gr = 0 then .ok (.stay (retireGroup s iss.t iss.g))
    else
      let s := (List.range 16).foldl (fun s n => testBar s iss.t n) s
      .ok (.stay (testDeadlock s iss.t iss.g)))

/-- TRAP: codes 0 to 511 stop the group and abort its team, 512 to 1,023 post a record and go on (R177, R363).
[MARK DEDUCED log 44] -/
def execTrap (o : Operands) (s : State) : Host.Outcome State Fault Refusal :=
  issued (.trap o) o s (fun iss s =>
    let k := match o.a with | .lit n => inlineLit n | _ => 0
    if k < 0 then .error (flt0 iss 13, s)
    else
      let c := k.toNat
      if c < 512 ∨ shadowed iss.gr iss.k then .error ({ cls := 11, code := c, mask := iss.act }, s)
      else .ok (.adv (postRecord s iss.tm.ctx (teamRecord iss.tm iss.g
        { cls := 11, code := c, mask := iss.act, pc := iss.pc, rentry := (sliceOf iss.gr iss.k).rentry, members := iss.q.members }))))

/-- BAR n, count (R176, R179). [MARK DEDUCED log 137] -/
def execBar (o : Operands) (s : State) : Host.Outcome State Fault Refusal :=
  issued (.bar o) o s (fun iss s =>
    let c := (scal32 s iss iss.k o.b).toNat
    match uniform32 s iss o.a with
    | .ok none => .ok (.adv s)
    | n =>
      let beyond := match n with | .ok (some n) => decide (15 < n.toNat) | _ => false
      if beyond || decide (32 < c ∨ iss.tm.groups.length < c) then .error (flt0 iss 13, s)
      else match n with
        | .error fl => .error (fl, s)
        | .ok (some n) => barArrive s iss n.toNat c
        | .ok none => .ok (.adv s))

/-- The identifier a GETID selector names, in slice i (R49, R181). -/
def identifier (s : State) (iss : Iss) (sel i : Nat) : Nat :=
  let dims := match mget s.grids iss.tm.grid with | some gd => gd.packet | none => []
  let fld := fun (a n : Nat) => leNat ((dims.drop a).take n)
  match sel with
  | 1 => i
  | 2 => iss.g
  | 3 => iss.gr.role
  | 4 => iss.gr.roleIndex
  | 5 => iss.tm.x
  | 6 => iss.tm.y
  | 7 => iss.tm.z
  | 8 => if iss.tm.gen.isSome then 1 else fld 16 4
  | 9 => if iss.tm.gen.isSome then 1 else fld 20 2
  | 10 => if iss.tm.gen.isSome then 1 else fld 22 2
  | 11 => iss.tm.core
  | 12 => dieOf iss.tm.core
  | 13 => s.deviceId.toNat
  | _ => 0

/-- GETID (R181). [MARK DEDUCED log 43] -/
def execGetid (o : Operands) (s : State) : Host.Outcome State Fault Refusal :=
  groupEffect (.getid o) o s (fun iss =>
    let sel := match o.a with | .lit n => n.toNat | _ => 0
    let v := fun i => BitVec.ofNat 32 (identifier s iss sel i)
    if dstScalar o.dst then .ok (setScalar iss.gr iss.q.members (dstNum o.dst) v)
    else .ok (setLanes iss.gr (dstNum o.dst) iss.act (fun l => if sel = 0 then BitVec.ofNat 32 l else v (l / 4))))

/-- SFMT: bits [31:24] are reserved (0.5) (R182, R352). [MARK DEDUCED log 44] -/
def execSfmt (o : Operands) (s : State) : Host.Outcome State Fault Refusal :=
  groupEffect (.sfmt o) o s (fun iss =>
    let v := fun i => scal32 s iss i o.a
    let bad := sliceLanes iss.q.members (fun i => (v i).extractLsb' 24 8 != 0)
    if bad ≠ 0 then .error { cls := 0, code := 5, mask := bad }
    else .ok (modMembers iss.gr iss.q.members (fun i x => { x with fmt := v i })))

end Sys2Proof.Machine
end

