-- ==== Sys2Proof/Machine/Memory.lean ====
section
/-! DEFINITION. Global memory: the home segments (R105 to R109), translation (R88 to R94, R395, R396), replicated pages
(R110, R111, R460), procedural blocks as an access meets them (R113, R431), loads against the store queues and L1 (R122, R125),
and entry of stores and atomics into a store queue. -/

namespace Sys2Proof.Machine

/-- Who makes an access: its context, the core it is made from, and the generator it belongs to, if any. -/
structure Who where
  ctx : Nat
  core : Nat
  gen : Option GenInfo
  deriving DecidableEq, Repr

def whoOf (tm : Team) : Who := { ctx := tm.ctx, core := tm.core, gen := tm.gen }

/-- Access kinds, numbered as in v2 of R358. -/
inductive Access where
  | read | write | atomic | fetch
  deriving DecidableEq, Repr

def Access.num : Access → Nat
  | .read => 0
  | .write => 1
  | .atomic => 2
  | .fetch => 3

/-! ### Home segments -/

def lineOf (a : Nat) : Nat := a / 128
/-- A peer-window address of another device (R88, R89). -/
def isPeer (a : Nat) : Bool := decide (2 ^ 51 ≤ a)
def peerDevice (a : Nat) : Nat := Word.field a 48 39
def peerAddr (dev a : Nat) : Nat := 2 ^ 51 + dev * 2 ^ 39 + a % 2 ^ 39

/-- The TX2's own window is local HBM (R89). -/
def localise (s : State) (pa : Nat) : Nat := if isPeer pa && peerDevice pa == s.deviceId.toNat then pa % 2 ^ 39 else pa

/-- The context that owns a frame; 64 stands for none (R109). [MARK DEDUCED log 34] -/
def ownerOf (s : State) (addr : Nat) : Nat := mgetD s.owner 64 (addr / 65536)

/-- The key that the owner of a line's frame encrypts it under: a context's, numbered odd, or the device key of the present start,
even (R109, R348). [MARK DEDUCED log 34] -/
def keyOf (s : State) (line : Nat) : Nat :=
  match ctxOf s (ownerOf s (128 * line)) with
  | some q => 2 * q.key + 1
  | none => 2 * s.boot.starts

/-- Does a line read as it was written, to a context or, for 64, to a peer or the device itself: under the key it was written
under, and not to a context other than the one that wrote it last (R109, R348)? [MARK DEDUCED log 34] -/
def readsUnder (s : State) (reader line : Nat) (under : Option (Nat × Nat)) : Bool :=
  match under with
  | some (k, w) => k == keyOf s line && (w == reader || w == 64 || reader == 64)
  | none => true
def reads (s : State) (reader line : Nat) : Bool := readsUnder s reader line (mget s.lineKey line)

/-- The byte a local home segment gives a reader (R107, R348). [MARKS DESIGN CHOICE log 4, DEDUCED log 20, DESIGN CHOICE log 38] -/
def homeByte (s : State) (reader a : Nat) : Byte :=
  let a := localise s a
  if 2 ^ 39 ≤ a then Config.foreignByte reader 0 a
  else if reads s reader (lineOf a) then readByte s.mem a
  else Config.foreignByte reader (match mget s.lineKey (lineOf a) with | some x => 128 * x.1 + x.2 | none => 0) a

def homeBytes (s : State) (reader a n : Nat) : List Byte := (List.range n).map (fun i => homeByte s reader (a + i))
def home64 (s : State) (reader a : Nat) : Nat := leNat (homeBytes s reader a 8)

/-- A line about to be written by a context, or by 64: what it reads as to the writer is what it holds from now on, under the key of
its frame's owner (R109). [MARKS DEDUCED log 34, DESIGN CHOICE log 38] -/
def rekey (s : State) (writer line : Nat) : State :=
  let kept := if writer = 64 then (match mget s.lineKey line with | some x => x.2 | none => 64) else writer
  if reads s writer line then { s with lineKey := mput s.lineKey line (keyOf s line, kept) }
  else { s with mem := (List.range 128).foldl (fun m i => writeByte m (128 * line + i) (homeByte s writer (128 * line + i))) s.mem,
                lineKey := mput s.lineKey line (keyOf s line, writer) }

/-- Blocks of 32 bytes that a write changes are kept for the fetches of the grids that are not to see it; `by_` says whose it is while it
is not released (R146). [MARK DEDUCED log 65] -/
def noteOld (s : State) (by_ : Option Writer) (as : List Nat) : State :=
  if by_.isNone && s.grids == [] then s else
  (as.map (fun a => a / 32)).eraseDups.foldl (fun s b =>
    let last := (s.journal.filter (fun j => j.block == b)).getLast?
    if by_.isNone && (match last with | some j => j.by_.isNone && s.grids.all (fun e => decide (e.1 < j.stamp)) | none => false) then s
    else { s with journal := s.journal ++ [{ stamp := s.nextId, by_ := by_, block := b, bytes := (List.range 32).map (fun i => readByte s.mem (32 * b + i)), key := mget s.lineKey (lineOf (32 * b)) }] }) s

/-- What is kept of blocks without the stores that every grid, running or to come, fetches. [MARK DEDUCED log 65] -/
def trimOld (s : State) : List OldBlock :=
  s.journal.foldl (fun kept j =>
    if j.by_.isNone && s.grids.all (fun e => decide (j.stamp ≤ e.1)) && !kept.any (fun x => x.block == j.block) then kept else kept ++ [j]) []

/-- The stores of a core before a place have been released beyond the core: the grids launched from now on fetch them (R140, R146).
[MARK DEDUCED log 65] -/
def released (s : State) (core q : Nat) : State :=
  if s.journal = [] then s else
  let seen := fun (j : OldBlock) => match j.by_ with | some (.store c n) => c == core && decide (n < q) | _ => false
  let s := { s with journal := s.journal.map (fun j => if seen j then { j with by_ := none, stamp := s.nextId } else j) }
  { s with journal := trimOld s }

/-- Sectors of a line that a list of written bytes covers whole (R408). [MARK DEDUCED log 28] -/
def wholeSectors (ps : List (Nat × Byte)) (line : Nat) : BitVec 4 :=
  BitVec.ofNat 4 (maskNat (fun j => (List.range 32).all (fun b => ps.any (fun p => p.1 == 128 * line + 32 * j + b))) 4)
/-- Sectors of a line that a list of written bytes reaches. -/
def someSectors (ps : List (Nat × Byte)) (line : Nat) : BitVec 4 :=
  BitVec.ofNat 4 (maskNat (fun j => ps.any (fun p => p.1 / 32 == 4 * line + j)) 4)

/-- The L2 segment of a line: its die and the hash of R15. [MARK DESIGN CHOICE log 26] -/
def segmentOf (line : Nat) : Nat × Nat := (Word.field (128 * line) 38 38, (Config.lineHash line).val)

/-- The groups of a team leave their waits, the touches it has made are withdrawn, and its jobs leave their core's queue between
steps, with their progress (R439, R447). -/
def leaveWaits (s : State) (t : Nat) : State :=
  let core := match teamOf s t with | some tm => tm.core | none => 0
  let jobs := (coreOf s core).jobs.filter (fun j => j.team == t)
  let s := modCore s core (fun k => { k with jobs := k.jobs.filter (fun j => j.team != t) })
  let s := modTeam s t (fun tm => { tm with savedJobs := tm.savedJobs ++ jobs })
  withdraw (modTeam s t (fun tm => { tm with groups := tm.groups.map (fun gr => { gr with gangs := gr.gangs.map (fun q => { q with wait := none }) }), bankTouch := none })) t

/-- The sources of a running context stop, all in one cycle (R446, R447): it drains. -/
def beginStop (s : State) (c : Nat) : State :=
  match ctxOf s c with
  | none => s
  | some q =>
    if q.phase ≠ .running then s
    else
      let mine := (s.teams.filter (fun e => e.2.ctx == c && (e.2.phase == .running || e.2.phase == .placed))).map Prod.fst
      mine.foldl leaveWaits (modCtx s c (fun q => { q with phase := .draining }))

/-- Lost sectors added at a segment; 8.3 when its table of 32 is full (R408). [MARK DEDUCED log 28] -/
def addLost (s : State) (line : Nat) (mask : BitVec 4) : State :=
  if mask = 0 then s else
  match mget s.lost line with
  | some m => { s with lost := mput s.lost line (m ||| mask) }
  | none =>
    if (s.lost.filter (fun e => segmentOf e.1 == segmentOf line)).length < 32 then { s with lost := mput s.lost line mask }
    else
      let c := ownerOf s (128 * line)
      let s := postRecord s c { cls := 8, code := 3, addr := BitVec.ofNat 64 (128 * line), detail := some (BitVec.ofNat 32 ((segmentOf line).1 * 96 + (segmentOf line).2)) }
      beginStop (modCtx s c (fun q => { q with fatal := true })) c

/-- A victim leaves its segment: a dirty line is written back under fresh check bits, its lost sectors as zeros (R407, R408).
[MARK DESIGN CHOICE log 26] -/
def evictLine (s : State) (v : Nat) : State :=
  match mget s.l2 v with
  | some true =>
    let mask := mgetD s.lost 0 v
    let zeros := (List.range 4).flatMap (fun j => if mask.getLsbD j then (List.range 32).map (fun b => 128 * v + 32 * j + b) else [])
    { s with l2 := mdel s.l2 v, badLines := mdel s.badLines v, mem := zeros.foldl (fun m a => writeByte m a 0) s.mem }
  | _ => { s with l2 := mdel s.l2 v }

/-- The lines of L2 in the set of a line: a segment of 2 MiB has 1,024 sets of 16 ways (R1). [MARK DESIGN CHOICE log 26] -/
def setLines (s : State) (line : Nat) : List Nat :=
  (s.l2.filter (fun e => segmentOf e.1 == segmentOf line && Config.lineSet e.1 == Config.lineSet line)).map Prod.fst

/-- Has the set of a line a free way? -/
def wayFree (s : State) (line : Nat) : Bool := decide (s.l2.length < 16) || decide ((setLines s line).length < 16)

/-- The line that gives up its way to another, where its set is full: replacement is not stated. [MARK DESIGN CHOICE log 26] -/
def victimOf (s : State) (line : Nat) : Option Nat :=
  if wayFree s line then none else (setLines s line)[Config.cacheVictim 2 s.cycle.toNat % 16]?

/-- A way for a line that is to enter L2. [MARK DESIGN CHOICE log 26] -/
def makeWay (s : State) (line : Nat) : State :=
  if (mget s.l2 line).isSome then s else
  match victimOf s line with
  | some v => evictLine s v
  | none => s

/-- A line written at its home: resident and dirty in L2, whole sectors no longer lost; a store that merges into a damaged line
not in L2 installs the line and loses its other sectors (R407, R408). [MARK DEDUCED log 28] -/
def touchL2 (s : State) (line : Nat) (ps : List (Nat × Byte)) : State :=
  let damaged := (mget s.badLines line).isSome && (mget s.l2 line).isNone
  let s := makeWay s line
  let s := { s with l2 := mput s.l2 line true }
  let s := match mget s.lost line with
    | some m => let m := m &&& ~~~(wholeSectors ps line)
                { s with lost := if m = 0 then mdel s.lost line else mput s.lost line m }
    | none => s
  if damaged then addLost { s with badLines := mdel s.badLines line } line (~~~(wholeSectors ps line)) else s

/-- Bytes written at local homes by a context, or by 64 (R105, R109, R125); `by_` says whose write it is while it is not
released (R146). -/
def storeHome (s : State) (by_ : Option Writer) (writer : Nat) (ps : List (Nat × Byte)) : State :=
  let ps := ps.map (fun p => (localise s p.1, p.2))
  let s := noteOld s by_ (ps.map Prod.fst)
  let lines := (ps.map (fun p => lineOf p.1)).eraseDups
  let s := lines.foldl (fun s l => touchL2 (rekey s writer l) l ps) s
  { s with mem := ps.foldl (fun m p => writeByte m p.1 p.2) s.mem }

/-- The same of the TX2 itself or a peer. -/
def homeWrite (s : State) (writer : Nat) (ps : List (Nat × Byte)) : State := storeHome s none writer ps

/-- Consecutive bytes as (address, byte) pairs. -/
def pairsAt (a : Nat) (bs : List Byte) : List (Nat × Byte) := bs.mapIdx (fun i b => (a + i, b))

/-- What an engine or host read of local bytes meets: the first damaged line (8.1) or lost sector (8.2) (R407, R408).
[MARK DEDUCED log 25] -/
def dataError (s : State) (a n : Nat) : Option (Nat × Nat × W32) :=
  let a := localise s a
  (List.range n).findSome? (fun i =>
    let l := lineOf (a + i)
    if (mget s.badLines l).isSome && (mget s.l2 l).isNone then some (1, 128 * l, 0)
    else match mget s.lost l with
      | some m => if m.getLsbD ((a + i) % 128 / 32) then some (2, 128 * l, m.setWidth 32) else none
      | none => none)

/-! ### Translation -/

/-- The results that groups of a core wait for. -/
def coreReturns (s : State) (core : Nat) : List Ret :=
  s.teams.flatMap (fun e => if e.2.core = core then e.2.groups.flatMap (fun gr => gr.returns) else [])

/-- Every store-queue entry of a core. -/
def coreQueue (s : State) (core : Nat) : List SQEntry :=
  s.teams.flatMap (fun e => if e.2.core = core then e.2.groups.flatMap (fun gr => gr.queue) else [])

/-- Is a TAGSET of a core that p holds of still on its way? It counts as a store (R284). [MARK DEDUCED log 91] -/
def pendingSet (s : State) (core : Nat) (p : Send → Bool) : Bool := s.sends.any (fun x => x.set.isSome && x.core == core && p x)

/-- What the store queues hold of a byte: nothing, the latest store's byte, or an atomic still to be performed. -/
inductive Held where
  | no
  | byte (b : Byte)
  | atomic
  deriving DecidableEq, Repr

/-- Width in bytes of an atomic operation (R224). -/
def atomBytes (aop : Nat) : Nat := if 14 ≤ aop ∧ aop ≤ 16 then 8 else 4

def heldIn (e : SQEntry) (a : Nat) : Held :=
  match e.op with
  | .store bs => match bs.find? (fun p => p.1 == a) with | some p => .byte p.2 | none => .no
  | .atomic aop addr _ _ _ _ => if addr ≤ a ∧ a < addr + atomBytes aop then .atomic else .no

/-- The latest of a byte in core store order. [MARK DEDUCED log 17] -/
def heldByte (es : List SQEntry) (a : Nat) : Held :=
  (es.foldl (fun (best : Nat × Held) e =>
    match heldIn e a with
    | .no => best
    | h => if best.2 = .no ∨ best.1 ≤ e.seq then (e.seq, h) else best) (0, .no)).2

/-- L1 keeps a line of local or peer memory per context (R105). -/
def l1Key (w : Who) (line : Nat) : Nat := w.ctx * 2 ^ 45 + line
/-- [MARK DESIGN CHOICE log 15] -/
def l1Line (s : State) (w : Who) (line : Nat) : Option (List Byte) :=
  match mget (coreOf s w.core).l1 (l1Key w line) with
  | some bs => if Config.cacheKeeps 0 s.cycle.toNat line then some bs else none
  | none => none

/-- What a walk comes to: a leaf and its level, a condition with the level it occurs at, a damaged table entry (8.6), or an entry that
an atomic in a store queue of the core is still to change. -/
inductive Walk where
  | leaf (e level : Nat)
  | bad (code level : Nat)
  | err (addr level : Nat)
  | held
  deriving DecidableEq, Repr

def bitsSet (e h l : Nat) : Bool := Word.field e h l != 0

/-- A table entry that is no leaf breaks R91. -/
def tableBad (e : Nat) : Bool := bitsSet e 63 52 || bitsSet e 13 2
/-- A leaf breaks R92 at its level. -/
def leafBad (e level : Nat) : Bool :=
  bitsSet e 15 7 || bitsSet e 2 2 || (!Word.bit e 57 && bitsSet e 63 58) || (!Word.bit e 6 && bitsSet e 53 52) ||
  (Word.bit e 6 && Word.bit e 57) || (level == 1 && (Word.bit e 6 || bitsSet e 26 16))

/-- The part of a virtual address that an entry of a level is found by: one entry covers 2^(16 + 11 lv) bytes (R90). -/
def above (lv va : Nat) : Nat := va / 2 ^ (16 + 11 * lv)

/-- An entry cached at the core, if the buffer still serves it: a table entry or leaf of level 0 to 3, or dword j of the
replica-set entry that page x uses, as level 4 + j (R94, R295). [MARKS DESIGN CHOICE log 15, DEDUCED log 22] -/
def cached (s : State) (w : Who) (lv x : Nat) : Option Nat :=
  match (coreOf s w.core).tlb.find? (fun e => e.1 == (w.ctx, lv, x)) with
  | some e => if Config.cacheKeeps 2 s.cycle.toNat (16 * x + lv) then some e.2.toNat else none
  | none => none

/-- What a read of eight bytes of a table or replica set gives: their value, damage, or an atomic that comes first. -/
inductive Entry8 where
  | val (n : Nat)
  | damaged
  | held
  deriving DecidableEq, Repr

/-- Eight bytes as a walk reads them: from the store queues of its core, else from L1, else from their home segment (R119, R122).
[MARK DEDUCED log 20] -/
def walkRead (s : State) (w : Who) (a : Nat) : Entry8 :=
  let a := localise s a
  let es := coreQueue s w.core
  let near := fun i => match heldByte es (a + i), l1Line s w (lineOf a) with
    | .byte b, _ => some b
    | _, some bs => bs[(a + i) % 128]?
    | _, none => none
  if (List.range 8).any (fun i => heldByte es (a + i) == .atomic) then .held
  else if !(List.range 8).all (fun i => (near i).isSome) && (dataError s a 8).isSome then .damaged
  else .val (leNat ((List.range 8).map (fun i => (near i).getD (homeByte s w.ctx (a + i)))))

/-- The entry of a level for a virtual address, at `a` in its table: cached, or read. [MARKS DEDUCED log 20, DEDUCED log 22] -/
def entryFor (s : State) (w : Who) (lv va a : Nat) : Entry8 :=
  match cached s w lv (above lv va) with
  | some e => .val e
  | none => walkRead s w a

/-- The walk of R94 below a table of level n at `table`, testing each entry (R396). [MARK DEDUCED log 20] -/
def walkFrom (s : State) (w : Who) (va : Nat) : (n table : Nat) → Walk
  | 0, table =>
    let a := table + 8 * Word.field va 26 16
    match entryFor s w 0 va a with
    | .damaged => .err a 0
    | .held => .held
    | .val e =>
      if !Word.bit e 0 then .bad 1 0
      else if !Word.bit e 1 || leafBad e 0 then .bad 6 0 else .leaf e 0
  | n + 1, table =>
    let lv := n + 1
    let a := table + 8 * Word.field va (min 56 (26 + 11 * lv)) (16 + 11 * lv)
    match entryFor s w lv va a with
    | .damaged => .err a lv
    | .held => .held
    | .val e =>
      if !Word.bit e 0 then .bad 2 lv
      else if Word.bit e 1 then (if lv = 1 && !leafBad e 1 then .leaf e 1 else .bad 6 lv)
      else if tableBad e then .bad 6 lv
      else walkFrom s w va n (Word.field e 51 14 * 2 ^ 14)

/-- The valid entries a walk goes through: level, what it is found by, entry; no leaf of a procedural block (R94).
[MARK DEDUCED log 22] -/
def walkEntries (s : State) (w : Who) (va : Nat) : (n table : Nat) → List (Nat × Nat × Nat)
  | 0, table =>
    match entryFor s w 0 va (table + 8 * Word.field va 26 16) with
    | .val e => if Word.bit e 0 && Word.bit e 1 && !Word.bit e 6 then [(0, above 0 va, e)] else []
    | _ => []
  | n + 1, table =>
    let lv := n + 1
    match entryFor s w lv va (table + 8 * Word.field va (min 56 (26 + 11 * lv)) (16 + 11 * lv)) with
    | .val e =>
      if !Word.bit e 0 then []
      else if Word.bit e 1 then [(lv, above lv va, e)]
      else (lv, above lv va, e) :: walkEntries s w va n (Word.field e 51 14 * 2 ^ 14)
    | _ => []

def walk (s : State) (w : Who) (va : Nat) : Walk :=
  match ctxOf s w.ctx with
  | some q => walkFrom s w va 3 q.xlroot.toNat
  | none => .bad 2 3

/-- Hops and path class of the hop table (R343). [MARK DESIGN CHOICE log 7] -/
def hopsOf (s : State) (d : Nat) : Nat := if d = s.deviceId.toNat then 0 else Word.field (mgetD s.hops 0x3C000000 d).toNat 29 26
/-- [MARK DESIGN CHOICE log 7] -/
def pclsOf (s : State) (d : Nat) : Nat := Word.field (mgetD s.hops 0x3C000000 d).toNat 31 30

/-- Codes 11 and 12 of a frame (R395). -/
def frameTest (s : State) (pa : Nat) : Option (Nat × Nat) :=
  if pa < 2 ^ 39 then none
  else if pa < 2 ^ 51 then some (11, 0)
  else
    let d := peerDevice pa
    if bitsSet pa 50 49 || 640 ≤ d then some (11, d)
    else if d = s.deviceId.toNat then none
    else if hopsOf s d = 15 then some (12, d) else none

/-- Dword j of the replica-set entry that a page's leaf names, cached or read; a damaged one names nothing.
[MARKS DEDUCED log 20, DEDUCED log 21] -/
def replicaDword (s : State) (w : Who) (rsetbase va rset j : Nat) : Nat :=
  match cached s w (4 + j) (above 0 va), walkRead s w (rsetbase + 128 * rset + 8 * j) with
  | some e, _ => e
  | none, .val e => e
  | none, _ => 0

/-- Does the page's replica-set entry wait for an atomic in a store queue of the core? [MARK DEDUCED log 20] -/
def replicasHeld (s : State) (w : Who) (va e : Nat) : Bool :=
  match ctxOf s w.ctx with
  | none => false
  | some q => Word.bit e 57 && (List.range 9).any (fun j => (cached s w (4 + j) (above 0 va)).isNone &&
      walkRead s w (q.rsetbase.toNat + 128 * Word.field e 63 58 + 8 * j) == .held)

/-- The replicas of a leaf with rep = 1: the local frame, if present, and the members' frames in member order; a frame number
beyond a device's HBM is taken modulo 2^39 (R110, R295). [MARKS DEDUCED log 20, DEDUCED log 21, DESIGN CHOICE log 125] -/
def replicaSet (s : State) (w : Who) (va e : Nat) : Option Nat × List Nat :=
  match ctxOf s w.ctx with
  | none => (none, [])
  | some q =>
    let dword := replicaDword s w q.rsetbase.toNat va (Word.field e 63 58)
    let frame : Nat := Word.field e 51 16 * 2 ^ 16
    let ms := (List.range 8).filterMap (fun j =>
      let x := dword (1 + j)
      if Word.bit x 53 then
        some (peerAddr (Word.field x 63 54) (((frame : Int) + sext 37 x * 65536) % (2 ^ 39 : Int)).toNat)
      else none)
    (if Word.bit (dword 0) 0 then some frame else none, ms)

/-- The reachable replica with the fewest hops, lowest device among equals (R111, R460).
[MARKS DEDUCED log 67, DESIGN CHOICE log 126] -/
def nearest (s : State) : List Nat → Option Nat
  | [] => none
  | m :: r =>
    match nearest s r with
    | none => if hopsOf s (peerDevice m) = 15 then none else some m
    | some b =>
      let better := hopsOf s (peerDevice m) < hopsOf s (peerDevice b) ∨
        (hopsOf s (peerDevice m) = hopsOf s (peerDevice b) ∧ peerDevice m ≤ peerDevice b)
      if better then some m else some b

/-- What translation gives an access (R396). -/
inductive Xlat where
  /-- the physical address; of a replicated page every replica, to which a store goes, that address among them; and the procedural
  block gone through -/
  | ok (pa : Nat) (others : List Nat) (block : Option Nat)
  | fault (code detail : Nat)
  | err (addr level : Nat)
  | touch (block : Nat)
  /-- a failed block, with its code and detail: of the access, or of its side-table byte -/
  | charged (block code detail : Nat)
  /-- an atomic in a store queue of the core is to change what the walk reads first -/
  | held
  deriving DecidableEq, Repr

/-- The frame conditions and the address of an access through a leaf: 11, then 12; where no replica is reachable, 12 names the
first member. [MARKS DEDUCED log 67, DESIGN CHOICE log 126] -/
def framesOf (s : State) (w : Who) (k : Access) (va e base off : Nat) : Except (Nat × Nat) (Nat × List Nat) :=
  if Word.bit e 57 then
    let rs := replicaSet s w va e
    let all := (match rs.1 with | some f => [f] | none => []) ++ rs.2
    match all.findSome? (fun f => (frameTest s f).bind (fun x => if x.1 = 11 then some x else none)) with
    | some x => .error x
    | none =>
      let away := rs.2.find? (fun f => (frameTest s f).isSome)
      let pick := match rs.1 with | some f => some f | none => nearest s rs.2
      match k, away, pick with
      | .write, some f, _ => .error (12, peerDevice f)
      | _, _, none => .error (12, match rs.2 with | f :: _ => peerDevice f | [] => 0)
      | _, _, some f => .ok (localise s (f + off), all.map (fun g => localise s (g + off)))
  else
    match frameTest s base with
    | some x => .error x
    | none => .ok (localise s (base + off), [])

/-- Translation of one address for one access: `cmp` for a record with cmp = 1, `need` the class an atomic needs. -/
def translate (s : State) (w : Who) (k : Access) (cmp : Bool) (need va : Nat) : Xlat :=
  match walk s w va with
  | .bad code level => .fault code (if code = 1 then 0 else level)
  | .err a l => .err a l
  | .held => .held
  | .leaf e level =>
    if replicasHeld s w va e then .held else
    let block := va / 65536
    let proc := Word.bit e 6
    let fill := Word.field e 53 52
    let mine := proc && fill == 1 && (match w.gen with
      | some g => g.block == block && (match (ctxOf s w.ctx).bind (fun q => mget q.blocks block) with | some b => b.gen.fill == g.fill | none => false)
      | none => false)
    let off := if level = 1 then va % 2 ^ 27 else va % 2 ^ 16
    let base := Word.field e 51 16 * 2 ^ 16
    let frames := if proc && fill != 2 then .ok (0, []) else framesOf s w k va e base off
    match frames with
    | .error x => .fault x.1 x.2
    | .ok (pa, others) =>
      let acls := Word.field e 56 55
      let perm := match k with
        | .fetch => if Word.bit e 5 then 0 else 5
        | .write => if mine || Word.bit e 4 then 0 else 4
        | .read => if mine || Word.bit e 3 then 0 else 3
        | .atomic => if mine then 0 else if !Word.bit e 3 then 3 else if !Word.bit e 4 then 4 else 0
      if perm ≠ 0 then .fault perm 0
      else if k = .atomic ∧ Word.bit e 57 then .fault 8 0
      else if k = .atomic ∧ acls < need then .fault 7 need
      else if k = .atomic ∧ isPeer pa ∧ pclsOf s (peerDevice pa) < need then .fault 9 (pclsOf s (peerDevice pa) + 4 * need)
      else if cmp ∧ ¬ Word.bit e 54 then .fault 10 0
      else if proc then
        if fill = 2 then .ok pa others (some block)
        else if mine then
          match (ctxOf s w.ctx).bind (fun q => mget q.blocks block) with
          | some b => .ok (b.frame + off) [] (some block)
          | none => .touch block
        else if fill = 3 then .charged block (Word.field e 51 48) (Word.field e 47 16)
        else .touch block
      else .ok pa others none

/-- Side-table byte address of a block (R100), and code 13 (R395). -/
def sideAddr (s : State) (w : Who) (va : Nat) : Nat :=
  ((match ctxOf s w.ctx with | some q => q.cmptab.toNat | none => 0) + va / 512) % 2 ^ 57

/-- Translation with the compression conditions 10 and 13, both before any touch (R396). -/
def translateC (s : State) (w : Who) (k : Access) (cmp : Bool) (need va : Nat) : Xlat :=
  match translate s w k cmp need va with
  | .fault c d => .fault c d
  | .err a l => .err a l
  | .held => .held
  | x =>
    if cmp then
      match x, translate s w .read false 0 (sideAddr s w va) with
      | _, .fault c _ => .fault 13 c
      | .ok pa others b, .ok _ _ _ => .ok pa others b
      | .ok _ _ _, y => y
      | x, _ => x
    else x

/-- The entries of a translation are remembered, those of its replica set with them (R94, R295).
[MARKS DEDUCED log 21, DEDUCED log 22] -/
def tlbNote (s : State) (w : Who) (va : Nat) : State :=
  match ctxOf s w.ctx with
  | none => s
  | some q =>
    let es := walkEntries s w va 3 q.xlroot.toNat
    let sets := match walk s w va with
      | .leaf e _ => if Word.bit e 57 then (List.range 9).map (fun j => (4 + j, above 0 va, replicaDword s w q.rsetbase.toNat va (Word.field e 63 58) j)) else []
      | _ => []
    modCore s w.core (fun k => { k with tlb := (es ++ sets).foldl (fun m e =>
      m.filter (fun x => x.1 != (w.ctx, e.1, e.2.1)) ++ [((w.ctx, e.1, e.2.1), BitVec.ofNat 64 e.2.2)]) k.tlb })

/-! ### Translation of an instruction's lanes (R98, R396, R397) -/

/-- The address at which an access to `va` meets a block: its own, or that of its side-table byte (R100, R432). -/
def touchedAt (s : State) (w : Who) (block va : Nat) : Nat := if va / 65536 = block then va else sideAddr s w va

/-- What stops an access before it has any effect. -/
inductive MemStop where
  | flt (f : Flt)
  /-- a damaged table entry: class 8, code 6, its address and level -/
  | err (addr level : Nat)
  | touch (block : Nat) (mask : W32) (addr : Nat)
  /-- an atomic of the core comes first -/
  | held
  deriving DecidableEq, Repr

/-- A lane's translated address. -/
structure LaneX where
  lane : Nat
  va : Nat
  pa : Nat
  others : List Nat
  block : Option Nat
  deriving DecidableEq, Repr

/-- The lanes an access of lane `l` is charged to: the lane itself, or bit 4 s for an issue-kind instruction (R397). -/
def chargedLanes (iss : Iss) (p : Nat → Bool) (ls : List Nat) : W32 :=
  if iss.sg.kind == .lane then maskOf (fun l => ls.contains l && p l) else maskOf (fun l => l == 4 * iss.k)

/-- The lanes (lane, virtual address) of one access translated, in ascending order of lane, or what stops it, met by the lowest lane
concerned (R397). [MARK DEDUCED log 23] -/
def translateLanes (s : State) (iss : Iss) (k : Access) (cmp : Bool) (need : Nat) (ls : List (Nat × Nat)) :
    Except MemStop (List LaneX) :=
  let w := whoOf iss.tm
  let xs := ls.map (fun l => (l.1, l.2, translateC s w k cmp need l.2))
  let all := ls.map Prod.fst
  if xs.any (fun x => x.2.2 == .held) then .error .held else
  match xs.findSome? (fun x => match x.2.2 with | .fault c d => some (x.2.1, c, d) | _ => none) with
  | some (va0, c0, d0) =>
    let same := fun l => xs.any (fun x => x.1 == l && (match x.2.2 with | .fault c _ => c == c0 | _ => false))
    let shown := fun va => if c0 = 13 then sideAddr s w va else va
    let acc := if iss.sg.kind == .lane then
        (xs.filter (fun x => same x.1)).map (fun x => (x.1, BitVec.ofNat 64 (shown x.2.1), k.num))
      else [(4 * iss.k, BitVec.ofNat 64 (shown va0), k.num)]
    .error (.flt { cls := 3, code := c0, mask := chargedLanes iss same all, addr := BitVec.ofNat 64 (shown va0), detail := some (BitVec.ofNat 32 d0), acc := acc })
  | none =>
    match xs.findSome? (fun x => match x.2.2 with | .err a l => some (a, l) | _ => none) with
    | some (a, l) => .error (.err a l)
    | none =>
      match xs.findSome? (fun x => match x.2.2 with | .charged b c d => some (b, x.2.1, c, d) | _ => none) with
      | some (b, va0, c, d) =>
        let same := fun l => xs.any (fun x => x.1 == l && (match x.2.2 with | .charged y _ _ => y == b | _ => false))
        .error (.flt { cls := 4, code := c, mask := chargedLanes iss same all, addr := BitVec.ofNat 64 (touchedAt s w b va0), detail := some (BitVec.ofNat 32 d) })
      | none =>
        match xs.findSome? (fun x => match x.2.2 with | .touch b => some (b, x.2.1) | _ => none) with
        | some (b, va0) =>
          let same := fun l => xs.any (fun x => x.1 == l && x.2.2 == .touch b)
          .error (.touch b (chargedLanes iss same all) (touchedAt s w b va0))
        | none => .ok (xs.filterMap (fun x => match x.2.2 with
            | .ok pa o b => some { lane := x.1, va := x.2.1, pa := pa, others := o, block := b }
            | _ => none))

/-- A touch sets out for its block's home segment (R113); `origin` names an instruction that its gang has gone on from (R409). -/
def makeTouch (s : State) (ctx block die : Nat) (req : Requester) (gen : Option GenInfo) (mask : W32) (addr : Nat)
    (origin : Option (W64 × BitVec 8) := none) : Nat × State :=
  let n := fresh s
  (n.1, { n.2 with touches := n.2.touches ++ [{ id := n.1, ctx := ctx, block := block, die := die, req := req, gen := gen, lanes := mask, addr := addr, origin := origin }] })

/-- Is a touch still on its way or queued? [MARK DEDUCED log 23] -/
def touchPending (s : State) (ctx id : Nat) : Bool :=
  s.touches.any (fun u => u.id == id) ||
  (match ctxOf s ctx with | some q => q.blocks.any (fun b => !b.2.filled && b.2.queue.any (fun u => u.id == id)) | none => false)

/-- A record of class 8 or 9 charged to an instruction (R407, R457); bit 31 of the detail in the handler (R359). -/
def dataRecord (s : State) (t g : Nat) (members : BitVec 8) (pc rentry : W64) (cls code addr : Nat) (detail : W32) : RecIn :=
  let inH := match groupOf s t g with | some gr => (membersOf members).any (shadowed gr) | none => false
  { cls := cls, code := code, addr := BitVec.ofNat 64 addr, detail := some (if inH then detail ||| 0x80000000 else detail), pc := pc, rentry := rentry, members := members }

/-- Such a record, and its team's abort. -/
def chargeData (s : State) (t g : Nat) (members : BitVec 8) (pc rentry : W64) (cls code addr : Nat) (detail : W32) : State :=
  faultTeam s t g (dataRecord s t g members pc rentry cls code addr detail)

/-- An access that is stopped: its fault, its abort, or its wait for a fill. [MARK DEDUCED log 23] -/
def memStop (s : State) (iss : Iss) : MemStop → Res
  | .flt f => .error (f, s)
  | .err a l => .ok (.stay (chargeData s iss.t iss.g iss.q.members iss.pc (sliceOf iss.gr iss.k).rentry 8 6 a (BitVec.ofNat 32 l)))
  | .touch b m va =>
    let u := makeTouch s iss.tm.ctx b (dieOf iss.tm.core) (.gang iss.t iss.g iss.k) iss.tm.gen m va
    .ok (.wait (.fill b u.1) u.2)
  | .held => .ok (.wait .retry s)

/-! ### Loads (R122, R125 to R127) -/

/-- One destination word of a load: the register words that take it, its physical address, its bytes, and how they become the
word: 0 zero-extended, 1 sign-extended, 8 + format the FP32 or 32-bit value of an element (R215, R217). -/
structure Piece where
  keys : List Nat
  pa : Nat
  n : Nat
  mode : Nat
  deriving DecidableEq, Repr

/-- An element of a record's format as VLDX writes it (R217). -/
def loadElement (fmt v : Nat) : W32 :=
  match intFmt fmt 8 with
  | some (w, sg) => if sg then BitVec.ofInt 32 (sext w v) else BitVec.ofNat 32 (v % 2 ^ w)
  | none => f32 (valueOf fmt 8 v)

def wordOf (mode n : Nat) (bs : List Byte) : W32 :=
  if mode = 0 then BitVec.ofNat 32 (leNat bs)
  else if mode = 1 then BitVec.ofInt 32 (sext (8 * n) (leNat bs))
  else loadElement (mode - 8) (leNat bs)

/-- Where a needed line comes from. -/
inductive Source where
  | l1 (bs : List Byte)
  | home
  | peer
  deriving DecidableEq, Repr

def sourceOf (s : State) (w : Who) (acq : Bool) (line : Nat) : Source :=
  match (if acq then none else l1Line s w line) with
  | some bs => .l1 bs
  | none => if isPeer (128 * line) then .peer else .home

/-- A byte as the store path reads it now at a core: from the store queues, else from L1, else from its home segment; none when a
peer must be asked, or an atomic performed first (R122). [MARK DEDUCED log 17] -/
def viewByte (s : State) (w : Who) (acq : Bool) (es : List SQEntry) (a : Nat) : Option Byte :=
  match heldByte es a with
  | .byte b => some b
  | .atomic => none
  | .no => match sourceOf s w acq (lineOf a) with
    | .l1 bs => bs[a % 128]?
    | .home => some (homeByte s w.ctx a)
    | .peer => none

/-- A load issued: its words, those that its home segments have still to give, the local lines it reads there, the lines whose
L2 fill it awaits, the peer lines it asks for with the words they give. -/
structure Loaded where
  vals : List (Nat × W32)
  late : List LateWord
  fill : List Nat
  lines : List Nat
  peers : List (Nat × List (Nat × Nat))
  deriving DecidableEq, Repr

inductive LoadStop where
  /-- an atomic of the core to those bytes, or a queued store to a peer's, comes first -/
  | wait
  /-- a lost sector: line address and mask (8.2) -/
  | lost (addr : Nat) (mask : W32)
  deriving DecidableEq, Repr

/-- A code for a word of a peer's answer: its offset in the line, bytes and mode. -/
def answerCode (p : Piece) : Nat := p.pa % 128 + 128 * p.n + 1024 * p.mode
def answerWord (code : Nat) (bs : List Byte) : W32 :=
  let n := code / 128 % 8
  wordOf (code / 1024) n ((bs.drop (code % 128)).take n)

/-- Lines of peers that loads of a core are waiting for. [MARK DEDUCED log 30] -/
def askedLines (s : State) (core : Nat) : List Nat :=
  s.peerReqs.filterMap (fun q => match q.who with
    | .load t _ _ _ _ => (match teamOf s t with | some tm => if tm.core = core then some (lineOf q.addr) else none | none => none)
    | _ => none)

/-- The loads of an instruction; no piece crosses a line. Words that the core's stores or L1 hold are read now (R122); the words of a
line of which a home segment is to give something are read together, now or, unless `now`, when the result returns (R125, R126). `far`
are lines the group reads at their homes in any case. [MARKS DEDUCED log 16, DEDUCED log 17] -/
def performLoads (s : State) (w : Who) (far : Nat → Bool) (now : Bool) (ps : List Piece) : Except LoadStop Loaded :=
  let es := coreQueue s w.core
  let from_ := fun (p : Piece) => sourceOf s w (far (lineOf p.pa)) (lineOf p.pa)
  let held := fun (p : Piece) => (List.range p.n).map (fun i => heldByte es (p.pa + i))
  let needed := ps.filter (fun p => !(held p).all (fun h => h != .no))
  let asks := needed.filter (fun p => from_ p == .peer)
  let askLines := (asks.map (fun p => lineOf p.pa)).eraseDups
  if ps.any (fun p => (held p).any (fun h => h == .atomic)) then .error .wait
  else if asks.any (fun p => (held p).any (fun h => h != .no)) || askLines.any (fun l => (askedLines s w.core).contains l) then .error .wait
  else
    let homes := needed.filter (fun p => from_ p == .home)
    let lost := homes.findSome? (fun p => match mget s.lost (lineOf p.pa) with
      | some m => if m.getLsbD (p.pa % 128 / 32) then some (128 * lineOf p.pa, m) else none
      | none => none)
    match (if now then lost else none) with
    | some (a, m) => .error (.lost a (m.setWidth 32))
    | none =>
      let fill := (homes.map (fun p => lineOf p.pa)).eraseDups
      let later := fun (p : Piece) => !now && fill.contains (lineOf p.pa)
      .ok { vals := ps.flatMap (fun p =>
              let v := if later p then 0 else wordOf p.mode p.n ((List.range p.n).map (fun i => (viewByte s w (far (lineOf p.pa)) es (p.pa + i)).getD 0))
              p.keys.map (fun k => (k, v)))
            late := (ps.filter later).map (fun p => { keys := p.keys, pa := p.pa, n := p.n, mode := p.mode })
            fill := fill
            lines := if now then fill.filter (fun l => (mget s.l2 l).isNone) else fill
            peers := askLines.map (fun l => (l, (asks.filter (fun p => lineOf p.pa == l)).flatMap (fun p => p.keys.map (fun k => (k, answerCode p))))) }

/-- A line enters a cache of `cap` lines; a full one gives up a line of its choice (R86). [MARK DESIGN CHOICE log 15] -/
def cacheIn {α : Type} (s : State) (which cap : Nat) (m : Map α) (k : Nat) (v : α) : Map α :=
  if (mget m k).isSome || decide (m.length < cap) then mput m k v
  else match m[Config.cacheVictim which s.cycle.toNat % cap]? with
    | some e => mput (mdel m e.1) k v
    | none => mput m k v

/-- The capacities of L1 and the sampler cache in lines: 128 KiB and 64 KiB (R12, R86). -/
def l1Lines : Nat := 1024
def samplerLines : Nat := 512

/-- L1 takes the local lines read (R105). -/
def fillL1 (s : State) (w : Who) (lines : List Nat) : State :=
  modCore s w.core (fun k => { k with l1 := lines.foldl (fun m l => cacheIn s 0 l1Lines m (l1Key w l) (homeBytes s w.ctx (128 * l) 128)) k.l1 })

/-- Lines that a load reads at their homes, or asks a peer for, have left L1: what L1 held of them is older (R125).
[MARK DESIGN CHOICE log 15] -/
def leaveL1 (s : State) (w : Who) (lines : List Nat) : State :=
  if lines = [] then s else modCore s w.core (fun k => { k with l1 := k.l1.filter (fun e => !lines.any (fun l => e.1 == l1Key w l)) })

/-- A value of a line enters the sampler cache (R106, R131). [MARK DESIGN CHOICE log 143] -/
def samplerIn (s : State) (w : Who) (l : Nat) (bs : List Byte) : State :=
  modCore s w.core (fun k =>
    let old := mgetD k.sampler [] (l1Key w l)
    if old.head? = some bs then k else { k with sampler := cacheIn s 1 samplerLines k.sampler (l1Key w l) (bs :: old) })

/-- Does an acquire at a scope reach beyond the core (R105, R127)? -/
def wide (scope : Nat) : Bool := decide (2 ≤ scope)

/-- A result of a group. -/
def retOf (s : State) (t g r : Nat) : Option Ret := (groupOf s t g).bind (fun gr => gr.returns.find? (fun x => x.id == r))

/-- Loads of a core from peers that are on their way, of a line and a path (sampler or not) that p holds of, will leave nothing
in its caches. [MARK DEDUCED log 30] -/
def noInstall (s : State) (core : Nat) (p : Nat → Bool → Bool) : State :=
  let here := fun (t : Nat) => match teamOf s t with | some tm => tm.core == core | none => false
  let smp := fun (t g r : Nat) => match retOf s t g r with | some x => x.sampler | none => false
  { s with peerReqs := s.peerReqs.map (fun q => match q.who with
    | .load t g r keys _ => if here t && p (lineOf q.addr) (smp t g r) then { q with who := .load t g r keys false } else q
    | _ => q) }

/-- The core's L1 lines are discarded (R105). [MARK DEDUCED log 30] -/
def discardL1 (s : State) (core : Nat) : State := noInstall (modCore s core (fun k => { k with l1 := [] })) core (fun _ smp => !smp)

/-- A place in the core store order for an access of a group; what lies before it happens before the group's later accesses
(R122, R128). [MARK DEDUCED log 18] -/
def takePlace (s : State) (t g core : Nat) : Nat × State :=
  let n := (coreOf s core).storeSeq
  (n, modGroup (modCore s core (fun k => { k with storeSeq := n + 1 })) t g (fun gr => { gr with acqSeq := n + 1 }))

/-- Is a request the write of a store to a further replica (R111)? [MARK DEDUCED log 18] -/
def PeerReq.further (q : PeerReq) : Bool := match q.who with | .store _ _ _ (some x) => x.2 | _ => false

/-- An acquire of a core that counts from a place of its store order: the writes to further replicas that are on their way may happen
before what follows (R127, R128, R139). [MARK DEDUCED log 18] -/
def noteSeen (s : State) (core place : Nat) : State :=
  let old := (coreOf s core).seen.filter (fun e => s.peerReqs.any (fun q => q.further && decide (q.id < e.2)))
  let new := if s.peerReqs.any (fun q => q.further) then [(place, s.nextId)] else []
  if old ++ new = (coreOf s core).seen then s else modCore s core (fun k => { k with seen := old ++ new })

/-- Are writes to further replicas on their way that may happen before a place of the core's store order? [MARK DEDUCED log 18] -/
def replicasAway (s : State) (core q : Nat) : Bool :=
  (coreOf s core).seen.any (fun e => decide (e.1 ≤ q) && s.peerReqs.any (fun r => r.further && decide (r.id < e.2)))

/-- An acquire by a group, that counts from a place: what the core has stored is before its later releases; beyond .CORE the core's L1
is discarded. [MARK DEDUCED log 18] -/
def acquireAt (s : State) (t g core scope place : Nat) : State :=
  let s := noteSeen (modGroup s t g (fun gr => { gr with acqSeq := (coreOf s core).storeSeq })) core place
  if wide scope then discardL1 s core else s

/-- An acquire that counts from now on. [MARK DEDUCED log 18] -/
def acquire (s : State) (t g core scope : Nat) : State := acquireAt s t g core scope (coreOf s core).storeSeq

/-- A peer line asked for. -/
def sendPeerRead (s : State) (ctx : Nat) (pc : W64) (who : PeerFor) (l : Nat) : State :=
  sendRequest s (peerDevice (128 * l)) (128 * l) ctx pc who 0 (fun id => .peerRead id (peerDevice (128 * l)) (128 * l % 2 ^ 39) 128)

/-- Requests for peer lines (R344, R457). -/
def askPeers (s : State) (t g r ctx : Nat) (pc : W64) (asks : List (Nat × List (Nat × Nat))) : List Nat × State :=
  asks.foldl (fun (acc : List Nat × State) (l : Nat × List (Nat × Nat)) =>
    (acc.1 ++ [acc.2.nextId], sendPeerRead acc.2 ctx pc (.load t g r l.2 true) l.1)) ([], s)

/-- Which words a load's result goes to. -/
inductive RetKind where
  | vector | scalar | bank
  deriving DecidableEq, Repr

/-- A result enters the group's list of results to be returned (R50); one of the store path takes a place in the core store order
(R122). -/
def addReturn (s : State) (iss : Iss) (kind : RetKind) (sampler : Bool) (ld : Loaded) (blocks : List Nat) (queued : Nat) : Nat × State :=
  let n := fresh s
  let id := n.1
  let place := if sampler || ld.vals == [] || queued != 0 then ((coreOf n.2 iss.tm.core).storeSeq, n.2) else takePlace n.2 iss.t iss.g iss.tm.core
  let a := askPeers place.2 iss.t iss.g id iss.tm.ctx iss.pc ld.peers
  let r : Ret := { id := id, seq := place.1, pc := iss.pc, members := iss.q.members, sampler := sampler, fetch := false, shadow := shadowed iss.gr iss.k,
                   vw := if kind = .vector then ld.vals else [], sw := if kind = .scalar then ld.vals else [],
                   cw := if kind = .bank then ld.vals else [], lines := ld.lines, peers := a.1, queued := queued, blocks := blocks,
                   late := ld.late, fill := ld.fill, prefetch := false, merges := [] }
  (id, modGroup a.2 iss.t iss.g (fun gr => { gr with returns := gr.returns ++ [r] }))

/-- Lines waited for, with no words (R409). -/
def awaitLines (lines : List Nat) (peers : List (Nat × List (Nat × Nat))) : Loaded := { vals := [], late := [], fill := [], lines := lines, peers := peers }

/-- Scalar words of an issue-kind result: word j of the destination in every member slice (R213). -/
def scalarKeys (iss : Iss) (n : Nat) : List Nat := (membersOf iss.q.members).map (fun i => wordKey i n)

/-- The blocks an access goes through. -/
def blocksOf (xs : List LaneX) : List Nat := (xs.filterMap (fun x => x.block)).eraseDups

/-- A result without words: it stands for lines that a later attempt of the same instruction reads. [MARK DEDUCED log 142] -/
def wordless (r : Ret) : Bool := !r.fetch && !r.prefetch && r.vw == [] && r.sw == [] && r.cw == [] && r.queued == 0
/-- The lines of an earlier attempt of this instruction: asked for already, and those that are still to come. -/
def fetched (iss : Iss) : Bool := iss.gr.returns.any (fun r => r.pc == iss.pc && r.members == iss.q.members && wordless r)
/-- [MARK DEDUCED log 24] -/
def fetching (s : State) (iss : Iss) : Bool :=
  iss.gr.returns.any (fun r => r.pc == iss.pc && r.members == iss.q.members && wordless r && (r.peers != [] || r.lines.any (fun l => (mget s.l2 l).isNone)))
/-- The lines of its blocks that it asked for have arrived. [MARK DEDUCED log 24] -/
def filledFor (s : State) (iss : Iss) : Bool :=
  !fetching s iss && iss.gr.returns.any (fun r => r.pc == iss.pc && r.members == iss.q.members && wordless r && r.blocks != [])
/-- The instruction goes on: those results have served. [MARK DEDUCED log 24] -/
def dropFetched (s : State) (iss : Iss) : State :=
  modGroup s iss.t iss.g (fun gr => { gr with returns := gr.returns.filter (fun r => !(r.pc == iss.pc && r.members == iss.q.members && wordless r)) })

/-- An access through a procedural block is performed once its lines are in L2: an error in the block's frame finds it not yet
made, and its touch is re-executed (R409). [MARK DEDUCED log 24] -/
def fillFirst (s : State) (iss : Iss) (sampler : Bool) (blocks lines : List Nat) (f : State → Res) : Res :=
  let missing := lines.filter (fun l => (mget s.l2 l).isNone)
  if blocks = [] ∨ missing = [] ∨ filledFor s iss = true then f s
  else if fetching s iss then .ok (.wait .retry s)
  else .ok (.wait .retry (addReturn s iss .vector sampler (awaitLines missing []) blocks 0).2)

/-- Lines that a group's earlier loads have still to read at their homes: the group reads them there again (R125). -/
def lateLines (gr : Group) : List Nat := gr.returns.flatMap (fun r => r.late.map (fun p => lineOf p.pa))

/-- Has everything of a result been read, at L1, at its home segments or by an answer? -/
def performed (r : Ret) : Bool := r.peers == [] && r.queued == 0 && r.late == []

/-- A load issues and its result is listed; ord 1 acquires at its scope once it is performed (R127). An access through a procedural
block is performed at issue (R409). [MARK DEDUCED log 16] -/
def finishLoad (s : State) (iss : Iss) (kind : RetKind) (ord scope : Nat) (blocks : List Nat) (ps : List Piece) (zeros : List (Nat × W32)) : Res :=
  let w := whoOf iss.tm
  match performLoads s w (fun l => (ord = 1 && wide scope) || (lateLines iss.gr).contains l) (blocks != []) ps with
  | .error .wait => .ok (.wait .retry s)
  | .error (.lost a m) => .ok (.stay (chargeData s iss.t iss.g iss.q.members iss.pc (sliceOf iss.gr iss.k).rentry 8 2 a m))
  | .ok ld =>
    fillFirst s iss false blocks ld.lines fun s =>
    let n := addReturn (leaveL1 (dropFetched s iss) w (ld.fill ++ ld.peers.map Prod.fst)) iss kind false { ld with vals := ld.vals ++ zeros } blocks 0
    .ok (.adv (if ord != 1 then n.2
      else if ld.peers == [] && ld.late == [] then acquire n.2 iss.t iss.g iss.tm.core scope
      else modGroup n.2 iss.t iss.g (fun gr => { gr with acqs := gr.acqs ++ [(n.1, scope)] })))

/-! ### Stores and atomics (R98, R122) -/

/-- The entries of a group's queue, which holds 32; those that have left it are on their way (R31, R122). [MARK DEDUCED log 127] -/
def queued (gr : Group) : Nat := (gr.queue.filter (fun e => !e.left)).length

/-- Room for n more entries in a group's queue. -/
def queueRoom (gr : Group) (n : Nat) : Bool := decide (queued gr + n ≤ 32)

/-- The widest scope at which a store is a release: its own, or that of a fence before it (R127, R129).
[MARKS DEDUCED log 18, DEDUCED log 128] -/
def relScopeOf (gr : Group) (ord scope : Nat) : Nat := max gr.relFence (if ord = 2 ∨ ord = 3 then scope else 0)

/-- Entries appended in order, each the next in the core store order; those of one instruction follow the same releases.
`blockLanes` are its lanes in a block. [MARK DEDUCED log 128] -/
def enqueue (s : State) (iss : Iss) (ord scope : Nat) (blockLanes : Option Nat → W32) (es : List (SQOp × List Nat × Nat × Option Nat)) : State :=
  let base := (coreOf s iss.tm.core).storeSeq
  let s := modCore s iss.tm.core (fun k => { k with storeSeq := base + es.length })
  modGroup s iss.t iss.g (fun gr =>
    { gr with acqSeq := if es = [] then gr.acqSeq else base + es.length,
              queue := gr.queue ++ es.mapIdx (fun i e => { seq := base + i, left := false, pc := iss.pc, op := e.1, relScope := relScopeOf gr ord scope, base := base, replicas := e.2.1, va := e.2.2.1, block := e.2.2.2, members := iss.q.members, lanes := blockLanes e.2.2.2 }) })

/-- The entries of a store: one per line in ascending order of virtual address; the higher lane wins a byte (R98). -/
def storeEntries (xs : List (LaneX × List Byte)) : List (SQOp × List Nat × Nat × Option Nat) :=
  let lines := (xs.foldl (fun (m : Map Unit) x => mput m (x.1.va / 128) ()) []).map Prod.fst
  lines.map (fun l =>
    let here := xs.filter (fun x => x.1.va / 128 == l)
    let bytes := here.foldl (fun (m : Map Byte) x => (pairsAt x.1.pa x.2).foldl (fun m p => mput m p.1 p.2) m) []
    match here with
    | x :: _ => (.store bytes, x.1.others.map (fun o => 128 * lineOf o), x.1.va, x.1.block)
    | [] => (.store bytes, [], 128 * l, none))

/-- The lanes of an access that go through a block, as a record names them (R397, R432). -/
def lanesIn (iss : Iss) (xs : List LaneX) (b : Option Nat) : W32 :=
  chargedLanes iss (fun l => xs.any (fun x => x.lane == l && x.block == b)) (xs.map (fun x => x.lane))

/-- A store of translated lanes enters the queue whole, or waits (R122). -/
def finishStore (s : State) (iss : Iss) (ord scope : Nat) (xs : List (LaneX × List Byte)) : Res :=
  let es := storeEntries xs
  if !queueRoom iss.gr es.length then .ok (.wait .retry s)
  else .ok (.adv (enqueue s iss ord scope (lanesIn iss (xs.map Prod.fst)) es))

end Sys2Proof.Machine
end

