-- ==== Sys2Proof/Machine/Global.lean ====
section
/-! DEFINITION. Global loads, stores, atomics and fences (R95 to R101, R213 to R219, R224 to R226), and the saturation counters
a converting store moves (R70, R71). -/

namespace Sys2Proof.Machine

/-! ### Saturation counters (R70, R71, R391, R392) -/

/-- The bytes of a calibration event (R71). -/
def calibrationBytes (tm : Team) (c count lim : Nat) : List Byte :=
  bytesOf 4 1 ++ bytesOf 4 c ++ bytesOf 4 tm.x ++ bytesOf 4 tm.y ++ bytesOf 4 tm.z ++ bytesOf 4 count ++ bytesOf 4 lim ++ bytesOf 228 0

/-- n clamps of class c counted for team t, with at most one event for the class. -/
def countClamps (s : State) (t c n : Nat) : State :=
  match teamOf s t with
  | none => s
  | some tm =>
    if n = 0 then s else
    let old := (tm.sat.getD c 0).toNat
    let new := min 0xFFFFFFFF (old + n)
    let lim := (tm.lim.getD c 0).toNat
    let crossed := tm.eve && lim != 0 && !(tm.spent.getD c false) && decide (old < lim ∧ lim ≤ new)
    let s := modTeam s t (fun tm => { tm with sat := tm.sat.set c (BitVec.ofNat 32 new), spent := if crossed then tm.spent.set c true else tm.spent })
    if crossed then sendLocal s (plainMsg s .calibration tm.ctx tm.evmb (calibrationBytes tm c new lim)) else s

/-- Clamps of a target format counted in its class (R55). -/
def countFor (s : State) (t code n : Nat) : State :=
  match satClass code with
  | some c => countClamps s t c.val n
  | none => s

/-- The clamps of several target formats, with their codes. -/
def countAll (s : State) (t : Nat) (cs : List (Nat × Nat)) : State := cs.foldl (fun s c => countFor s t c.1 c.2) s

/-! ### Buffer records (R95, R96, R213) -/

/-- The fields of a buffer record. -/
structure BufRec where
  base : Nat
  extent : Nat
  stride : Nat
  format : Nat
  twoD : Bool
  esz : Nat
  swz : Nat
  ozr : Bool
  ro : Bool
  cmp : Bool
  deriving DecidableEq, Repr

def recordOf (d0 d1 d2 d3 : Nat) : BufRec :=
  { base := d0 + 2 ^ 32 * Word.field d1 24 0, extent := d2, stride := Word.field d3 15 0, format := Word.field d3 20 16, twoD := Word.bit d3 21,
    esz := Word.field d3 23 22, swz := Word.field d1 31 28, ozr := Word.bit d1 27, ro := Word.bit d1 26, cmp := Word.bit d1 25 }

/-- A record's four dwords checked and read: its reserved bits (0.5) and its swizzle (0.6). [MARK DEDUCED log 45] -/
def checkRecord (iss : Iss) (d : Nat → Nat) : Except Flt BufRec :=
  if Word.field (d 3) 31 24 ≠ 0 then .error (flt0 iss 5)
  else
    let r := recordOf (d 0) (d 1) (d 2) (d 3)
    if 2 ≤ r.swz then .error (flt0 iss 6) else .ok r

/-- Dword j of a record source: a quad, a constant quad, or the constant quad that a uniform selector names; none when the
selector is in a vector register and exec is zero (R213). [MARK DESIGN CHOICE log 158] -/
def recordWords (s : State) (iss : Iss) (a : Src) : Except Flt (Option (Nat → Nat)) :=
  match a with
  | .vec _ => do
    match ← uniform32 s iss a with
    | none => .ok none
    | some v =>
      let n := v.toNat % 2 ^ 11
      if n % 4 ≠ 0 then .error (flt0 iss 9) else .ok (some (fun j => (constW iss.tm (n + j)).toNat))
  | a => .ok (some (fun j => (quadW32 s iss iss.k a j).toNat))

/-- [MARK DEDUCED log 45] -/
def readRecord (s : State) (iss : Iss) (a : Src) : Except Flt (Option BufRec) := do
  match ← recordWords s iss a with
  | none => .ok none
  | some d => .ok (some (← checkRecord iss d))

/-- In range, and the element address of an index (R96). -/
def element (r : BufRec) (i : Nat) : Bool × Nat :=
  if r.twoD then
    let x := i % 65536
    let y := i / 65536
    let pb := 16 * r.stride
    let es := 2 ^ r.esz
    let a := if r.swz = 0 then r.base + y * pb + x * es
      else r.base + (y / 8) * 8 * pb + (x / 8) * 64 * es + ((y % 8) * 8 + x % 8) * es
    (decide (x < r.extent % 65536 ∧ y < r.extent / 65536), a % 2 ^ 57)
  else (decide (i < r.extent), (r.base + i * r.stride) % 2 ^ 57)

/-- Where a lane's access goes: an address, nowhere (out of range with ozr = 1), or a class-2 condition (R97, R353). -/
inductive Reach where
  | at (va : Nat)
  | zero
  | off (code va : Nat)
  deriving DecidableEq, Repr

/-- [MARK DEDUCED log 159] -/
def reach (r : BufRec) (width ofs i : Nat) : Reach :=
  let e := element r (i % 2 ^ 32)
  let va := (e.2 + ofs) % 2 ^ 57
  if !e.1 then (if r.ozr then .zero else .off 1 va)
  else if va % width ≠ 0 then .off 3 va else .at va

/-- Lanes switched off by a lane-kind instruction (R360): lane, code and address. -/
def switchOff (s : State) (iss : Iss) (offs : List (Nat × Nat × Nat)) : State :=
  match offs with
  | [] => s
  | (_, code, va) :: _ =>
    let m := maskOf (fun l => offs.any (fun x => x.1 == l))
    modGroup s iss.t iss.g (fun gr => { gr with
      fmask := gr.fmask ||| m
      firstOff := match gr.firstOff with | some f => some f | none => some (code, iss.pc, BitVec.ofNat 64 va) })

/-- The class-2 conditions of the lanes (lane, reach), then what is left: addresses and lanes that read zero. A lane-kind
instruction switches lanes off and goes on; an issue-kind one, and any in the handler, stops (R356, R359, R360).
[MARK DEDUCED log 44] -/
def bounds (s : State) (iss : Iss) (rs : List (Nat × Reach)) (f : State → List (Nat × Nat) → List Nat → Res) : Res :=
  let offs := rs.filterMap (fun x => match x.2 with | .off c va => some (x.1, c, va) | _ => none)
  let go := fun s => f s (rs.filterMap (fun x => match x.2 with | .at va => some (x.1, va) | _ => none))
    (rs.filterMap (fun x => match x.2 with | .zero => some x.1 | _ => none))
  if iss.sg.kind == .lane && !shadowed iss.gr iss.k then go (switchOff s iss offs)
  else match offs with
    | (_, c, va) :: _ =>
      let m := if iss.sg.kind == .lane then maskOf (fun l => offs.any (fun x => x.1 == l)) else iss.act
      .error ({ cls := 2, code := c, mask := m, addr := BitVec.ofNat 64 va }, s)
    | [] => go s

/-- Bounds, then translation, then the access. -/
def reachLanes (s : State) (iss : Iss) (k : Access) (cmp : Bool) (need : Nat) (rs : List (Nat × Reach))
    (f : State → List LaneX → List Nat → Res) : Res :=
  bounds s iss rs (fun s ls zs =>
    match translateLanes s iss k cmp need ls with
    | .error e => memStop s iss e
    | .ok xs => f (xs.foldl (fun s x => tlbNote s (whoOf iss.tm) x.va) s) xs zs)

/-- A global-memory instruction: its record is read and checked, then it acts (R213, R216). -/
def throughRecord (i : Instr) (o : Operands) (s : State) (chk : BufRec → Bool) (f : Iss → BufRec → State → Res) :
    Host.Outcome State Fault Refusal :=
  issued i o s (fun iss s =>
    if iss.sg.kind == .lane && iss.act == 0 then .ok (.adv s)
    else match readRecord s iss o.a with
      | .error fl => .error (fl, s)
      | .ok none => .ok (.adv s)
      | .ok (some r) => if chk r then f iss r s else .error (flt0 iss 16, s))

/-- The lanes an instruction acts in: its active lanes, or the lead slice as one lane. -/
def actLanes (iss : Iss) : List Nat := if iss.sg.kind == .lane then lanes iss.act else [4 * iss.k]

def ofsOf (o : Operands) : Nat := if o.form = .f96c then Word.field o.x.toNat 15 0 else 0
def ordOf (o : Operands) : Nat := mf o 51 50
def scopeOf (o : Operands) : Nat := mf o 54 52

/-! ### Compressed reads (R99 to R101, R403) -/

/-- Byte i of a block of 256 expanded from its stored form (R99). -/
def expandByte (e : Nat) (slot : Nat → Byte) (i : Nat) : Byte :=
  if e = 0 then 0
  else if e = 8 then slot i
  else
    let mask := leNat ((List.range 4).map slot)
    let rank := fun p => ((List.range p).filter (fun q => Word.bit mask q)).length
    let bitAt := fun p => Word.bit mask p && (slot (4 + 8 * rank p + i / 4 / 8)).getLsbD (i / 4 % 8)
    BitVec.ofNat 8 (maskNat (fun b => bitAt (8 * (i % 4) + b)) 8)

/-- R403: is the entry consistent with the stored mask, and how many planes it keeps. -/
def blockCheck (e mask : Nat) : Bool × Nat :=
  let n := ((List.range 32).filter (fun p => Word.bit mask p)).length
  if e = 0 ∨ e = 8 then (true, 0)
  else if 9 ≤ e then (false, 0)
  else (n != 0 && (4 + 8 * n + 31) / 32 == e, n)

/-- Pieces that only fetch bytes. -/
def fetchPieces (as : List Nat) : List Piece := as.map (fun a => { keys := [], pa := a, n := 1, mode := 0 })

/-- Peer lines are fetched, and the instruction tried again (R344). -/
def fetchLines (s : State) (iss : Iss) (sampler : Bool) (asks : List (Nat × List (Nat × Nat))) : Res :=
  if fetching s iss then .ok (.wait .retry s)
  else .ok (.wait .retry (addReturn (if sampler then s else leaveL1 s (whoOf iss.tm) (asks.map Prod.fst)) iss .vector sampler (awaitLines [] asks) [] 0).2)

/-- The pieces of a compressed access, each lane with its virtual address: read and expanded at issue, and listed as a result.
[MARK DEDUCED log 16] -/
def finishCompressed (s : State) (iss : Iss) (kind : RetKind) (ord scope : Nat) (xs : List LaneX) (ps : List (Nat × Piece))
    (zeros : List (Nat × W32)) : Res :=
  let w := whoOf iss.tm
  let acq := ord = 1 && wide scope && !fetched iss
  let s := if acq then discardL1 s w.core else s
  let side := fun (x : LaneX) => match translate s w .read false 0 (sideAddr s w x.va) with | .ok pa _ _ => pa | _ => 0
  let far := fun l => acq || (lateLines iss.gr).contains l
  let stop : LoadStop → Res := fun e => match e with
    | .wait => .ok (.wait .retry s)
    | .lost a m => .ok (.stay (chargeData s iss.t iss.g iss.q.members iss.pc (sliceOf iss.gr iss.k).rentry 8 2 a m))
  match performLoads s w far true (fetchPieces (xs.map side)) with
  | .error e => stop e
  | .ok l1 =>
    if l1.peers ≠ [] then fetchLines s iss false l1.peers else
    let es := coreQueue s w.core
    let view := fun a => (viewByte s w (far (lineOf a)) es a).getD 0
    let entry := fun (x : LaneX) => let b := (view (side x)).toNat; if x.va / 256 % 2 = 0 then b % 16 else b / 16
    let slotOf := fun (x : LaneX) => x.pa - x.pa % 256
    let need := (xs.flatMap (fun x => if entry x ≤ 8 then (List.range (32 * entry x)).map (fun i => slotOf x + i) else [])).eraseDups
    match performLoads s w far true (fetchPieces need) with
    | .error e => stop e
    | .ok l2 =>
      if l2.peers ≠ [] then fetchLines s iss false l2.peers else
      let maskAt := fun (x : LaneX) => leNat ((List.range 4).map (fun i => view (slotOf x + i)))
      match xs.find? (fun x => !(blockCheck (entry x) (maskAt x)).1) with
      | some x => .ok (.stay (chargeData s iss.t iss.g iss.q.members iss.pc (sliceOf iss.gr iss.k).rentry 8 5 (slotOf x)
          (BitVec.ofNat 32 (entry x + 256 * (blockCheck (entry x) (maskAt x)).2))))
      | none =>
        let byteOf := fun (x : LaneX) a => expandByte (entry x) (fun i => view (slotOf x + i)) (a % 256)
        let vals := ps.flatMap (fun q => match xs.find? (fun x => x.lane == q.1) with
          | some x => q.2.keys.map (fun k => (k, wordOf q.2.mode q.2.n ((List.range q.2.n).map (fun i => byteOf x (q.2.pa + i)))))
          | none => [])
        fillFirst s iss false (blocksOf xs) (l1.lines ++ l2.lines) fun s =>
        let s := (addReturn (leaveL1 (dropFetched s iss) w (l1.fill ++ l2.fill)) iss kind false { vals := vals ++ zeros, late := [], fill := (l1.fill ++ l2.fill).eraseDups, lines := (l1.lines ++ l2.lines).eraseDups, peers := [] } (blocksOf xs) 0).2
        .ok (.adv (if ord = 1 then acquire s iss.t iss.g iss.tm.core scope else s))

/-! ### Loads -/

/-- The destination words of lane l, word j: a vector register's lane, or a scalar of every member slice. -/
def destKeys (iss : Iss) (l j : Nat) : List Nat :=
  if iss.sg.kind == .lane then [32 * (dstNum iss.o.dst + j) + l] else scalarKeys iss (dstNum iss.o.dst + j)

/-- Loads of `bytes` bytes per lane into `words` words each, read as `mode` (R215, R216). -/
def loadThrough (s : State) (iss : Iss) (r : BufRec) (ord scope ofs bytes words mode : Nat) (idx : Nat → Nat) : Res :=
  reachLanes s iss .read r.cmp 0 ((actLanes iss).map (fun l => (l, reach r bytes ofs (idx l)))) (fun s xs zs =>
    let kind := if iss.sg.kind == .lane then .vector else .scalar
    let piece := fun (x : LaneX) j => ({ keys := destKeys iss x.lane j, pa := x.pa + 4 * j, n := min bytes 4, mode := mode } : Piece)
    let zeros := zs.flatMap (fun l => (List.range words).flatMap (fun j => (destKeys iss l j).map (fun k => (k, (0 : W32)))))
    if r.cmp then finishCompressed s iss kind ord scope xs (xs.flatMap (fun x => (List.range words).map (fun j => (x.lane, piece x j)))) zeros
    else finishLoad s iss kind ord scope (blocksOf xs) (xs.flatMap (fun x => (List.range words).map (piece x))) zeros)

/-- The index of a lane in source B. -/
def idxB (s : State) (iss : Iss) (l : Nat) : Nat := (lane32 s iss .i32 l iss.o.b).toNat

def widthOf (o : Operands) : Nat := mf o 62 60

/-- VLD (R216). -/
def execVld (o : Operands) (s : State) : Host.Outcome State Fault Refusal :=
  throughRecord (.vld o) o s (fun _ => true) (fun iss r s =>
    loadThrough s iss r (ordOf o) (scopeOf o) (ofsOf o) (widthBytes (widthOf o)) (widthRegs o) (mf o 59 59) (idxB s iss))

/-- SLD: the lane loop runs once (R216). -/
def execSld (o : Operands) (s : State) : Host.Outcome State Fault Refusal :=
  throughRecord (.sld o) o s (fun _ => true) (fun iss r s =>
    loadThrough s iss r (ordOf o) (scopeOf o) (ofsOf o) (widthBytes (widthOf o)) (widthRegs o) (mf o 59 59) (idxB s iss))

/-- The formats VLDX and VSTX accept, with the record's element size equal to the format's width (R217). -/
def convertible (r : BufRec) : Bool :=
  [1, 2, 3, 4, 5, 16, 17, 18, 19, 22, 23].contains r.format && 8 * 2 ^ r.esz == fmtBits r.format 0

/-- VLDX (R217). -/
def execVldx (o : Operands) (s : State) : Host.Outcome State Fault Refusal :=
  throughRecord (.vldx o) o s convertible (fun iss r s =>
    loadThrough s iss r (ordOf o) (scopeOf o) (ofsOf o) (2 ^ r.esz) 1 (8 + r.format) (idxB s iss))

/-! ### Stores -/

/-- The index of a store's lane: source B of the F96C form; otherwise the lane's number from `first` (R214). -/
def storeIdx (s : State) (iss : Iss) (l : Nat) : Nat :=
  let step := if iss.sg.kind == .lane then l else 0
  match iss.o.form with
  | .f96c => (lane32 s iss .i32 l iss.o.b).toNat
  | .f96l => (iss.o.lit.toNat % 2 ^ 32 + step) % 2 ^ 32
  | _ => step

/-- The data source of a store (R214). -/
def storeSrc (o : Operands) : Src := if o.form = .f96c then o.c else o.b

/-- A record a store or atomic may go through (0.16). -/
def writable (r : BufRec) : Bool := !r.ro && !r.cmp

/-- Stores of `bytes` bytes per lane (R216). -/
def storeThrough (s : State) (iss : Iss) (r : BufRec) (bytes : Nat) (data : Nat → List Byte) : Res :=
  reachLanes s iss .write false 0 ((actLanes iss).map (fun l => (l, reach r bytes (ofsOf iss.o) (storeIdx s iss l)))) (fun s xs _ =>
    finishStore s iss (ordOf iss.o) (scopeOf iss.o) (xs.map (fun x => (x, (data x.lane).take bytes))))

/-- The bytes of a data operand of n words (R215). -/
def dataBytes (s : State) (iss : Iss) (l words : Nat) (a : Src) : List Byte :=
  (List.range words).flatMap (fun j => bytesOf 4 (laneWord s iss .i32 l j words a).toNat)

/-- The plain stores (R216). -/
def storeOp (i : Instr) (o : Operands) (s : State) : Host.Outcome State Fault Refusal :=
  throughRecord i o s writable (fun iss r s =>
    storeThrough s iss r (widthBytes (widthOf o)) (fun l => dataBytes s iss l (widthRegs o) (storeSrc o)))

/-- VST with an index operand (R216). -/
def execVst (o : Operands) (s : State) : Host.Outcome State Fault Refusal := storeOp (.vst o) o s
/-- VST at consecutive indices (R214, R216). -/
def execVstSequential (o : Operands) (s : State) : Host.Outcome State Fault Refusal := storeOp (.vstSequential o) o s
/-- SST (R216). -/
def execSst (o : Operands) (s : State) : Host.Outcome State Fault Refusal := storeOp (.sst o) o s

/-- The fields rnd and sat of a slice's fmt (R56). -/
def rndOf (fmt : W32) : Nat := Word.field fmt.toNat 23 22
def satOf (fmt : W32) : Bool := Word.bit fmt.toNat 20
/-- A lane's word narrowed to a record's format: the element and whether it was clamped (R217). -/
def storeElement (format : Nat) (fmt : W32) (v : W32) : Nat × Bool :=
  if isIntCode format then narrow format 8 (rndOf fmt) (satOf fmt) true (.ofInt v.toInt)
  else narrow format 8 (rndOf fmt) (satOf fmt) false (ofF32 v)

/-- VSTX: rnd 0b11 is not accepted (0.16); its clamps count in the format's class (R217, R352). -/
def execVstx (o : Operands) (s : State) : Host.Outcome State Fault Refusal :=
  issued (.vstx o) o s (fun iss s =>
    if iss.act == 0 then .ok (.adv s)
    else match readRecord s iss o.a with
      | .error fl => .error ((firstFlt [some fl, fltIf iss (anyFmt iss (fun f => rndOf f == 3)) 16]).getD fl, s)
      | .ok none => .ok (.adv s)
      | .ok (some r) =>
        if !(writable r && convertible r && !anyFmt iss (fun f => rndOf f == 3)) then .error (flt0 iss 16, s)
        else
          let el := fun l => storeElement r.format (fmtAt iss (l / 4)) (laneWord s iss (if isIntCode r.format then .i32 else .f32) l 0 1 (storeSrc o))
          let rs := (lanes iss.act).map (fun l => (l, reach r (2 ^ r.esz) (ofsOf o) (storeIdx s iss l)))
          reachLanes s iss .write false 0 rs (fun s xs _ =>
            match finishStore s iss (ordOf o) (scopeOf o) (xs.map (fun x => (x, bytesOf (2 ^ r.esz) (el x.lane).1))) with
            | .ok (.adv s) => .ok (.adv (countFor s iss.t r.format (xs.filter (fun x => (el x.lane).2)).length))
            | e => e))

/-- The lines that a load of a lane would read: of its own address, or for a compressed record those of its side-table byte and of the
sectors that the byte names, as far as they can be told now (R100, R101, R218). [MARK DEDUCED log 142] -/
def prefetchLines (s : State) (w : Who) (cmp : Bool) (va pa : Nat) : List Nat :=
  if !cmp then [lineOf pa]
  else match translate s w .read false 0 (sideAddr s w va) with
    | .ok sa _ _ =>
      let b := match viewByte s w false (coreQueue s w.core) sa with | some b => b.toNat | none => 0
      let e := if va / 256 % 2 = 0 then b % 16 else b / 16
      (lineOf sa :: (if e ≤ 8 then (List.range (32 * e)).map (fun i => lineOf (pa - pa % 256 + i)) else [])).eraseDups
    | _ => []

/-- Lines asked for that no gang waits for: they enter L2 and L1 when they come (R218). [MARK DEDUCED log 142] -/
def prefetch (s : State) (iss : Iss) (blocks lines : List Nat) : State :=
  let n := fresh s
  let peers := lines.filter (fun l => isPeer (128 * l) && !(askedLines s iss.tm.core).contains l)
  let a := askPeers n.2 iss.t iss.g n.1 iss.tm.ctx iss.pc (peers.map (fun l => (l, [])))
  let own := lines.filter (fun l => !isPeer (128 * l))
  let r : Ret := { id := n.1, seq := (coreOf s iss.tm.core).storeSeq, pc := iss.pc, members := 0, sampler := false, fetch := false, shadow := false,
                   vw := [], sw := [], cw := [], lines := own, peers := a.1, queued := 0, blocks := blocks, late := [], fill := own, prefetch := true, merges := [] }
  modGroup a.2 iss.t iss.g (fun gr => { gr with returns := gr.returns ++ [r] })

/-- VPREF: the lines of the lanes that are in range and translate, each for 4 bytes; the other lanes are dropped (R218).
[MARK DEDUCED log 142] -/
def execVpref (o : Operands) (s : State) : Host.Outcome State Fault Refusal :=
  throughRecord (.vpref o) o s (fun _ => true) (fun iss r s =>
    let w := whoOf iss.tm
    let at_ := (actLanes iss).filterMap (fun l => match reach r 4 (ofsOf o) (idxB s iss l) with
      | .at va => (match translateC s w .read r.cmp 0 va with | .ok pa _ b => some (va, pa, b) | _ => none)
      | _ => none)
    let lines := (at_.flatMap (fun x => prefetchLines s w r.cmp x.1 x.2.1)).eraseDups.filter (fun l => (l1Line s w l).isNone)
    .ok (.adv (if lines = [] then s else prefetch s iss (at_.filterMap (fun x => x.2.2)).eraseDups lines)))

/-- LDREC: a read-only record over a pool in code (R219). -/
def execLdrec (o : Operands) (s : State) : Host.Outcome State Fault Refusal :=
  groupEffect (.ldrec o) o s (fun iss =>
    let base := relTarget iss o.a
    let n := dstNum o.dst
    let gr := issueWrite iss iss.gr n (Word.lo base)
    let gr := issueWrite iss gr (n + 1) (Word.hi base % 2 ^ 25 + 0x04000000)
    let gr := issueWrite iss gr (n + 2) (scal32 s iss iss.k o.b)
    .ok (issueWrite iss gr (n + 3) 0x00930004))

/-! ### Atomics (R224, R225) -/

/-- The new value of an atomic: operation, old value, operand, compare value (R224). -/
def atomNew (aop : Nat) (old c d : W64) : W64 :=
  let o := Word.lo old
  let v := Word.lo c
  let w := fun (x : W32) => x.setWidth 64
  match aop with
  | 0 => w v
  | 1 => w (if o = Word.lo d then v else o)
  | 2 => w (o &&& v)
  | 3 => w (o ||| v)
  | 4 => w (o ^^^ v)
  | 5 => w (o + v)
  | 6 => w (signedMin o v)
  | 7 => w (signedMax o v)
  | 8 => w (unsignedMin o v)
  | 9 => w (unsignedMax o v)
  | 10 => w (f32 (FVal.add (ofF32 o) (ofF32 v)))
  | 11 => w (f32 (FVal.minNum (ofF32 o) (ofF32 v)))
  | 12 => w (f32 (FVal.maxNum (ofF32 o) (ofF32 v)))
  | 13 =>
    let h := fun (x y : Nat) => encodeF fmtBF16 .rne (FVal.add (fmtBF16.decode x) (fmtBF16.decode y))
    BitVec.ofNat 64 (h (o.toNat % 65536) (v.toNat % 65536) + 65536 * h (o.toNat / 65536) (v.toNat / 65536))
  | 14 => unsignedMin old c
  | 15 => unsignedMax old c
  | _ => old + c

/-- The class an operation needs (R224). -/
def atomNeed (aop : Nat) : Nat := if aop ≤ 4 then 1 else if 10 ≤ aop ∧ aop ≤ 13 then 3 else 2

def aopOf (o : Operands) : Nat := mf o 62 58

/-- The operand type of an atomic's data (R154, R224). -/
def atomTy (aop : Nat) : Ty := if 10 ≤ aop ∧ aop ≤ 12 then .f32 else if aop = 13 then .bf16x2 else .i32

/-- An operand value of an atomic in a lane. -/
def atomData (s : State) (iss : Iss) (l : Nat) (a : Src) : W64 :=
  let n := atomRegs iss.o
  let ty := atomTy (aopOf iss.o)
  Word.join (laneWord s iss ty l 0 n a) (if n = 2 then laneWord s iss ty l 1 n a else 0)

/-- VATOM and SATOM: one entry per lane in range, in ascending lane order; the old values come back when they are performed
(R225). A word a return is to write is named by its register word and the half of the old value it takes. -/
def atomThrough (i : Instr) (o : Operands) (s : State) : Host.Outcome State Fault Refusal :=
  throughRecord i o s writable (fun iss r s =>
    let nb := atomBytes (aopOf o)
    let words := atomRegs o
    reachLanes s iss .atomic false (atomNeed (aopOf o)) ((actLanes iss).map (fun l => (l, reach r nb (ofsOf o) (idxB s iss l)))) (fun s xs zs =>
      if !queueRoom iss.gr xs.length then .ok (.wait .retry s)
      else
        fillFirst s iss false (blocksOf xs) ((xs.filter (fun x => !isPeer x.pa)).map (fun x => lineOf x.pa)) fun s =>
        let s := dropFetched s iss
        let kind := if iss.sg.kind == .lane then .vector else .scalar
        let ord := ordOf o
        let acq := ord = 1 || ord = 3
        let lands := fun l => if noReturn o then [] else (List.range words).flatMap (fun j => (destKeys iss l j).map (fun k => 2 * k + j))
        let vals := (xs.map (fun x => x.lane) ++ zs).flatMap (fun l => (lands l).map (fun k => (k / 2, (0 : W32))))
        let wants := !(noReturn o) || acq
        let n := if wants then addReturn s iss kind false { awaitLines [] [] with vals := vals } (blocksOf xs) xs.length else (0, s)
        let s := n.2
        let s := enqueue s iss ord (scopeOf o) (lanesIn iss xs) (xs.map (fun x =>
          (.atomic (aopOf o) x.pa (atomData s iss x.lane o.c) (atomData s iss x.lane o.d) (if wants then some n.1 else none) (lands x.lane), [], x.va, x.block)))
        .ok (.adv (if acq then modGroup s iss.t iss.g (fun gr => { gr with acqs := gr.acqs ++ [(n.1, scopeOf o)] }) else s))))

/-- VATOM (R225). -/
def execVatom (o : Operands) (s : State) : Host.Outcome State Fault Refusal := atomThrough (.vatom o) o s
/-- SATOM (R225). -/
def execSatom (o : Operands) (s : State) : Host.Outcome State Fault Refusal := atomThrough (.satom o) o s

/-! ### Fences (R129, R131, R226) -/

/-- Is a store of core `core` that p holds of, by team, group and place, on its way to a peer? At a scope below .DOM further replicas
do not count (R120). -/
def peerStores (s : State) (core scope : Nat) (p : Nat → Nat → Nat → Bool) : Bool :=
  let here := fun (t : Nat) => match teamOf s t with | some tm => tm.core == core | none => false
  s.peerReqs.any (fun q => match q.who with
    | .store t g seq x => here t && p t g seq && (decide (4 ≤ scope) || !(match x with | some y => y.2 | none => false))
    | .atomic t g seq _ _ => here t && p t g seq
    | _ => false)

/-- Stores of a core before a place of its store order that are still in a queue, TAGSETs among them (R127, R284).
[MARK DEDUCED log 110] -/
def acquiredWaiting (s : State) (core acqSeq : Nat) : Bool := (coreQueue s core).any (fun e => decide (e.seq < acqSeq)) || pendingSet s core (fun x => decide (x.seq < acqSeq))

/-- A mailbox target word that names the host endpoint (R240, R342). -/
def namesHost (w : W32) : Bool := Word.bit w.toNat 31 && Word.field w.toNat 25 16 == 1023

/-- Outbound messages of a group posted before a place, its copies among them, that the host has not acknowledged (R120, R342). -/
def unacked (s : State) (t g ctx core q : Nat) : Bool :=
  (match ctxOf s ctx with | some x => x.outAcks.any (fun a => a.t == t && a.g == g && decide (a.seq ≤ q)) | none => false) ||
  ((coreOf s core).copies ++ (match teamOf s t with | some tm => tm.savedCopies | none => [])).any (fun c =>
    c.team == t && c.group == g && decide (c.after ≤ q) && !c.stopped && (match c.done with | .message target _ => namesHost target | _ => false))

/-- The core's stores before a place, or those of group g alone, have reached the coherence point of a scope (R120).
[MARK DEDUCED log 18] -/
def storesAt (s : State) (t g core scope q : Nat) (own : Bool) : Bool :=
  let mine := fun t' g' => !own || (t' == t && g' == g)
  let queue := match own, groupOf s t g with | true, some gr => gr.queue | _, _ => coreQueue s core
  !queue.any (fun e => decide (e.seq < q)) && !peerStores s core scope (fun t' g' n => mine t' g' && decide (n < q)) &&
  !pendingSet s core (fun x => mine x.src x.group && decide (x.seq < q)) &&
  (scope != 5 || !(match teamOf s t with | some tm => unacked s t g tm.ctx core q | none => false))

/-- The store path loads of a core before a place have been performed. [MARK DEDUCED log 18] -/
def loadsAt (s : State) (core q : Nat) : Bool := (coreReturns s core).all (fun r => r.sampler || r.prefetch || decide (q ≤ r.seq) || performed r)

/-- Everything on the store path before a place of the core store order has reached the coherence point of a scope; beyond .PKG, also
what an acquire before that place may have brought after writes to replicas of other cores (R127, R128).
[MARK DEDUCED log 18] -/
def reached (s : State) (t g core scope q : Nat) : Bool :=
  !wide scope || (storesAt s t g core scope q false && loadsAt s core q && !(decide (4 ≤ scope) && replicasAway s core q))

/-- Everything that happens before the group's next access has reached the coherence point of a scope: what a release that is no
store waits for (R127, R136, R140). [MARK DEDUCED log 59] -/
def storesReached (s : State) (t g scope : Nat) : Bool :=
  match teamOf s t, groupOf s t g with
  | some tm, some gr => reached s t g tm.core scope gr.acqSeq
  | _, _ => true

/-- Is a release at a scope one at .PKG or wider (R120, R146)? [MARK DEDUCED log 65] -/
def pkgWide (scope : Nat) : Bool := decide (3 ≤ scope)

/-- What happens before the group's next access is released at a scope. [MARK DEDUCED log 65] -/
def releaseNow (s : State) (t g scope : Nat) : State :=
  match teamOf s t, groupOf s t g with
  | some tm, some gr => if pkgWide scope then released s tm.core gr.acqSeq else s
  | _, _ => s

/-- A team's stores before a place in the core store order have reached their home segments (R289). -/
def storesHome (s : State) (t : Nat) (tm : Team) (seq : Nat) : Bool :=
  !(tm.groups.any (fun gr => gr.queue.any (fun e => decide (e.seq < seq)))) && !peerStores s tm.core 3 (fun t' _ n => t' == t && decide (n < seq))

/-- The group's earlier loads have been performed. -/
def loadsPerformed (gr : Group) : Bool := gr.returns.all (fun r => r.sampler || r.prefetch || performed r)

/-- The effect of a fence once its waits are over: it acquires, its group's later stores are releases at its scope, and `.SMP` empties the
sampler cache (R129, R131). [MARKS DEDUCED log 59, DEDUCED log 128] -/
def fenceEffect (s : State) (iss : Iss) (ord scope : Nat) (smp : Bool) : State :=
  let s := if ord = 2 then s else acquire s iss.t iss.g iss.tm.core scope
  let s := if ord = 1 then s
    else modGroup s iss.t iss.g (fun gr => { gr with relFence := max gr.relFence scope })
  if smp then noInstall (modCore s iss.tm.core (fun k => { k with sampler := [] })) iss.tm.core (fun _ x => x) else s

/-- The cycle until which the gang already waits in a fence of the sampler path. [MARK DEDUCED log 58] -/
def smpWait (iss : Iss) : Option Nat := match iss.q.wait with | some w => (match w.kind with | .smp d => some d | _ => none) | none => none

/-- FENCE and FENCE.SMP: waiting, acquiring, releasing, and invalidating the sampler cache; the sampler path costs 64 cycles more
(R129, R131). [MARK DEDUCED log 59] -/
def fenceOp (i : Instr) (o : Operands) (s : State) (smp : Bool) : Host.Outcome State Fault Refusal :=
  issued i o s (fun iss s =>
    let ord := ordOf o
    let scope := scopeOf o
    let stores := ord == 0 && wide scope && !storesAt s iss.t iss.g iss.tm.core scope iss.gr.acqSeq true
    let loads := ord != 2 && !loadsPerformed iss.gr
    let drain := smp && !(storesAt s iss.t iss.g iss.tm.core 3 iss.gr.acqSeq false && iss.gr.returns.all (fun r => !r.sampler))
    match smpWait iss with
    | some d => .ok (if d ≤ s.cycle.toNat then .adv (fenceEffect s iss ord scope smp) else .wait (.smp d) s)
    | none =>
      if stores || loads || drain then .ok (.wait .retry s)
      else if smp then .ok (.wait (.smp (s.cycle.toNat + 64)) s)
      else .ok (.adv (fenceEffect s iss ord scope smp)))

/-- FENCE (R129). -/
def execFence (o : Operands) (s : State) : Host.Outcome State Fault Refusal := fenceOp (.fence o) o s false
/-- FENCE with .SMP (R131). [MARK DEDUCED log 58] -/
def execFenceSmp (o : Operands) (s : State) : Host.Outcome State Fault Refusal := fenceOp (.fenceSmp o) o s true

end Sys2Proof.Machine
end

