-- ==== Sys2Proof/Machine/Vector.lean ====
section
/-! DEFINITION. Integer and floating vector arithmetic and the transcendental functions (R188 to R201). -/

namespace Sys2Proof.Machine

/-- A lane instruction whose only effect is a value in each active lane of the destination (R188). -/
def laneOp (i : Instr) (o : Operands) (s : State) (f : Iss → Nat → W32) : Host.Outcome State Fault Refusal :=
  groupEffect i o s (fun iss => .ok (setLanes iss.gr (dstNum o.dst) iss.act (f iss)))

/-- A lane instruction whose result is a lane mask: 0 in every lane that is not active (R189). -/
def lmaskOp (i : Instr) (o : Operands) (s : State) (f : Iss → Nat → Bool) : Host.Outcome State Fault Refusal :=
  groupEffect i o s (fun iss => .ok (maskWrite iss (maskOf (fun l => laneIn iss.act l && f iss l))))

/-! ### Integer arithmetic (R192) -/

/-- ty of class 0x3: element width, signedness, and how a literal is read (R154, R158). -/
def tyOf (o : Operands) : Nat := mf o 52 50
def intWidth (ty : Nat) : Nat := if ty ≤ 1 then 32 else if ty ≤ 3 then 16 else 8
def intSigned (ty : Nat) : Bool := ty % 2 == 0
def intTy (ty : Nat) : Ty := if ty ≤ 1 then .i32 else if ty ≤ 3 then .i16x2 else .i8x4

/-- The elements of width w of a dword, element 0 lowest (R65). -/
def elemOf (w : Nat) (v : W32) (e : Nat) : BitVec w := v.extractLsb' (w * e) w

/-- An operation on each element of three packed dwords. -/
def packed (w : Nat) (f : BitVec w → BitVec w → BitVec w → BitVec w) (a b c : W32) : W32 :=
  BitVec.ofNat 32 (((List.range (32 / w)).map (fun e => (f (elemOf w a e) (elemOf w b e) (elemOf w c e)).toNat * 2 ^ (w * e))).sum)

/-- A class-0x3 operation per element, under its type suffix. -/
def intOp (i : Instr) (o : Operands) (s : State)
    (f : (w : Nat) → Bool → BitVec w → BitVec w → BitVec w → BitVec w) : Host.Outcome State Fault Refusal :=
  laneOp i o s (fun iss l =>
    let ty := tyOf o
    let x := fun a => lane32 s iss (intTy ty) l a
    packed (intWidth ty) (f (intWidth ty) (intSigned ty)) (x o.a) (x o.b) (x o.c))

/-- An untyped operation on 32-bit lanes. -/
def rawOp (i : Instr) (o : Operands) (s : State) (f : W32 → W32 → W32 → W32) : Host.Outcome State Fault Refusal :=
  laneOp i o s (fun iss l => f (lane32 s iss .i32 l o.a) (lane32 s iss .i32 l o.b) (lane32 s iss .i32 l o.c))

/-- VMOV (R192). -/
def execVmov (o : Operands) (s : State) : Host.Outcome State Fault Refusal :=
  rawOp (.vmov o) o s (fun a _ _ => a)

/-- VADD (R192). -/
def execVadd (o : Operands) (s : State) : Host.Outcome State Fault Refusal :=
  intOp (.vadd o) o s (fun _ _ a b _ => a + b)

/-- VSUB (R192). -/
def execVsub (o : Operands) (s : State) : Host.Outcome State Fault Refusal :=
  intOp (.vsub o) o s (fun _ _ a b _ => a - b)

/-- VMUL: the low half of the product (R192). -/
def execVmul (o : Operands) (s : State) : Host.Outcome State Fault Refusal :=
  intOp (.vmul o) o s (fun _ _ a b _ => a * b)

/-- VMULHI: the high half of the product, signed or unsigned (R192). -/
def execVmulhi (o : Operands) (s : State) : Host.Outcome State Fault Refusal :=
  intOp (.vmulhi o) o s (fun w sg a b _ =>
    if sg then BitVec.ofInt w (a.toInt * b.toInt / 2 ^ w) else BitVec.ofNat w (a.toNat * b.toNat / 2 ^ w))

/-- VMAD (R192). -/
def execVmad (o : Operands) (s : State) : Host.Outcome State Fault Refusal :=
  intOp (.vmad o) o s (fun _ _ a b c => a * b + c)

/-- VAND (R192). -/
def execVand (o : Operands) (s : State) : Host.Outcome State Fault Refusal :=
  rawOp (.vand o) o s (fun a b _ => a &&& b)

/-- VOR (R192). -/
def execVor (o : Operands) (s : State) : Host.Outcome State Fault Refusal :=
  rawOp (.vor o) o s (fun a b _ => a ||| b)

/-- VXOR (R192). -/
def execVxor (o : Operands) (s : State) : Host.Outcome State Fault Refusal :=
  rawOp (.vxor o) o s (fun a b _ => a ^^^ b)

/-- VSHL: by b mod w (R192). -/
def execVshl (o : Operands) (s : State) : Host.Outcome State Fault Refusal :=
  intOp (.vshl o) o s (fun w _ a b _ => a <<< (b.toNat % w))

/-- VSHR: by b mod w, zeros entering (R192). -/
def execVshr (o : Operands) (s : State) : Host.Outcome State Fault Refusal :=
  intOp (.vshr o) o s (fun w _ a b _ => a >>> (b.toNat % w))

/-- VSRA: by b mod w, copies of the top bit entering (R192). -/
def execVsra (o : Operands) (s : State) : Host.Outcome State Fault Refusal :=
  intOp (.vsra o) o s (fun w _ a b _ => a.sshiftRight (b.toNat % w))

/-- VMIN (R192). -/
def execVmin (o : Operands) (s : State) : Host.Outcome State Fault Refusal :=
  intOp (.vmin o) o s (fun _ sg a b _ => if sg then signedMin a b else unsignedMin a b)

/-- VMAX (R192). -/
def execVmax (o : Operands) (s : State) : Host.Outcome State Fault Refusal :=
  intOp (.vmax o) o s (fun _ sg a b _ => if sg then signedMax a b else unsignedMax a b)

/-- VCMP (R193). -/
def execVcmp (o : Operands) (s : State) : Host.Outcome State Fault Refusal :=
  lmaskOp (.vcmp o) o s (fun iss l => condHolds (mf o 60 57) (intSigned (tyOf o)) (lane32 s iss .i32 l o.a) (lane32 s iss .i32 l o.b))

/-- Which lanes VSEL takes from a: nonzero lanes of a vector, bits of any other source (R194). -/
def selects (s : State) (iss : Iss) (c : Src) (l : Nat) : Bool :=
  match c with
  | .vec _ => lane32 s iss .i32 l c != 0
  | c => (scal32 s iss (l / 4) c).getLsbD l

/-- VSEL (R194). -/
def execVsel (o : Operands) (s : State) : Host.Outcome State Fault Refusal :=
  laneOp (.vsel o) o s (fun iss l => if selects s iss o.c l then lane32 s iss .i32 l o.a else lane32 s iss .i32 l o.b)

/-- VBFE: .I32 sign-extends the field (R185, R192). -/
def execVbfe (o : Operands) (s : State) : Host.Outcome State Fault Refusal :=
  rawOp (.vbfe o) o s (fun a b c => bitExtract (intSigned (tyOf o)) a b c)

/-- VBFI (R185, R192). -/
def execVbfi (o : Operands) (s : State) : Host.Outcome State Fault Refusal :=
  rawOp (.vbfi o) o s (fun a b c => bitInsert a b c)

/-- VPOPC (R192). -/
def execVpopc (o : Operands) (s : State) : Host.Outcome State Fault Refusal :=
  rawOp (.vpopc o) o s (fun a _ _ => popCount a)

/-- VCLZ (R192). -/
def execVclz (o : Operands) (s : State) : Host.Outcome State Fault Refusal :=
  rawOp (.vclz o) o s (fun a _ _ => leadingZeros a)

/-- The vcc bits of the active lanes replaced; bits of inactive lanes kept (R194, R208). -/
def vccActive (iss : Iss) (gr : Group) (f : Nat → Bool) : Group :=
  let m := maskOf (fun l => if laneIn iss.act l then f l else laneIn (gangVcc iss.gr iss.q.members) l)
  setVcc gr iss.q.members (fun _ => m)

/-- VADDC: the carry in and out of each lane is its vcc bit (R194). -/
def execVaddc (o : Operands) (s : State) : Host.Outcome State Fault Refusal :=
  groupEffect (.vaddc o) o s (fun iss =>
    let sum := fun l => (lane32 s iss .i32 l o.a).toNat + (lane32 s iss .i32 l o.b).toNat + (if laneIn (gangVcc iss.gr iss.q.members) l then 1 else 0)
    .ok (vccActive iss (setLanes iss.gr (dstNum o.dst) iss.act (fun l => BitVec.ofNat 32 (sum l))) (fun l => decide (2 ^ 32 ≤ sum l))))

/-! ### Floating-point arithmetic (R195 to R199) -/

/-- The element format of ty of class 0x4 (R158), and how a literal is read. -/
def floatOf (ty : Nat) : FFmt := match ty with | 1 => fmtF16 | 2 => fmtBF16 | _ => fmtF32
def floatTy (ty : Nat) : Ty := match ty with | 1 => .f16x2 | 2 => .bf16x2 | _ => .f32

/-- The source modifiers: absolute value first, then negation (R157). -/
def smodVal (ab neg : Bool) (v : FVal) : FVal := let v := if ab then v.abs else v; if neg then v.neg else v
def smodBits (ab neg : Bool) (v : W32) : W32 := let v := if ab then v &&& 0x7FFFFFFF else v; if neg then v ^^^ 0x80000000 else v
def absA (o : Operands) : Bool := mf o 54 54 == 1
def negA (o : Operands) : Bool := mf o 53 53 == 1
def absB (o : Operands) : Bool := mf o 56 56 == 1
def negB (o : Operands) : Bool := mf o 55 55 == 1
def absC (o : Operands) : Bool := o.x.getLsbD 1
def negC (o : Operands) : Bool := o.x.getLsbD 0

/-- Element e of a dword as a value. -/
def elemVal (f : FFmt) (v : W32) (e : Nat) : FVal := f.decode (v.toNat / 2 ^ (f.width * e) % 2 ^ f.width)

/-- A class-0x4 operation: the exact result of each element, rounded once (R195). -/
def floatOp (i : Instr) (o : Operands) (s : State) (g : FFmt → FVal → FVal → FVal → FVal) : Host.Outcome State Fault Refusal :=
  laneOp i o s (fun iss l =>
    let ty := tyOf o
    let f := floatOf ty
    let x := fun a => lane32 s iss (floatTy ty) l a
    let el := fun e => encodeF f .rne (g f (smodVal (absA o) (negA o) (elemVal f (x o.a) e)) (smodVal (absB o) (negB o) (elemVal f (x o.b) e))
      (smodVal (absC o) (negC o) (elemVal f (x o.c) e)))
    BitVec.ofNat 32 ((List.range (32 / f.width)).map (fun e => el e * 2 ^ (f.width * e))).sum)

/-- a - floor(a), kept below 1 (R197). -/
def fractOf (f : FFmt) (a : FVal) : FVal :=
  match a with
  | .fin _ n _ =>
    if n = 0 then .fin false 0 1
    else
      let r := a.sub (.ofInt a.floorInt)
      if encodeF f .rne r = encodeF f .rne (.ofInt 1) then .fin false (2 ^ (f.mbits + 1) - 1) (2 ^ (f.mbits + 1)) else r
  | _ => .nan

/-- VFADD (R196). -/
def execVfadd (o : Operands) (s : State) : Host.Outcome State Fault Refusal :=
  floatOp (.vfadd o) o s (fun _ a b _ => a.add b)

/-- VFSUB (R196). -/
def execVfsub (o : Operands) (s : State) : Host.Outcome State Fault Refusal :=
  floatOp (.vfsub o) o s (fun _ a b _ => a.sub b)

/-- VFMUL (R196). -/
def execVfmul (o : Operands) (s : State) : Host.Outcome State Fault Refusal :=
  floatOp (.vfmul o) o s (fun _ a b _ => a.mul b)

/-- VFMA: the product is not rounded (R196, R197). -/
def execVfma (o : Operands) (s : State) : Host.Outcome State Fault Refusal :=
  floatOp (.vfma o) o s (fun _ a b c => (a.mul b).add c)

/-- VFMIN (R196, R197). -/
def execVfmin (o : Operands) (s : State) : Host.Outcome State Fault Refusal :=
  floatOp (.vfmin o) o s (fun _ a b _ => a.minNum b)

/-- VFMAX (R196, R197). -/
def execVfmax (o : Operands) (s : State) : Host.Outcome State Fault Refusal :=
  floatOp (.vfmax o) o s (fun _ a b _ => a.maxNum b)

/-- VFCMP (R198). -/
def execVfcmp (o : Operands) (s : State) : Host.Outcome State Fault Refusal :=
  lmaskOp (.vfcmp o) o s (fun iss l => fcondHolds (mf o 60 57) (smodVal (absA o) (negA o) (ofF32 (lane32 s iss .f32 l o.a)))
    (smodVal (absB o) (negB o) (ofF32 (lane32 s iss .f32 l o.b))))

/-- VFRACT (R196, R197). -/
def execVfract (o : Operands) (s : State) : Host.Outcome State Fault Refusal :=
  floatOp (.vfract o) o s (fun f a _ _ => fractOf f a)

/-- VFLOOR (R196). -/
def execVfloor (o : Operands) (s : State) : Host.Outcome State Fault Refusal :=
  floatOp (.vfloor o) o s (fun _ a _ _ => a.integral FVal.floorMag)

/-- VFCEIL (R196). -/
def execVfceil (o : Operands) (s : State) : Host.Outcome State Fault Refusal :=
  floatOp (.vfceil o) o s (fun _ a _ _ => a.integral FVal.ceilMag)

/-- VFRNDE (R196). -/
def execVfrnde (o : Operands) (s : State) : Host.Outcome State Fault Refusal :=
  floatOp (.vfrnde o) o s (fun _ a _ _ => a.integral (fun _ n d => rdiv .rne n d))

/-- VFTRUNC (R196). -/
def execVftrunc (o : Operands) (s : State) : Host.Outcome State Fault Refusal :=
  floatOp (.vftrunc o) o s (fun _ a _ _ => a.integral (fun _ n d => rdiv .rtz n d))

/-- VFDOT2: two exact products and an FP32 term, rounded once (R197). -/
def execVfdot2 (o : Operands) (s : State) : Host.Outcome State Fault Refusal :=
  laneOp (.vfdot2 o) o s (fun iss l =>
    let f := floatOf (tyOf o)
    let x := fun a => lane32 s iss (floatTy (tyOf o)) l a
    let p := fun e => (smodVal (absA o) (negA o) (elemVal f (x o.a) e)).mul (smodVal (absB o) (negB o) (elemVal f (x o.b) e))
    f32 (((p 0).add (p 1)).add (smodVal (absC o) (negC o) (ofF32 (lane32 s iss .f32 l o.c)))))

/-- The class of an FP32 value, as a bit number of R199. -/
def classBit (a : W32) : Nat :=
  let e := Word.field a.toNat 30 23
  let m := Word.field a.toNat 22 0
  let neg := a.getLsbD 31
  if e = 255 then (if m ≠ 0 then (if a.getLsbD 22 then 1 else 0) else if neg then 2 else 9)
  else if e ≠ 0 then (if neg then 3 else 8)
  else if m ≠ 0 then (if neg then 4 else 7)
  else if neg then 5 else 6

/-- VFCLASS (R199). -/
def execVfclass (o : Operands) (s : State) : Host.Outcome State Fault Refusal :=
  lmaskOp (.vfclass o) o s (fun iss l => (lane32 s iss .i32 l o.b).getLsbD (classBit (smodBits (absA o) (negA o) (lane32 s iss .f32 l o.a))))

/-! ### Transcendental functions (R200, R201) -/

/-- A function of one FP32 source. -/
def unaryF (i : Instr) (o : Operands) (s : State) (f : W32 → W32) : Host.Outcome State Fault Refusal :=
  laneOp i o s (fun iss l => f (smodBits (absA o) (negA o) (lane32 s iss .f32 l o.a)))

/-- VRCP (R200, R201). -/
def execVrcp (o : Operands) (s : State) : Host.Outcome State Fault Refusal :=
  unaryF (.vrcp o) o s (rcpF32)

/-- VRSQ (R200, R201). -/
def execVrsq (o : Operands) (s : State) : Host.Outcome State Fault Refusal :=
  unaryF (.vrsq o) o s (rsqF32)

/-- VSQRT (R200, R201). -/
def execVsqrt (o : Operands) (s : State) : Host.Outcome State Fault Refusal :=
  unaryF (.vsqrt o) o s (sqrtF32)

/-- VEXP2 (R200, R201). -/
def execVexp2 (o : Operands) (s : State) : Host.Outcome State Fault Refusal :=
  unaryF (.vexp2 o) o s (exp2F32)

/-- VLOG2 (R200, R201). -/
def execVlog2 (o : Operands) (s : State) : Host.Outcome State Fault Refusal :=
  unaryF (.vlog2 o) o s (log2F32)

/-- VSIN (R200, R201). -/
def execVsin (o : Operands) (s : State) : Host.Outcome State Fault Refusal :=
  unaryF (.vsin o) o s (trigF32 false)

/-- VCOS (R200, R201). -/
def execVcos (o : Operands) (s : State) : Host.Outcome State Fault Refusal :=
  unaryF (.vcos o) o s (trigF32 true)

/-- VDIV: correctly rounded (R200, R201). -/
def execVdiv (o : Operands) (s : State) : Host.Outcome State Fault Refusal :=
  laneOp (.vdiv o) o s (fun iss l => f32 (FVal.div (smodVal (absA o) (negA o) (ofF32 (lane32 s iss .f32 l o.a)))
    (smodVal (absB o) (negB o) (ofF32 (lane32 s iss .f32 l o.b)))))

end Sys2Proof.Machine
end

