-- ==== Sys2Proof/Machine/Convert.lean ====
section
/-! DEFINITION. Conversion, packing and quantisation (R202 to R208). -/

namespace Sys2Proof.Machine

/-- The lanes' words, and clamps counted in the classes of the formats they were made in (R70). -/
def countedOp (i : Instr) (o : Operands) (s : State) (f : Iss → Except Flt (Group × List (Nat × Nat))) : Host.Outcome State Fault Refusal :=
  issued i o s (fun iss s =>
    match f iss with
    | .error fl => .error (fl, s)
    | .ok (gr, cs) => .ok (.adv (countAll (modGroup s iss.t iss.g (fun _ => gr)) iss.t cs)))

/-! ### VCVT (R202, R203) -/

/-- Target `t` represents every value of source `s`: the conversion is exact, not narrowing (R66). -/
def widens (s t : Nat) : Bool :=
  match s with
  | 1 => t == 1
  | 2 => [1, 2].contains t
  | 3 => [1, 3].contains t
  | 4 => [1, 2, 3, 4].contains t
  | 5 => [1, 2, 3, 5].contains t
  | 6 => [1, 2, 3, 4, 6].contains t
  | 7 => [1, 2, 3, 4, 5, 7].contains t
  | 8 => [1, 2, 3, 4, 5, 6, 7, 8].contains t
  | 16 => [1, 2, 3, 16, 18, 19].contains t
  | 17 => [1, 2, 3, 17, 18, 19].contains t
  | 18 => [1, 18, 19].contains t
  | _ => s == t

/-- One element converted: its code, and whether it was clamped (R203). [MARK DEDUCED log 150] -/
def convertElem (src dst : Nat) (fmt : W32) (bits : Nat) : Nat × Bool :=
  narrow dst 8 (rndOf fmt) (satOf fmt && !widens src dst) (isIntCode src) (valueOf src 8 bits)

/-- VCVT: rnd 0b11 is not accepted (R352). [MARKS DEDUCED log 55, DESIGN CHOICE log 140] -/
def execVcvt (o : Operands) (s : State) : Host.Outcome State Fault Refusal :=
  countedOp (.vcvt o) o s (fun iss =>
    let src := mf o 54 50
    let dst := mf o 59 55
    let w := vcvtWidth src
    let ty : Ty := if src = 1 then .f32 else .i32
    if anyFmt iss (fun f => rndOf f == 3) then .error (flt0 iss 16)
    else
      let r := fun l => convertElem src dst (fmtAt iss (l / 4)) ((lane32 s iss ty l o.a).toNat / 2 ^ (w * mf o 62 60) % 2 ^ w)
      .ok (setLanes iss.gr (dstNum o.dst) iss.act (fun l => BitVec.ofNat 32 (r l).1), [(dst, ((lanes iss.act).filter (fun l => (r l).2)).length)]))

/-! ### Packing (R204) -/

/-- Register j of a vector source in lane l. -/
def vecSrc (iss : Iss) (a : Src) (j l : Nat) : W32 := match a with | .vec r => vreg iss.gr (r.toNat + j) l | _ => 0

/-- VPACK. -/
def execVpack (o : Operands) (s : State) : Host.Outcome State Fault Refusal :=
  laneOp (.vpack o) o s (fun iss l =>
    let w := packWidth o
    BitVec.ofNat 32 (((List.range (packCount o)).map (fun j => (vecSrc iss o.a j l).toNat % 2 ^ w * 2 ^ (w * j))).sum))

/-- VUNPACK. -/
def execVunpack (o : Operands) (s : State) : Host.Outcome State Fault Refusal :=
  groupEffect (.vunpack o) o s (fun iss =>
    let w := packWidth o
    .ok ((List.range (packCount o)).foldl (fun gr j => setLanes gr (dstNum o.dst + j) iss.act (fun l =>
      let f := (vecSrc iss o.a 0 l).toNat / 2 ^ (w * j) % 2 ^ w
      if mf o 53 53 = 1 then BitVec.ofInt 32 (sext w f) else BitVec.ofNat 32 f)) iss.gr))

/-! ### Quantisation (R205 to R208) -/

/-- Planes read, k (R56, R76). -/
def planesOf (fmt : W32) : Nat := Word.field fmt.toNat 19 17 + 1
/-- Planes 0 where k is read. -/
def noPlanes (fmt : W32) (code : Nat) : Bool := code == 20 && planesOf fmt == 1

/-- The formats VQUANT writes (R205), with the rounding and the planes it takes (R352). -/
def quantFmtOk (fmt : W32) : Bool :=
  let code := ofmtOf fmt
  rndOf fmt != 3 && !noPlanes fmt code && (decide (2 ≤ code ∧ code ≤ 14) || (decide (16 ≤ code ∧ code ≤ 23) && code != 21))

/-- The different fmts of the member slices, each with its lanes of a mask. [MARK DEDUCED log 168] -/
def fmtParts (iss : Iss) (m : W32) : List (W32 × W32) :=
  ((membersOf iss.q.members).map (fmtAt iss)).eraseDups.map (fun f => (f, maskOf (fun l => laneIn m l && fmtAt iss (l / 4) == f)))

/-- VQUANT under one fmt, for its lanes: the codes, the scale code of an MX block, and the clamps (R205). [MARK DEDUCED log 168] -/
def quantize (s : State) (iss : Iss) (fmt m : W32) : (Nat → Nat) × Option Nat × Nat :=
  let code := ofmtOf fmt
  let x := fun (a : Src) (l : Nat) => ofF32 (lane32 s iss .f32 l a)
  if isMx code then
    let q := mxQuant code (rndOf fmt) (satOf fmt) ((List.range 32).map (fun l => if laneIn m l then x iss.o.a l else .fin false 0 1))
    (fun l => q.2.1.getD l 0, some q.1, q.2.2)
  else
    let r := fun l => narrow code (planesOf fmt) (rndOf fmt) (satOf fmt) false (((x iss.o.a l).div (x iss.o.b l)).sub (x iss.o.c l))
    (fun l => (r l).1, none, ((lanes m).filter (fun l => (r l).2)).length)

/-- VQUANT: to a block of the group's lanes for an MX format, lane by lane otherwise; slices whose fmts differ each under their own
(R57, R205). [MARKS DEDUCED log 55, DEDUCED log 68, DEDUCED log 168] -/
def execVquant (o : Operands) (s : State) : Host.Outcome State Fault Refusal :=
  countedOp (.vquant o) o s (fun iss =>
    let d := dstNum o.dst
    if anyFmt iss (fun f => isMx (ofmtOf f)) && budgetOf iss ≤ d + 1 then .error (flt0 iss 10)
    else if anyFmt iss (fun f => !quantFmtOk f) then .error (flt0 iss 16)
    else
      let qs := (fmtParts iss iss.act).map (fun p => (p, quantize s iss p.1 p.2))
      .ok (qs.foldl (fun gr q =>
          let gr := setLanes gr d q.1.2 (fun l => BitVec.ofNat 32 (q.2.1 l))
          match q.2.2.1 with
          | some sc => setLanes gr (d + 1) q.1.2 (fun _ => BitVec.ofNat 32 sc)
          | none => gr) iss.gr,
        qs.map (fun q => (ofmtOf q.1.1, q.2.2.2))))

/-- The formats VDEQ reads (R206). -/
def deqFmtOk (fmt : W32) : Bool :=
  let code := afmtOf fmt
  !noPlanes fmt code && (decide (2 ≤ code ∧ code ≤ 14) || decide (16 ≤ code ∧ code ≤ 20) || code == 22 || code == 23)

/-- VDEQ (R206). [MARK DESIGN CHOICE log 141] -/
def execVdeq (o : Operands) (s : State) : Host.Outcome State Fault Refusal :=
  groupEffect (.vdeq o) o s (fun iss =>
    if anyFmt iss (fun f => !deqFmtOk f) then .error (flt0 iss 16)
    else .ok (setLanes iss.gr (dstNum o.dst) iss.act (fun l =>
      let fmt := fmtAt iss (l / 4)
      let code := afmtOf fmt
      let q := valueOf code (planesOf fmt) (lane32 s iss .i32 l o.a).toNat
      let b := lane32 s iss .f32 l o.b
      if isMx code then f32 (applyScale (b.toNat % 256) q)
      else f32 ((ofF32 b).mul (q.add (ofF32 (lane32 s iss .f32 l o.c)))))))

/-- VSCALE; beyond 2^400 either way every FP32 value overflows or vanishes alike (R207). -/
def execVscale (o : Operands) (s : State) : Host.Outcome State Fault Refusal :=
  laneOp (.vscale o) o s (fun iss l =>
    f32 ((ofF32 (lane32 s iss .f32 l o.a)).scale (max (-400) (min 400 (lane32 s iss .i32 l o.b).toInt))))

/-- R85: scale, zero point, and whether they were formed from the range. [MARK DEDUCED log 138] -/
def qrange (lo hi : W32) (qmin qmax : Int) : W32 × W32 × Bool :=
  let l := ofF32 lo
  let h := ofF32 hi
  let s := f32 ((h.sub l).div (.ofInt (qmax - qmin)))
  if FVal.eq l h || (ofF32 s).isZero then (f32 (.ofInt 1), lo, false)
  else (s, f32 (.ofInt (roundInt .rta (l.div (ofF32 s)) - qmin)), true)

/-- QRANGE: 0.13 for a bound that is not finite or lo > hi, then 0.16 for a code, which each slice reads for itself (R188, R208,
R366). -/
def execQrange (o : Operands) (s : State) : Host.Outcome State Fault Refusal :=
  groupEffect (.qrange o) o s (fun iss =>
    let lo := fun l => lane32 s iss .f32 l o.a
    let hi := fun l => lane32 s iss .f32 l o.b
    let code := fun i => (scal32 s iss i o.c).toNat
    let k := fun i => planesOf (fmtAt iss i)
    let bad := maskOf (fun l => laneIn iss.act l && (!(ofF32 (lo l)).isFinite || !(ofF32 (hi l)).isFinite || FVal.lt (ofF32 (hi l)) (ofF32 (lo l))))
    if bad ≠ 0 then .error { cls := 0, code := 13, mask := bad }
    else if (membersOf iss.q.members).any (fun i => !(code i == 16 || code i == 17 || (code i == 20 && k i != 1))) then .error (flt0 iss 16)
    else
      let rg := fun i => if code i = 17 then intRange 8 false else intRange (if code i = 16 then 8 else k i) true
      let r := fun l => qrange (lo l) (hi l) (rg (l / 4)).1 (rg (l / 4)).2
      let d := dstNum o.dst
      let gr := setLanes (setLanes iss.gr d iss.act (fun l => (r l).1)) (d + 1) iss.act (fun l => (r l).2.1)
      let gr := vccActive iss gr (fun l => (r l).2.2)
      .ok (setScc gr iss.q.members (fun i => (List.range 4).all (fun j => !laneIn iss.act (4 * i + j) || (r (4 * i + j)).2.2))))

end Sys2Proof.Machine
end

