-- ==== Sys2Proof/Machine/Lanes.lean ====
section
/-! DEFINITION. Lane operations (R209 to R211). -/

namespace Sys2Proof.Machine

/-- Lane l of vector source A, active or not (R190, R209). -/
def srcLane (iss : Iss) (a : Src) (l : Nat) : W32 := match a with | .vec r => vreg iss.gr r.toNat (l % 32) | _ => 0

/-- A lane operation that reads one lane of A named by source B. -/
def exchange (i : Instr) (o : Operands) (s : State) : Host.Outcome State Fault Refusal :=
  laneOp i o s (fun iss l => srcLane iss o.a ((exchangeLane i l (lane32 s iss .i32 l o.b).toNat).getD l))

/-- VLANE: within the slice (R209). -/
def execVlane (o : Operands) (s : State) : Host.Outcome State Fault Refusal := exchange (.vlane o) o s
/-- VBCAST (R209). -/
def execVbcast (o : Operands) (s : State) : Host.Outcome State Fault Refusal := exchange (.vbcast o) o s
/-- VSHUF (R209). -/
def execVshuf (o : Operands) (s : State) : Host.Outcome State Fault Refusal := exchange (.vshuf o) o s
/-- VROT (R209). -/
def execVrot (o : Operands) (s : State) : Host.Outcome State Fault Refusal := exchange (.vrot o) o s
/-- VSWZ (R209). -/
def execVswz (o : Operands) (s : State) : Host.Outcome State Fault Refusal := exchange (.vswz o) o s

/-! ### Reductions (R210) -/

/-- The identity of an operation. -/
def ropIdentity (rop : Nat) : W32 :=
  match rop with
  | 1 => 0x7FFFFFFF
  | 2 => 0x80000000
  | 3 => 0xFFFFFFFF
  | 5 => 0xFFFFFFFF
  | 8 => 0x80000000
  | 9 => 0x7F800000
  | 10 => 0xFF800000
  | _ => 0

def ropApply (rop : Nat) (a b : W32) : W32 :=
  match rop with
  | 0 => a + b
  | 1 => signedMin a b
  | 2 => signedMax a b
  | 3 => unsignedMin a b
  | 4 => unsignedMax a b
  | 5 => a &&& b
  | 6 => a ||| b
  | 7 => a ^^^ b
  | 8 => f32 ((ofF32 a).add (ofF32 b))
  | 9 => f32 ((ofF32 a).minNum (ofF32 b))
  | _ => f32 ((ofF32 a).maxNum (ofF32 b))

/-- The pairwise tree over a span of 2^n lanes from `base`. -/
def treeFold (op : W32 → W32 → W32) (v : Nat → W32) (base : Nat) : Nat → W32
  | 0 => v base
  | n + 1 => op (treeFold op v base n) (treeFold op v (base + 2 ^ n) n)

/-- The left fold over the active lanes from `base` up to, but not including, `base` + n. -/
def scanFold (op : W32 → W32 → W32) (act : Nat → Bool) (v : Nat → W32) (base : Nat) : Nat → W32 → W32
  | 0, acc => acc
  | n + 1, acc => let p := scanFold op act v base n acc; if act (base + n) then op p (v (base + n)) else p

def ropOf (o : Operands) : Nat := mf o 53 50
def bySlice (o : Operands) : Bool := mf o 55 55 == 1
/-- The first lane of a lane's span. -/
def spanBase (o : Operands) (l : Nat) : Nat := if bySlice o then 4 * (l / 4) else 0

/-- VREDUCE: a fixed tree, an inactive lane supplying the identity (R210). -/
def execVreduce (o : Operands) (s : State) : Host.Outcome State Fault Refusal :=
  laneOp (.vreduce o) o s (fun iss l =>
    treeFold (ropApply (ropOf o)) (fun j => if laneIn iss.act j then srcLane iss o.a j else ropIdentity (ropOf o)) (spanBase o l) (if bySlice o then 2 else 5))

/-- VSCAN: a fixed left fold (R210). -/
def execVscan (o : Operands) (s : State) : Host.Outcome State Fault Refusal :=
  laneOp (.vscan o) o s (fun iss l =>
    scanFold (ropApply (ropOf o)) (laneIn iss.act) (srcLane iss o.a) (spanBase o l)
      (l - spanBase o l + (if mf o 54 54 = 1 then 0 else 1)) (ropIdentity (ropOf o)))

/-! ### Votes and single lanes (R209, R211) -/

/-- VFIRST: the lowest lane set in (a AND exec), of the gang or of each slice (R209). -/
def execVfirst (o : Operands) (s : State) : Host.Outcome State Fault Refusal :=
  lmaskOp (.vfirst o) o s (fun iss l =>
    let set := fun j => laneIn iss.act j && (scal32 s iss (j / 4) o.a).getLsbD j
    let base := if mf o 50 50 = 1 then 4 * (l / 4) else 0
    set l && (List.range (l - base)).all (fun j => !set (base + j)))

/-- VBALLOT (R209). -/
def execVballot (o : Operands) (s : State) : Host.Outcome State Fault Refusal :=
  lmaskOp (.vballot o) o s (fun iss l => srcLane iss o.a l != 0)

/-- VREADL (R209). -/
def execVreadl (o : Operands) (s : State) : Host.Outcome State Fault Refusal :=
  groupEffect (.vreadl o) o s (fun iss => .ok (sliceWrite iss (fun i => (srcLane iss o.a (scal32 s iss i o.b).toNat, none))))

/-- VWRITEL (R211). -/
def execVwritel (o : Operands) (s : State) : Host.Outcome State Fault Refusal :=
  groupEffect (.vwritel o) o s (fun iss => .ok (setLanes iss.gr (dstNum o.dst) (writtenLanes s iss o.b) (fun l => scal32 s iss (l / 4) o.a)))

/-- VUNIF: the value of the lowest active lane, and whether all active lanes agree (R211). -/
def execVunif (o : Operands) (s : State) : Host.Outcome State Fault Refusal :=
  groupEffect (.vunif o) o s (fun iss =>
    let v := match lowest iss.act with | some l => srcLane iss o.a l | none => 0
    .ok (sliceWrite iss (fun _ => (v, some ((lanes iss.act).all (fun l => srcLane iss o.a l == v))))))

end Sys2Proof.Machine
end

