-- ==== Sys2Proof/Machine/Sampler.lean ====
section
/-! DEFINITION. The sampler path (R106, R131, R227 to R230). -/

namespace Sys2Proof.Machine

/-- Component bytes of a format the sampler accepts (R227). -/
def componentBytes (format : Nat) : Option Nat :=
  match format with
  | 1 => some 4 | 2 => some 2 | 3 => some 2 | 4 => some 1 | 5 => some 1 | 22 => some 1 | 23 => some 1 | _ => none

/-- Components of a texel, 1 to 4, of a record the sampler can take (R227). [MARK DEDUCED log 160] -/
def components (r : BufRec) : Option Nat :=
  match componentBytes r.format with
  | some b => let ne := 2 ^ r.esz / b; if r.twoD && !r.cmp && 1 ≤ ne && ne ≤ 4 then some ne else none
  | none => none

/-- A coordinate wrapped into 0 to n - 1; none outside a record with a border (R228). -/
def wrapped (mode n : Nat) (i : Int) : Option Nat :=
  match mode with
  | 0 => some (max 0 (min ((n : Int) - 1) i)).toNat
  | 1 => some (i % (n : Int)).toNat
  | 2 => let m := (i % (2 * n : Int)).toNat; some (if m < n then m else 2 * n - 1 - m)
  | _ => if 0 ≤ i ∧ i < n then some i.toNat else none

/-- The address of texel (i, j), none under a border. -/
def texelAddr (r : BufRec) (mode : Nat) (i j : Int) : Option Nat :=
  match wrapped mode (r.extent % 65536) i, wrapped mode (r.extent / 65536) j with
  | some x, some y => some (element r (x + 65536 * y)).2
  | _, _ => none

/-- The taps of a sample: coordinates and weight (R228). None when the coordinates have no value.
[MARKS DESIGN CHOICE log 56, DEDUCED log 151] -/
def tapsOf (r : BufRec) (lin : Bool) (u v : W32) (dx dy : Int) : Option (List (Int × Int × Nat)) :=
  let w := r.extent % 65536
  let h := r.extent / 65536
  let x := f32 ((ofF32 u).mul (.ofInt w))
  let y := f32 ((ofF32 v).mul (.ofInt h))
  let half := FVal.fin false 1 2
  let x := if lin then f32 ((ofF32 x).sub half) else x
  let y := if lin then f32 ((ofF32 y).sub half) else y
  let xv := ofF32 x
  let yv := ofF32 y
  if w = 0 ∨ h = 0 ∨ !xv.isFinite ∨ !yv.isFinite then none
  else
    let i0 := xv.floorInt + dx
    let j0 := yv.floorInt + dy
    if lin then
      let frac := fun (z : FVal) => (roundInt .rne ((z.sub (.ofInt z.floorInt)).mul (.ofInt 256))).toNat
      let fx := frac xv
      let fy := frac yv
      some [(i0, j0, (256 - fx) * (256 - fy)), (i0 + 1, j0, fx * (256 - fy)), (i0, j0 + 1, (256 - fx) * fy), (i0 + 1, j0 + 1, fx * fy)]
    else some [(i0, j0, 65536)]

/-- The values of a line that the sampler cache still serves (R106, R131). [MARK DESIGN CHOICE log 15] -/
def samplerLine (s : State) (w : Who) (line : Nat) : List (List Byte) :=
  match mget (coreOf s w.core).sampler (l1Key w line) with
  | some vs => if Config.cacheKeeps 1 s.cycle.toNat line then vs else []
  | none => []

/-- Which value a sampler read takes for the 4-byte element at `a`: one that the cache holds, or none for the home segment's
(R131). [MARK DESIGN CHOICE log 143] -/
def samplerFrom (s : State) (w : Who) (a : Nat) : Option (List Byte) :=
  let vs := samplerLine s w (lineOf a)
  vs[Config.samplerPick s.cycle.toNat (a / 4) % (vs.length + (if isPeer a && vs != [] then 0 else 1))]?

/-- What a lane's sample reads: its record, wrap, and taps, none for a coordinate that is not finite. -/
structure LaneTaps where
  lane : Nat
  r : BufRec
  taps : List (Int × Int × Nat)
  deriving DecidableEq, Repr

/-- The texel reads of one instruction: bounds, translation, then the values of the cache or of the home segments.
[MARKS DEDUCED log 57, DEDUCED log 151] -/
def sampleReads (s : State) (iss : Iss) (wrap : Nat) (ts : List LaneTaps) (f : (BufRec → Int → Int → Nat → FVal) → List (Nat × W32)) : Res :=
  let w := whoOf iss.tm
  let addrs := ts.flatMap (fun t => t.taps.filterMap (fun p => (texelAddr t.r wrap p.1 p.2.1).map (fun a => (t.lane, t.r.esz, a))))
  let offs := (addrs.filter (fun a => a.2.2 % 2 ^ a.2.1 != 0)).map (fun a => (a.1, Reach.off 3 a.2.2))
  let offLane := fun l => offs.any (fun x => x.1 == l)
  bounds s iss (((lanes iss.act).filter offLane).filterMap (fun l => offs.find? (fun x => x.1 == l))) (fun s _ _ =>
    let ls := (addrs.filter (fun a => !offLane a.1)).map (fun a => (a.1, a.2.2))
    match translateLanes s iss .read false 0 ls with
    | .error e => memStop s iss e
    | .ok xs =>
      let s := xs.foldl (fun s x => tlbNote s w x.va) s
      let size := fun (x : LaneX) => ((ts.filter (fun t => t.lane == x.lane)).map (fun t => 2 ^ t.r.esz)).foldl max 1
      let reads := (xs.flatMap (fun x => (List.range (size x)).map (fun i => x.pa + i))).eraseDups
      let far := reads.filter (fun a => (samplerFrom s w a).isNone)
      let missing := (far.map lineOf).eraseDups
      let peers := missing.filter (fun l => isPeer (128 * l))
      match far.findSome? (fun a => match mget s.lost (lineOf a) with
          | some m => if m.getLsbD (a % 128 / 32) then some (128 * lineOf a, m) else none
          | none => none) with
      | some (a, m) => .ok (.stay (chargeData s iss.t iss.g iss.q.members iss.pc (sliceOf iss.gr iss.k).rentry 8 2 a (m.setWidth 32)))
      | none =>
        if peers ≠ [] then fetchLines s iss true (peers.map (fun l => (l, [])))
        else
          let bytesAt := fun a => match samplerFrom s w a with
            | some bs => bs.getD (a % 128) 0
            | none => homeByte s w.ctx a
          let texel := fun (r : BufRec) i j c =>
            match texelAddr r wrap i j with
            | none => FVal.fin false 0 1
            | some va =>
              let cb := (componentBytes r.format).getD 1
              match xs.find? (fun x => x.va == va) with
              | some x => valueOf r.format 8 (leNat ((List.range cb).map (fun k => bytesAt (x.pa + cb * c + k))))
              | none => FVal.fin false 0 1
          let waits := missing.filter (fun l => (mget s.l2 l).isNone)
          let vals := (f texel).filter (fun v => !offLane (v.1 % 32))
          fillFirst s iss true (blocksOf xs) waits fun s =>
          let s := dropFetched s iss
          .ok (.adv (addReturn s iss .vector true { vals := vals, late := [], fill := missing, lines := waits, peers := [] } (blocksOf xs) 0).2))

/-- The exact sum over taps of weight times component, over 65,536 (R228). -/
def filtered (texel : Int → Int → Nat → FVal) (taps : List (Int × Int × Nat)) (c : Nat) : FVal :=
  (taps.filter (fun p => p.2.2 != 0)).foldl (fun s p => s.add ((FVal.ofInt p.2.2).mul (texel p.1 p.2.1 c))) (.fin true 0 1)

def wrapOf (o : Operands) : Nat := mf o 60 59

/-- A uniform texel offset: signed 16-bit dx and dy (R227). -/
def texelOffset (v : W32) : Int × Int := (sext 16 v.toNat, sext 16 (v.toNat / 65536))

/-- The record of a sampler instruction before its conditions are tested (R354); none without an effect. -/
def sampleRecord (s : State) (iss : Iss) (a : Src) : Except Flt (Option ((Nat → Nat) × BufRec)) :=
  (recordWords s iss a).map (fun d => d.map (fun d => (d, recordOf (d 0) (d 1) (d 2) (d 3))))

/-- The record, its components, and the offset of a sampler instruction; `more` gives the conditions of its own, in the order of
R354 (R227). [MARKS DEDUCED log 68, DEDUCED log 137] -/
def samplerOp (i : Instr) (o : Operands) (s : State) (more : Iss → Nat → Option Flt) (f : Iss → BufRec → Nat → Int → Int → State → Res) :
    Host.Outcome State Fault Refusal :=
  issued i o s (fun iss s =>
    if iss.act == 0 then .ok (.adv s)
    else
      let off := if o.form = .f128c then uniform32 s iss o.d else .ok (some 0)
      match sampleRecord s iss o.a with
      | .error fl => .error (((firstFlt [some fl, fltOf off]).getD fl), s)
      | .ok none => .ok (.adv s)
      | .ok (some (d, r)) =>
        match firstFlt [fltOf (checkRecord iss d), (components r).bind (more iss), fltIf iss (components r).isNone 16, fltOf off] with
        | some fl => .error (fl, s)
        | none =>
          let v := match off with | .ok (some v) => texelOffset v | _ => (0, 0)
          f iss r ((components r).getD 0) v.1 v.2 s)

/-- The coordinates of a lane. -/
def coordU (s : State) (iss : Iss) (l : Nat) : W32 := lane32 s iss .f32 l iss.o.b
def coordV (s : State) (iss : Iss) (l : Nat) : W32 := lane32 s iss .f32 l iss.o.c
def finiteUV (s : State) (iss : Iss) (l : Nat) : Bool := (ofF32 (coordU s iss l)).isFinite && (ofF32 (coordV s iss l)).isFinite

/-- The taps of each active lane with finite coordinates. -/
def lanesTaps (s : State) (iss : Iss) (r : BufRec) (lin : Bool) (dx dy : Int) : List LaneTaps :=
  (lanes iss.act).filterMap (fun l =>
    if finiteUV s iss l then (tapsOf r lin (coordU s iss l) (coordV s iss l) dx dy).map (fun t => { lane := l, r := r, taps := t }) else none)

/-- A component's word in a lane: NaN for coordinates that are not finite, a free value for those without a texel.
[MARK DESIGN CHOICE log 56] -/
def sampleWord (s : State) (iss : Iss) (ts : List LaneTaps) (l c : Nat) (f : LaneTaps → W32) : W32 :=
  if !finiteUV s iss l then 0x7FC00000
  else match ts.find? (fun t => t.lane == l) with
    | some t => f t
    | none => Config.freeTexel (coordU s iss l) (coordV s iss l) c

/-- VSAMPLE (R228). [MARK DEDUCED log 55] -/
def execVsample (o : Operands) (s : State) : Host.Outcome State Fault Refusal :=
  samplerOp (.vsample o) o s (fun iss ne => fltIf iss (decide (budgetOf iss < dstNum o.dst + ne)) 10) (fun iss r ne dx dy s =>
      let d := dstNum o.dst
      let ts := lanesTaps s iss r (mf o 58 58 == 1) dx dy
      sampleReads s iss (wrapOf o) ts (fun texel => (lanes iss.act).flatMap (fun l => (List.range ne).map (fun c =>
        (32 * (d + c) + l, sampleWord s iss ts l c (fun t => f32 ((filtered (texel r) t.taps c).scale (-16))))))))

/-- VGATHER4: one component of the four bilinear taps (R229). -/
def execVgather4 (o : Operands) (s : State) : Host.Outcome State Fault Refusal :=
  samplerOp (.vgather4 o) o s (fun iss ne => fltIf iss (decide (ne ≤ mf o 57 56)) 16) (fun iss r _ dx dy s =>
      let d := dstNum o.dst
      let c := mf o 57 56
      let ts := lanesTaps s iss r true dx dy
      sampleReads s iss (wrapOf o) ts (fun texel => (lanes iss.act).flatMap (fun l => (List.range 4).map (fun j =>
        (32 * (d + j) + l, sampleWord s iss ts l c (fun t => match t.taps[j]? with | some p => f32 (texel r p.1 p.2.1 c) | none => 0))))))

/-- The record after A: b(k+1), or the next four dwords (R229). [MARK DESIGN CHOICE log 154] -/
def nextRecord (s : State) (iss : Iss) (a : Src) : Except Flt (Option ((Nat → Nat) × BufRec)) :=
  let next := fun (n : BitVec 11) (top : Nat) => if top < n.toNat + 8 then none else some (n + 4)
  match a with
  | .scal n => match next n 64 with | some m => sampleRecord s iss (.scal m) | none => .error (flt0 iss 7)
  | .const n => match next n 2048 with | some m => sampleRecord s iss (.const m) | none => .error (flt0 iss 7)
  | .vec _ => do
    match ← uniform32 s iss a with
    | none => .ok none
    | some v => match next (v.setWidth 11) 2048 with | some m => sampleRecord s iss (.const m) | none => .error (flt0 iss 7)
  | .lit _ => .error (flt0 iss 7)

/-- VSAMPLEL: the blend of two levels (R229). [MARK DEDUCED log 152] -/
def execVsamplel (o : Operands) (s : State) : Host.Outcome State Fault Refusal :=
  issued (.vsamplel o) o s (fun iss s =>
    if iss.act == 0 then .ok (.adv s)
    else
      let n := nextRecord s iss o.a
      match sampleRecord s iss o.a with
      | .error fl => .error ((firstFlt [some fl, fltOf n]).getD fl, s)
      | .ok none => .ok (.adv s)
      | .ok (some (d0, r0)) =>
        let d := dstNum o.dst
        let ne := components r0
        let r1 := match n with | .ok (some x) => some x | _ => none
        let ne1 := r1.bind (fun x => components x.2)
        match firstFlt [fltOf (checkRecord iss d0), fltOf n, r1.bind (fun x => fltOf (checkRecord iss x.1)),
            ne.bind (fun ne => fltIf iss (decide (budgetOf iss < d + ne)) 10),
            fltIf iss (ne.isNone || (r1.isSome && ne1.isNone) || decide (r1.isSome ∧ ne1.getD 0 < ne.getD 0)) 16] with
        | some fl => .error (fl, s)
        | none =>
          let r1 := match r1 with | some x => x.2 | none => r0
          let t0 := lanesTaps s iss r0 true 0 0
          let t1 := lanesTaps s iss r1 true 0 0
          let both := (lanes iss.act).flatMap (fun l => (t0 ++ t1).filter (fun t => t.lane == l))
          sampleReads s iss (wrapOf o) both (fun texel => (lanes iss.act).flatMap (fun l => (List.range (ne.getD 0)).map (fun c =>
            let fv := ofF32 (lane32 s iss .f32 l o.d)
            let one := FVal.fin false 1 1
            let zero := FVal.fin false 0 1
            let fr := (roundInt .rne ((FVal.minNum one (FVal.maxNum zero fv)).mul (.ofInt 256)))
            (32 * (d + c) + l, sampleWord s iss t0 l c (fun x => sampleWord s iss t1 l c (fun y =>
              if fv.isNan then Config.freeTexel (coordU s iss l) (coordV s iss l) c
              else f32 ((((FVal.ofInt (256 - fr)).mul (filtered (texel r0) x.taps c)).add
                ((FVal.ofInt fr).mul (filtered (texel r1) y.taps c))).scale (-24)))))))))

end Sys2Proof.Machine
end

