-- ==== Sys2Proof/Machine/Scalar.lean ====
section
/-! DEFINITION. The scalar, scalar 64-bit and mask instructions (R183 to R187). -/

namespace Sys2Proof.Machine

/-- A class-0x1 instruction: per member slice a result of sources a, b, c and what it does to scc (R171, R183). -/
def scalarOp (i : Instr) (o : Operands) (s : State) (f : W32 → W32 → W32 → W32 × Option Bool) :
    Host.Outcome State Fault Refusal :=
  groupEffect i o s (fun iss => .ok (sliceWrite iss (fun j => f (scal32 s iss j o.a) (scal32 s iss j o.b) (scal32 s iss j o.c))))

/-- A 64-bit scalar instruction: sources a and b of 64 bits, and b read as the 32-bit count of a shift (R186). -/
def scalarOp64 (i : Instr) (o : Operands) (s : State) (f : W64 → W64 → W32 → W64 × Option Bool) :
    Host.Outcome State Fault Refusal :=
  groupEffect i o s (fun iss => .ok (sliceWrite64 iss (fun j => f (scal64 s iss j o.a) (scal64 s iss j o.b) (scal32 s iss j o.b))))

/-- SMOV (R183). -/
def execSmov (o : Operands) (s : State) : Host.Outcome State Fault Refusal :=
  scalarOp (.smov o) o s (fun a _ _ => (a, none))

/-- SADD: the sum, scc the carry (R183). -/
def execSadd (o : Operands) (s : State) : Host.Outcome State Fault Refusal :=
  scalarOp (.sadd o) o s (fun a b _ => (a + b, some (carryOut a b)))

/-- SSUB: the difference, scc the borrow (R183). -/
def execSsub (o : Operands) (s : State) : Host.Outcome State Fault Refusal :=
  scalarOp (.ssub o) o s (fun a b _ => (a - b, some (borrow a b)))

/-- SMUL (R183). -/
def execSmul (o : Operands) (s : State) : Host.Outcome State Fault Refusal :=
  scalarOp (.smul o) o s (fun a b _ => (a * b, none))

/-- SMULHI: bits [63:32] of the signed product (R183). -/
def execSmulhi (o : Operands) (s : State) : Host.Outcome State Fault Refusal :=
  scalarOp (.smulhi o) o s (fun a b _ => (BitVec.ofInt 32 (a.toInt * b.toInt / 2 ^ 32), none))

/-- SMULHU: bits [63:32] of the unsigned product (R183). -/
def execSmulhu (o : Operands) (s : State) : Host.Outcome State Fault Refusal :=
  scalarOp (.smulhu o) o s (fun a b _ => (BitVec.ofNat 32 (a.toNat * b.toNat / 2 ^ 32), none))

/-- SAND: scc := d ≠ 0 (R183). -/
def execSand (o : Operands) (s : State) : Host.Outcome State Fault Refusal :=
  scalarOp (.sand o) o s (fun a b _ => let r := a &&& b; (r, some (nonZero r)))

/-- SOR: scc := d ≠ 0 (R183). -/
def execSor (o : Operands) (s : State) : Host.Outcome State Fault Refusal :=
  scalarOp (.sor o) o s (fun a b _ => let r := a ||| b; (r, some (nonZero r)))

/-- SXOR: scc := d ≠ 0 (R183). -/
def execSxor (o : Operands) (s : State) : Host.Outcome State Fault Refusal :=
  scalarOp (.sxor o) o s (fun a b _ => let r := a ^^^ b; (r, some (nonZero r)))

/-- SANDN: scc := d ≠ 0 (R183). -/
def execSandn (o : Operands) (s : State) : Host.Outcome State Fault Refusal :=
  scalarOp (.sandn o) o s (fun a b _ => let r := a &&& ~~~b; (r, some (nonZero r)))

/-- SSHL: scc := d ≠ 0 (R183). -/
def execSshl (o : Operands) (s : State) : Host.Outcome State Fault Refusal :=
  scalarOp (.sshl o) o s (fun a b _ => let r := a <<< (b.toNat % 32); (r, some (nonZero r)))

/-- SSHR: scc := d ≠ 0 (R183). -/
def execSshr (o : Operands) (s : State) : Host.Outcome State Fault Refusal :=
  scalarOp (.sshr o) o s (fun a b _ => let r := a >>> (b.toNat % 32); (r, some (nonZero r)))

/-- SSRA: scc := d ≠ 0 (R183). -/
def execSsra (o : Operands) (s : State) : Host.Outcome State Fault Refusal :=
  scalarOp (.ssra o) o s (fun a b _ => let r := a.sshiftRight (b.toNat % 32); (r, some (nonZero r)))

/-- SMIN (R183). -/
def execSmin (o : Operands) (s : State) : Host.Outcome State Fault Refusal :=
  scalarOp (.smin o) o s (fun a b _ => (signedMin a b, none))

/-- SMAX (R183). -/
def execSmax (o : Operands) (s : State) : Host.Outcome State Fault Refusal :=
  scalarOp (.smax o) o s (fun a b _ => (signedMax a b, none))

/-- SMINU (R183). -/
def execSminu (o : Operands) (s : State) : Host.Outcome State Fault Refusal :=
  scalarOp (.sminu o) o s (fun a b _ => (unsignedMin a b, none))

/-- SMAXU (R183). -/
def execSmaxu (o : Operands) (s : State) : Host.Outcome State Fault Refusal :=
  scalarOp (.smaxu o) o s (fun a b _ => (unsignedMax a b, none))

/-- SCMP writes only scc (R183, R184). -/
def execScmp (o : Operands) (s : State) : Host.Outcome State Fault Refusal :=
  groupEffect (.scmp o) o s (fun iss => .ok (setScc iss.gr iss.q.members (fun i =>
    condHolds (mf o 60 57) (mf o 52 50 == 0) (scal32 s iss i o.a) (scal32 s iss i o.b))))

/-- SSEL (R183). -/
def execSsel (o : Operands) (s : State) : Host.Outcome State Fault Refusal :=
  scalarOp (.ssel o) o s (fun a b c => (if c ≠ 0 then a else b, none))

/-- SBFE (R183, R185). -/
def execSbfe (o : Operands) (s : State) : Host.Outcome State Fault Refusal :=
  scalarOp (.sbfe o) o s (fun a b c => (bitExtract (mf o 50 50 == 1) a b c, none))

/-- SBFI (R183, R185). -/
def execSbfi (o : Operands) (s : State) : Host.Outcome State Fault Refusal :=
  scalarOp (.sbfi o) o s (fun a b c => (bitInsert a b c, none))

/-- SCLZ (R183). -/
def execSclz (o : Operands) (s : State) : Host.Outcome State Fault Refusal :=
  scalarOp (.sclz o) o s (fun a _ _ => (leadingZeros a, none))

/-- SPOPC: scc := d ≠ 0 (R183). -/
def execSpopc (o : Operands) (s : State) : Host.Outcome State Fault Refusal :=
  scalarOp (.spopc o) o s (fun a _ _ => let r := popCount a; (r, some (nonZero r)))

/-- SFF1: scc := a ≠ 0 (R183). -/
def execSff1 (o : Operands) (s : State) : Host.Outcome State Fault Refusal :=
  scalarOp (.sff1 o) o s (fun a _ _ => (firstSet a, some (nonZero a)))

/-- SDIVU: scc := b ≠ 0 (R183). -/
def execSdivu (o : Operands) (s : State) : Host.Outcome State Fault Refusal :=
  scalarOp (.sdivu o) o s (fun a b _ => (if b = 0 then 0xFFFFFFFF else a / b, some (nonZero b)))

/-- SREMU: scc := b ≠ 0 (R183). -/
def execSremu (o : Operands) (s : State) : Host.Outcome State Fault Refusal :=
  scalarOp (.sremu o) o s (fun a b _ => (if b = 0 then a else a % b, some (nonZero b)))

/-- SBREV (R183). -/
def execSbrev (o : Operands) (s : State) : Host.Outcome State Fault Refusal :=
  scalarOp (.sbrev o) o s (fun a _ _ => (bitReverse a, none))

/-- SADD64: scc the carry out of bit 63 (R186). -/
def execSadd64 (o : Operands) (s : State) : Host.Outcome State Fault Refusal :=
  scalarOp64 (.sadd64 o) o s (fun a b _ => (a + b, some (carryOut a b)))

/-- SSUB64: scc the borrow (R186). -/
def execSsub64 (o : Operands) (s : State) : Host.Outcome State Fault Refusal :=
  scalarOp64 (.ssub64 o) o s (fun a b _ => (a - b, some (borrow a b)))

/-- SMUL64 (R186). -/
def execSmul64 (o : Operands) (s : State) : Host.Outcome State Fault Refusal :=
  scalarOp64 (.smul64 o) o s (fun a b _ => (a * b, none))

/-- SSHL64 by a 32-bit count modulo 64 (R186). -/
def execSshl64 (o : Operands) (s : State) : Host.Outcome State Fault Refusal :=
  scalarOp64 (.sshl64 o) o s (fun a _ n => let r := a <<< (n.toNat % 64); (r, some (nonZero r)))

/-- SSHR64 (R186). -/
def execSshr64 (o : Operands) (s : State) : Host.Outcome State Fault Refusal :=
  scalarOp64 (.sshr64 o) o s (fun a _ n => let r := a >>> (n.toNat % 64); (r, some (nonZero r)))

/-- SCMP64 writes only scc (R186, R184). -/
def execScmp64 (o : Operands) (s : State) : Host.Outcome State Fault Refusal :=
  groupEffect (.scmp64 o) o s (fun iss => .ok (setScc iss.gr iss.q.members (fun i =>
    condHolds (mf o 60 57) (mf o 52 50 == 0) (scal64 s iss i o.a) (scal64 s iss i o.b))))

/-- SMOV64 (R186). -/
def execSmov64 (o : Operands) (s : State) : Host.Outcome State Fault Refusal :=
  scalarOp64 (.smov64 o) o s (fun a _ _ => (a, none))

/-! ### Mask instructions (R187) -/

/-- exec set per slice from the old exec and source A, which is read once d has been written; scc := the new exec ≠ 0 in every
member. -/
def maskOp (s : State) (iss : Iss) (writeD : Bool) (v : (old a : W32) → W32) : Group :=
  let m := iss.q.members
  let old := gangExec iss.gr m
  let gr := if writeD then setScalar iss.gr m (dstNum iss.o.dst) (fun _ => old) else iss.gr
  let gr := setExec gr m (fun i => v old (scal32 s { iss with gr := gr } i iss.o.a))
  let now := gangExec gr m
  let gr' := setScc gr m (fun _ => nonZero now)
  -- a destination scc replaces the scc effect (R171)
  if writeD && dstNum iss.o.dst == 66 then setScc gr' m (fun _ => old.getLsbD 0) else gr'

/-- MSAVE: d := exec; exec := exec AND a (R187). -/
def execMsave (o : Operands) (s : State) : Host.Outcome State Fault Refusal :=
  groupEffect (.msave o) o s (fun iss => .ok (maskOp s iss true (fun old a => old &&& a)))

/-- MSET: exec := a (R187). -/
def execMset (o : Operands) (s : State) : Host.Outcome State Fault Refusal :=
  groupEffect (.mset o) o s (fun iss => .ok (maskOp s iss false (fun _ a => a)))

/-- MNOT: d := exec; exec := a AND NOT exec (R187). -/
def execMnot (o : Operands) (s : State) : Host.Outcome State Fault Refusal :=
  groupEffect (.mnot o) o s (fun iss => .ok (maskOp s iss true (fun old a => a &&& ~~~old)))

/-- MCOUNT: d := popcount(a AND exec), scc := d ≠ 0 (R187). -/
def execMcount (o : Operands) (s : State) : Host.Outcome State Fault Refusal :=
  groupEffect (.mcount o) o s (fun iss => .ok (sliceWrite iss (fun i =>
    let r := popCount (scal32 s iss i o.a &&& gangExec iss.gr iss.q.members); (r, some (nonZero r)))))

end Sys2Proof.Machine
end

