-- ==== Sys2Proof/Machine/Scratch.lean ====
section
/-! DEFINITION. On-core stores: scratchpad with its object bits and barrier objects (R102, R124, R220, R236, R237, R418, R419),
accumulator tiles (R103, R221), constant-bank loads (R223) and scratchpad atomics (R225). -/

namespace Sys2Proof.Machine

/-! ### Scratchpad -/

/-- A byte of scratchpad: what was last written, or a free value (R48). [MARK DESIGN CHOICE log 62] -/
def scratchByte (tm : Team) (off : Nat) : Byte := (mget tm.scratch off).getD (Config.freeScratch tm.scratchNonce off)
def scratchBytes (tm : Team) (off n : Nat) : List Byte := (List.range n).map (fun i => scratchByte tm (off + i))
def scratchWord (tm : Team) (off : Nat) : W32 := BitVec.ofNat 32 (leNat (scratchBytes tm off 4))

/-- The fields of a barrier object (R236). -/
structure BarObj where
  expected : Nat
  arrived : Nat
  pending : Nat
  initial : Nat
  phase : Bool
  deriving DecidableEq, Repr

def objAt (tm : Team) (off : Nat) : BarObj :=
  let w := fun j => (scratchWord tm (off + 4 * j)).toNat
  { expected := w 0, arrived := w 1, pending := w 2 % 65536, initial := w 2 / 65536, phase := Word.bit (w 3) 0 }

def objBytes (b : BarObj) : List Byte :=
  bytesOf 4 b.expected ++ bytesOf 4 b.arrived ++ bytesOf 2 b.pending ++ bytesOf 2 b.initial ++ bytesOf 4 (if b.phase then 1 else 0)

/-- A delivery's 48-bit destination names an object of a team (R273). -/
def destNames (handle off layout : Nat) : Bool :=
  layout / 2 ^ 46 % 4 == 2 && Word.field layout 45 32 == handle && 16 * Word.field layout 31 16 == off

/-- Does a copy or delivery under way name the object (R418)? -/
def objNamed (s : State) (t : Nat) (tm : Team) (off : Nat) : Bool :=
  ((coreOf s tm.core).copies ++ tm.savedCopies).any (fun c => c.team == t && !c.landed && c.done == .object off) ||
  s.entries.any (fun e => e.ctx == tm.ctx && e.dests.any (fun d => destNames tm.handle off d.2))

/-- R418: a live object. -/
def objLive (s : State) (t : Nat) (tm : Team) (off : Nat) : Bool :=
  let b := objAt tm off
  (mget tm.objs (off / 16)).isSome && (b.pending != b.initial || b.expected != 0 || b.arrived != 0 || objNamed s t tm off)

/-- The first live object a write would land on (5.7), and its object bits cleared otherwise (R418). -/
def liveHit (s : State) (t : Nat) (tm : Team) (offs : List Nat) : Option Nat :=
  ((offs.map (fun o => o / 16)).eraseDups.map (fun g => 16 * g)).find? (fun o => objLive s t tm o)

/-- Bytes written to scratchpad (offset, byte): the bits of objects that are not live are cleared. [MARK DEDUCED log 63] -/
def scratchPut (s : State) (t : Nat) (ps : List (Nat × Byte)) : State :=
  modTeam s t (fun tm => { tm with
    objs := (ps.map (fun p => p.1 / 16)).foldl mdel tm.objs
    bad := tm.bad.filter (fun b => !(b.1 == 3 && (List.range 4).all (fun i => ps.any (fun p => p.1 == 4 * b.2 + i))))
    scratch := ps.foldl (fun m p => mput m p.1 p.2) tm.scratch })

/-- The record of 5.7, with the program counter of the instruction concerned, a store among them (R414). -/
def liveRecord (tm : Team) (off : Nat) (pc : W64) : RecIn :=
  let b := objAt tm off
  { cls := 5, code := 7, addr := BitVec.ofNat 64 off, detail := some (BitVec.ofNat 32 (b.pending * 65536 + b.arrived % 65536)), pc := pc }

/-- A scratchpad write by an instruction: 5.7 on a live object, otherwise done (R418). [MARK DEDUCED log 63] -/
def scratchStore (s : State) (iss : Iss) (ps : List (Nat × Byte)) : State :=
  match teamOf s iss.t with
  | none => s
  | some tm =>
    match liveHit s iss.t tm (ps.map Prod.fst) with
    | some o =>
      let r := liveRecord tm o iss.pc
      faultTeam s iss.t iss.g { r with detail := r.detail.map (handlerDetail iss.gr iss.k) }
    | none => scratchPut s iss.t ps

/-- The team's abort began within the instruction. -/
def aborting (s : State) (t : Nat) : Bool := match teamOf s t with | some tm => tm.ending | none => true
/-- Goes on, unless the instruction's effect aborted its team. -/
def goOn (s : State) (iss : Iss) : Eff := if aborting s iss.t then .stay s else .adv s

/-- A damaged scratchpad word among bytes read (R406). [MARK DESIGN CHOICE log 40] -/
def badScratch (tm : Team) (offs : List Nat) : Bool := tm.bad.any (fun b => b.1 == 3 && offs.any (fun o => o / 4 == b.2))
/-- A damaged scratchpad word of which a write covers a part only: it is read (R406). [MARK DESIGN CHOICE log 40] -/
def badPart (tm : Team) (offs : List Nat) : Bool :=
  tm.bad.any (fun b => b.1 == 3 && offs.any (fun o => o / 4 == b.2) && !(List.range 4).all (fun i => offs.contains (4 * b.2 + i)))
def flt84 (iss : Iss) (d : Nat) : Flt := { cls := 8, code := 4, mask := iss.act, detail := some (BitVec.ofNat 32 d) }

/-- A scratchpad access of a lane: beyond the allocation (2.2), then misaligned (2.3) (R102, R353). -/
def scratchReach (tm : Team) (width a : Nat) : Reach :=
  if tm.scratchBytes ≤ a then .off 2 a else if a % width ≠ 0 then .off 3 a else .at a

/-- The lanes' offsets, or the stop of an issue-kind instruction. -/
def scratchLanes (s : State) (iss : Iss) (width : Nat) (addr : Nat → Nat) (f : State → List (Nat × Nat) → Res) : Res :=
  bounds s iss ((actLanes iss).map (fun l => (l, scratchReach iss.tm width (addr l % 2 ^ 32)))) (fun s ls _ => f s ls)

/-- Loads from scratchpad of words per lane (R220). [MARK DEDUCED log 63] -/
def scratchLoad (i : Instr) (o : Operands) (s : State) : Host.Outcome State Fault Refusal :=
  issued i o s (fun iss s =>
    let nb := widthBytes (widthOf o)
    scratchLanes s iss nb (fun l => (lane32 s iss .i32 l o.a).toNat + (lane32 s iss .i32 l o.b).toNat) (fun s ls =>
      if badScratch iss.tm (ls.flatMap (fun x => (List.range nb).map (fun i => x.2 + i))) then .error (flt84 iss 3, s)
      else
        let word := fun off j => wordOf (mf o 59 59) (min nb 4) (scratchBytes iss.tm (off + 4 * j) (min nb 4))
        .ok (.adv (modGroup s iss.t iss.g (fun gr => ls.foldl (fun gr x => (List.range (widthRegs o)).foldl (fun gr j =>
          if iss.sg.kind == .lane then setVreg gr (dstNum o.dst + j) x.1 (word x.2 j)
          else issueWrite iss gr (dstNum o.dst + j) (word x.2 j)) gr) gr)))))

/-- VLDS (R220). -/
def execVlds (o : Operands) (s : State) : Host.Outcome State Fault Refusal := scratchLoad (.vlds o) o s
/-- SLDS (R220). -/
def execSlds (o : Operands) (s : State) : Host.Outcome State Fault Refusal := scratchLoad (.slds o) o s

/-- The offset added in the F96L form of a scratchpad store (R220). -/
def litOfs (o : Operands) : Nat := if o.form = .f96l then o.lit.toNat % 2 ^ 32 else 0

/-- Stores to scratchpad; the higher lane wins a byte (R220). -/
def scratchStoreOp (i : Instr) (o : Operands) (s : State) : Host.Outcome State Fault Refusal :=
  issued i o s (fun iss s =>
    let nb := widthBytes (widthOf o)
    scratchLanes s iss nb (fun l => (lane32 s iss .i32 l o.a).toNat + litOfs o) (fun s ls =>
      let ps := ls.foldl (fun (m : Map Byte) x => (pairsAt x.2 ((dataBytes s iss x.1 (widthRegs o) o.b).take nb)).foldl (fun m p => mput m p.1 p.2) m) []
      if badPart iss.tm (ps.map Prod.fst) then .error (flt84 iss 3, s) else .ok (goOn (scratchStore s iss ps) iss)))

/-- VSTS (R220). -/
def execVsts (o : Operands) (s : State) : Host.Outcome State Fault Refusal := scratchStoreOp (.vsts o) o s
/-- SSTS (R220). -/
def execSsts (o : Operands) (s : State) : Host.Outcome State Fault Refusal := scratchStoreOp (.ssts o) o s

/-- VATOMS: one lane at a time, in ascending order (R225); an acquire is at .CORE at most. -/
def execVatoms (o : Operands) (s : State) : Host.Outcome State Fault Refusal :=
  issued (.vatoms o) o s (fun iss s =>
    let nb := atomBytes (aopOf o)
    scratchLanes s iss nb (fun l => (lane32 s iss .i32 l o.a).toNat + (lane32 s iss .i32 l o.b).toNat) (fun s ls =>
      if badScratch iss.tm (ls.flatMap (fun x => (List.range nb).map (fun i => x.2 + i))) then .error (flt84 iss 3, s)
      else
        let s := if ordOf o = 1 ∨ ordOf o = 3 then acquire s iss.t iss.g iss.tm.core 1 else s
        .ok (goOn (ls.foldl (fun s x =>
          match teamOf s iss.t with
          | none => s
          | some tm =>
            if tm.ending then s else
            let old := BitVec.ofNat 64 (leNat (scratchBytes tm x.2 nb))
            let new := atomNew (aopOf o) old (atomData s iss x.1 o.c) (atomData s iss x.1 o.d)
            let s := scratchStore s iss (pairsAt x.2 (bytesOf nb new.toNat))
            if noReturn o then s
            else modGroup s iss.t iss.g (fun gr => (List.range (atomRegs o)).foldl (fun gr j =>
              setVreg gr (dstNum o.dst + j) x.1 (if j = 0 then Word.lo old else Word.hi old)) gr)) s) iss)))

/-! ### Barrier objects (R236, R237, R418, R419) -/

/-- A gang that sleeps is released by any phase change in its team's scratchpad (R178). -/
def wakeSleepers (now : Nat) (tm : Team) : Team :=
  { tm with groups := tm.groups.map (fun gr => gr.gangs.foldl (fun gr q =>
      match q.wait with
      | some w => match w.kind with
        | .sleep _ next => modGang (modMembers gr q.members (fun _ x => { x with pc := next })) (leadOf q.members) (woken now)
        | _ => gr
      | none => gr) gr) }

/-- The completion rule: pending 0 and arrived = expected flip the phase (R237). -/
def objSettle (b : BarObj) : BarObj × Bool :=
  if b.pending = 0 ∧ b.arrived = b.expected then ({ expected := 0, arrived := 0, pending := b.initial, initial := b.initial, phase := !b.phase }, true)
  else (b, false)

/-- An object's fields replaced, and settled. -/
def objPut (s : State) (t off : Nat) (b : BarObj) : State :=
  let x := objSettle b
  modTeam s t (fun tm =>
    let tm := { tm with scratch := (pairsAt off (objBytes x.1)).foldl (fun m p => mput m p.1 p.2) tm.scratch
                        bad := tm.bad.filter (fun b => !(b.1 == 3 && b.2 / 4 == off / 16)) }
    if x.2 then wakeSleepers s.cycle.toNat tm else tm)

/-- A change to an object, tested before it takes effect: the class-5 code and detail it raises, or the new fields (R419). -/
inductive ObjChange where
  | expect (n : Nat)
  | arrive
  | land (n : Nat)
  deriving DecidableEq, Repr

def objTest (b : BarObj) : ObjChange → Except (Nat × Nat) BarObj
  | .expect n => if 2 ^ 32 ≤ b.expected + n then .error (9, b.expected) else .ok { b with expected := b.expected + n }
  | .arrive =>
    if b.pending = 0 then .error (9, b.expected)
    else if b.pending = 1 ∧ b.expected < b.arrived then .error (8, b.arrived)
    else .ok { b with pending := b.pending - 1 }
  | .land n =>
    if 2 ^ 32 ≤ b.arrived + n ∨ (b.pending = 0 ∧ b.expected < b.arrived + n) then .error (8, b.arrived)
    else .ok { b with arrived := b.arrived + n }

/-- The record of a class-5 condition of an object (R414). -/
def objRecord (code off detail : Nat) (pc : W64) : RecIn :=
  { cls := 5, code := code, addr := BitVec.ofNat 64 off, detail := some (BitVec.ofNat 32 detail), pc := pc }

/-- A class-5 condition of an instruction: its record and the abort (R414, R418). -/
def objFault (s : State) (iss : Iss) (code off detail : Nat) : State :=
  faultTeam s iss.t iss.g { objRecord code off detail iss.pc with rentry := (sliceOf iss.gr iss.k).rentry, members := iss.q.members, mask := iss.act,
                                                                   detail := some (handlerDetail iss.gr iss.k (BitVec.ofNat 32 detail)) }

/-- The object an instruction names in source A: uniform, 16-byte aligned (0.14), inside the allocation (0.15).
[MARKS DEDUCED log 64, DEDUCED log 137] -/
def withObject (i : Instr) (o : Operands) (s : State) (range : Iss → Bool) (f : Iss → Nat → State → Res) : Host.Outcome State Fault Refusal :=
  issued i o s (fun iss s =>
    match uniform32 s iss o.a with
    | .ok none => .ok (.adv s)
    | a =>
      if !range iss then .error (flt0 iss 13, s)
      else match a with
      | .error fl => .error (fl, s)
      | .ok none => .ok (.adv s)
      | .ok (some a) =>
        if a.toNat % 16 ≠ 0 then .error (flt0 iss 14, s)
        else if iss.tm.scratchBytes < a.toNat + 16 then .error (flt0 iss 15, s)
        else f iss a.toNat s)

/-- BARINIT: a live object raises 5.11 (R237, R414). -/
def execBarinit (o : Operands) (s : State) : Host.Outcome State Fault Refusal :=
  withObject (.barinit o) o s (fun iss => let n := (scal32 s iss iss.k o.b).toNat; decide (1 ≤ n ∧ n < 65536)) (fun iss off s =>
    let n := (scal32 s iss iss.k o.b).toNat
    if objLive s iss.t iss.tm off then
      let b := objAt iss.tm off
      .ok (.stay (objFault s iss 11 off (b.pending * 65536 + b.initial)))
    else
      let s := modTeam s iss.t (fun tm => { tm with objs := mput tm.objs (off / 16) () })
      .ok (.adv (objPut s iss.t off { expected := 0, arrived := 0, pending := n, initial := n, phase := false })))

/-- An instruction on an initialised object (5.10 otherwise). [MARK DEDUCED log 64] -/
def onObject (i : Instr) (o : Operands) (s : State) (f : Iss → Nat → BarObj → State → Res) : Host.Outcome State Fault Refusal :=
  withObject i o s (fun _ => true) (fun iss off s =>
    if (mget iss.tm.objs (off / 16)).isNone then .ok (.stay (objFault s iss 10 off 0))
    else if badScratch iss.tm [off, off + 4, off + 8, off + 12] then .error (flt84 iss 3, s)
    else f iss off (objAt iss.tm off) s)

/-- A change made by an instruction. -/
def objInstr (s : State) (iss : Iss) (off : Nat) (b : BarObj) (c : ObjChange) : Res :=
  match objTest b c with
  | .error (code, d) => .ok (.stay (objFault s iss code off d))
  | .ok b => .ok (.adv (objPut s iss.t off b))

/-- BAREXP (R237). -/
def execBarexp (o : Operands) (s : State) : Host.Outcome State Fault Refusal :=
  onObject (.barexp o) o s (fun iss off b s => objInstr s iss off b (.expect (scal32 s iss iss.k o.b).toNat))

/-- BARARV: a release at .CORE, which the store queue gives by itself (R120, R237). -/
def execBararv (o : Operands) (s : State) : Host.Outcome State Fault Refusal :=
  onObject (.bararv o) o s (fun iss off b s => objInstr s iss off b .arrive)

/-- The phase named by a literal's bit 0 (R237). -/
def phaseLit (o : Operands) : Bool := match o.b with | .lit n => n.getLsbD 0 | _ => false

/-- BWAIT: waits until the phase differs; an acquire at .CORE (R50, R237). -/
def execBwait (o : Operands) (s : State) : Host.Outcome State Fault Refusal :=
  onObject (.bwait o) o s (fun iss off b s =>
    if b.phase != phaseLit o then .ok (.adv (acquire s iss.t iss.g iss.tm.core 1))
    else .ok (.wait (.bwait off (phaseLit o) (nextPc iss)) s))

/-- BTEST (R237). -/
def execBtest (o : Operands) (s : State) : Host.Outcome State Fault Refusal :=
  onObject (.btest o) o s (fun iss _ b s =>
    let hit := b.phase != phaseLit o
    let s := if hit then acquire s iss.t iss.g iss.tm.core 1 else s
    .ok (.adv (modGroup s iss.t iss.g (fun gr => setScc gr iss.q.members (fun _ => hit)))))

/-! ### Accumulator tiles (R103, R221) -/

/-- [MARK DESIGN CHOICE log 62] -/
def tileWord (x : Tile) (i : Nat) : W32 := (mget x.cells i).getD (if x.zeroed then 0 else Config.freeTile x.nonce i)
def tilePut (x : Tile) (i : Nat) (v : W32) : Tile := { x with cells := if x.zeroed then mputD x.cells 0 i v else mput x.cells i v }
def tileAt (tm : Team) (t : Nat) : Tile := tm.tiles[t]?.getD { zeroed := true, nonce := 0, cells := [] }
def zeroTile : Tile := { zeroed := true, nonce := 0, cells := [] }

/-- Damaged accumulator words among those read (R406). [MARK DESIGN CHOICE log 40] -/
def badTile (tm : Team) (t : Nat) (is : List Nat) : Bool := tm.bad.any (fun b => b.1 == 4 && b.2 / 16384 == t && is.contains (b.2 % 16384))
/-- Words of a tile written. -/
def putTile (s : State) (t tile : Nat) (ws : List (Nat × W32)) : State :=
  modTeam s t (fun tm => { tm with
    tiles := lmod tm.tiles tile (fun x => ws.foldl (fun x w => tilePut x w.1 w.2) x)
    bad := tm.bad.filter (fun b => !(b.1 == 4 && b.2 / 16384 == tile && ws.any (fun w => w.1 == b.2 % 16384))) })

/-- An accumulator instruction's tile, below the grant (0.13). -/
def withTile (i : Instr) (o : Operands) (s : State) (range : Iss → Bool) (f : Iss → Nat → State → Res) : Host.Outcome State Fault Refusal :=
  issued i o s (fun iss s =>
    match uniform32 s iss o.a with
    | .ok none => .ok (.adv s)
    | a =>
      if !range iss then .error (flt0 iss 13, s)
      else match a with
      | .error fl => .error (fl, s)
      | .ok none => .ok (.adv s)
      | .ok (some t) => if iss.tm.tiles.length ≤ t.toNat then .error (flt0 iss 13, s) else f iss t.toNat s)

/-- ACCZERO (R221). -/
def execAcczero (o : Operands) (s : State) : Host.Outcome State Fault Refusal :=
  let n := fun (iss : Iss) => (scal32 s iss iss.k o.b).toNat
  withTile (.acczero o) o s (fun iss => decide (1 ≤ n iss ∧ n iss ≤ 16)) (fun iss t s =>
    if iss.tm.tiles.length < t + n iss then .error (flt0 iss 13, s)
    else .ok (.adv (modTeam s iss.t (fun tm => { tm with
      tiles := tm.tiles.mapIdx (fun i x => if t ≤ i ∧ i < t + n iss then zeroTile else x)
      bad := tm.bad.filter (fun b => !(b.1 == 4 && decide (t ≤ b.2 / 16384 ∧ b.2 / 16384 < t + n iss))) }))))

def blockFirst (o : Operands) : Nat := mf o 55 54
/-- Row of ACCRD and ACCWR. -/
def accRow (s : State) (o : Operands) (iss : Iss) : Nat := if o.form = .f96c then (scal32 s iss iss.k o.c).toNat else mf o 62 56
def rowOk (s : State) (o : Operands) (iss : Iss) : Bool := decide (accRow s o iss < 128 ∧ blockFirst o + blockCount o ≤ 4)
/-- Element 32 (cb + j) + l of row m. -/
def accElem (o : Operands) (m j l : Nat) : Nat := 128 * m + 32 * (blockFirst o + j) + l

/-- ACCRD (R221). -/
def execAccrd (o : Operands) (s : State) : Host.Outcome State Fault Refusal :=
  withTile (.accrd o) o s (rowOk s o) (fun iss t s =>
    let m := accRow s o iss
    let x := tileAt iss.tm t
    let es := (List.range (blockCount o)).flatMap (fun j => (lanes iss.act).map (fun l => (j, l)))
    if badTile iss.tm t (es.map (fun e => accElem o m e.1 e.2)) then .error (flt84 iss 4, s)
    else .ok (.adv (modGroup s iss.t iss.g (fun gr => es.foldl (fun gr e => setVreg gr (dstNum o.dst + e.1) e.2 (tileWord x (accElem o m e.1 e.2))) gr))))

/-- ACCWR (R221). -/
def execAccwr (o : Operands) (s : State) : Host.Outcome State Fault Refusal :=
  withTile (.accwr o) o s (rowOk s o) (fun iss t s =>
    let m := accRow s o iss
    let src := match o.b with | .vec r => r.toNat | _ => 0
    .ok (.adv (putTile s iss.t t ((List.range (blockCount o)).flatMap (fun j => (lanes iss.act).map (fun l =>
      (accElem o m j l, vreg iss.gr (src + j) l)))))))

/-- Rows of ACCST and ACCLD: the first, and how many. -/
def accRows (s : State) (o : Operands) (iss : Iss) : Nat × Nat :=
  (mf o 62 56, if o.form = .f96c then (scal32 s iss iss.k o.c).toNat else 128 - mf o 62 56)

/-- The (element, scratchpad offset) pairs of ACCST and ACCLD (R221). [MARK DEDUCED log 61] -/
def accMoves (o : Operands) (m n addr : Nat) : List (Nat × Nat) :=
  (List.range n).flatMap (fun i => (List.range (32 * blockCount o)).map (fun c =>
    (128 * (m + i) + 32 * blockFirst o + c, addr + 128 * blockCount o * i + 4 * c)))

/-- Rows between a tile and scratchpad: 0.13, then 0.14 and 0.15. [MARK DEDUCED log 61] -/
def accMove (i : Instr) (o : Operands) (s : State) (f : Iss → Nat → List (Nat × Nat) → State → Res) : Host.Outcome State Fault Refusal :=
  withTile i o s (fun iss => decide ((accRows s o iss).1 + (accRows s o iss).2 ≤ 128 ∧ blockFirst o + blockCount o ≤ 4)) (fun iss t s =>
    let mn := accRows s o iss
    let addr := (scal32 s iss iss.k o.b).toNat
    if addr % 16 ≠ 0 then .error (flt0 iss 14, s)
    else if iss.tm.scratchBytes < addr + 128 * blockCount o * mn.2 then .error (flt0 iss 15, s)
    else f iss t (accMoves o mn.1 mn.2 addr) s)

/-- ACCST (R221). -/
def execAccst (o : Operands) (s : State) : Host.Outcome State Fault Refusal :=
  accMove (.accst o) o s (fun iss t ms s =>
    let x := tileAt iss.tm t
    if badTile iss.tm t (ms.map Prod.fst) then .error (flt84 iss 4, s)
    else .ok (goOn (scratchStore s iss (ms.flatMap (fun m => pairsAt m.2 (bytesOf 4 (tileWord x m.1).toNat)))) iss))

/-- ACCLD (R221). -/
def execAccld (o : Operands) (s : State) : Host.Outcome State Fault Refusal :=
  accMove (.accld o) o s (fun iss t ms s =>
    if badScratch iss.tm (ms.map Prod.snd) then .error (flt84 iss 3, s)
    else .ok (.adv (putTile s iss.t t (ms.map (fun m => (m.1, scratchWord iss.tm m.2))))))

/-! ### Constant banks (R223) -/

/-- CBLD: n dwords from consecutive addresses into bank B from dword D, as a store-path load (R223). [MARK DEDUCED log 60] -/
def execCbld (o : Operands) (s : State) : Host.Outcome State Fault Refusal :=
  issued (.cbld o) o s (fun iss s =>
    let n := if o.form = .f96c then (scal32 s iss iss.k o.c).toNat else 4
    let d := mf o 59 52
    let key := fun i => 256 * mf o 62 60 + d + i
    match readRecord s iss o.a with
    | .ok none => .ok (.adv s)
    | r =>
      match firstFlt [fltOf r, fltIf iss (decide (n = 0 ∨ 256 < n ∨ 256 < d + n)) 13] with
      | some fl => .error (fl, s)
      | none =>
      match r with
      | .error fl => .error (fl, s)
      | .ok none => .ok (.adv s)
      | .ok (some r) =>
        bounds s iss [(4 * iss.k, reach r 4 0 (scal32 s iss iss.k o.b).toNat)] (fun s ls _ =>
          match ls with
          | [] => finishLoad s iss .bank 0 0 [] [] ((List.range n).map (fun i => (key i, 0)))
          | (_, va) :: _ =>
            match translateLanes s iss .read r.cmp 0 ((List.range n).map (fun i => (i, (va + 4 * i) % 2 ^ 57))) with
            | .error e => memStop s iss e
            | .ok xs =>
              let piece := fun (x : LaneX) => ({ keys := [key x.lane], pa := x.pa, n := 4, mode := 0 } : Piece)
              if r.cmp then finishCompressed s iss .bank 0 0 xs (xs.map (fun x => (x.lane, piece x))) []
              else finishLoad s iss .bank 0 0 (blocksOf xs) (xs.map piece) []))

end Sys2Proof.Machine
end

