-- ==== Sys2Proof/Machine/Sync.lean ====
section
/-! DEFINITION. Timelines, mailbox posts, launches and the reading of saturation counters (R136, R140, R238 to R241, R369,
R390, R420). -/

namespace Sys2Proof.Machine

/-! ### Timeline counters (R136, R420) -/

def timelineOf (s : State) (c i : Nat) : W64 := match ctxOf s c with | some q => mgetD q.timelines 0 i | none => 0

/-- Counter i of context c advanced by n, stopping at 2^64 - 1, which posts 5.12 the first time (R136, R420). -/
def advanceTimeline (s : State) (c i n : Nat) (pc : W64) : State :=
  match ctxOf s c with
  | none => s
  | some q =>
    let v := min ((mgetD q.timelines 0 i).toNat + n) (2 ^ 64 - 1)
    let s := modCtx s c (fun q => { q with timelines := mputD q.timelines 0 i (BitVec.ofNat 64 v) })
    if v = 2 ^ 64 - 1 ∧ ¬ q.tlPosted.contains i then
      postRecord (modCtx s c (fun q => { q with tlPosted := q.tlPosted ++ [i] })) c
        { cls := 5, code := 12, addr := BitVec.ofNat 64 i, detail := some 0, pc := pc }
    else s

/-- A timeline instruction: its uniform index, 0 to 4,095 (0.13). -/
def withTimeline (i : Instr) (o : Operands) (s : State) (f : Iss → Nat → State → Res) : Host.Outcome State Fault Refusal :=
  issued i o s (fun iss s =>
    match uniform32 s iss o.a with
    | .error fl => .error (fl, s)
    | .ok none => .ok (.adv s)
    | .ok (some n) => if 4095 < n.toNat then .error (flt0 iss 13, s) else f iss n.toNat s)

/-- TLWAIT: waits until the counter is at least n, and acquires at .DOM (R136, R238). -/
def execTlwait (o : Operands) (s : State) : Host.Outcome State Fault Refusal :=
  withTimeline (.tlwait o) o s (fun iss i s =>
    let n := scal64 s iss iss.k o.b
    if n.toNat ≤ (timelineOf s iss.tm.ctx i).toNat then .ok (.adv (acquire s iss.t iss.g iss.tm.core 4))
    else .ok (.wait (.tlwait i n.toNat (nextPc iss)) s))

/-- TLSIG: a release at its scope, waiting until the group's stores have reached it, then the counter advances (R136, R238).
[MARK DEDUCED log 59] -/
def execTlsig (o : Operands) (s : State) : Host.Outcome State Fault Refusal :=
  withTimeline (.tlsig o) o s (fun iss i s =>
    if !storesReached s iss.t iss.g (scopeOf o) then .ok (.wait .retry s)
    else .ok (.adv (advanceTimeline (releaseNow s iss.t iss.g (scopeOf o)) iss.tm.ctx i (scal64 s iss iss.k o.b).toNat 0)))

/-- TLRD: relaxed (R238). -/
def execTlrd (o : Operands) (s : State) : Host.Outcome State Fault Refusal :=
  withTimeline (.tlrd o) o s (fun iss i s =>
    .ok (.adv (modGroup s iss.t iss.g (fun gr => issueWrite64 iss gr (dstNum o.dst) (timelineOf s iss.tm.ctx i)))))

/-- SATRD: the team's counter of a class, 0 to 3 (R241, R369). -/
def execSatrd (o : Operands) (s : State) : Host.Outcome State Fault Refusal :=
  issued (.satrd o) o s (fun iss s =>
    let c := (scal32 s iss iss.k o.a).toNat
    if 3 < c then .error (flt0 iss 13, s)
    else .ok (.adv (modGroup s iss.t iss.g (fun gr => issueWrite iss gr (dstNum o.dst) (iss.tm.sat.getD c 0)))))

/-! ### Mailbox targets (R239, R240) -/

/-- Where a target word sends (R240, R342). -/
inductive Target where
  | local (mb : Nat)
  | peer (device mb : Nat)
  | host (mb : Nat)
  deriving DecidableEq, Repr

/-- The conditions of a target word: reserved bits (0.5), then a device ID no device has (0.13) (R369). -/
def targetBad (w : W32) : Option Nat :=
  let n := w.toNat
  if targetReserved w then some 5
  else if Word.bit n 31 && decide (640 ≤ Word.field n 25 16 ∧ Word.field n 25 16 < 1023) then some 13
  else none

/-- The target; a peer that is the TX2 itself is local (R240). [MARK DEDUCED log 102] -/
def targetOf (s : State) (w : W32) : Target :=
  let n := w.toNat
  let mb := Word.field n 9 0
  let d := Word.field n 25 16
  if !Word.bit n 31 then .local mb
  else if namesHost w then .host mb
  else if d = s.deviceId.toNat then .local mb
  else .peer d mb

/-- The scope a message to a target is released at (R140, R240): .DOM for a peer word. -/
def targetScope (w : W32) : Nat := if Word.bit w.toNat 31 then 4 else 3

/-- A message posted at a place of the core store order is sent to the host endpoint, or dropped with 9.8 when none is bound (R342, R462).
[MARK DEDUCED log 102] -/
def sendHost (s : State) (c t g mb : Nat) (tl : Option Completion) (bytes : List Byte) (pc : W64) (place : Nat) : State :=
  match (ctxOf s c).bind (fun q => q.endpoint) with
  | none => postRecord s c { cls := 9, code := 8, detail := some (BitVec.ofNat 32 mb), pc := pc }
  | some _ =>
    let id := s.nextId
    modCtx { s with nextId := id + 1, outbox := s.outbox ++ [.hostMessage c id bytes] } c
      (fun q => { q with outAcks := q.outAcks ++ [{ msg := id, seq := place, t := t, g := g, mb := mb, tl := tl }] })

/-- A message of an engine or instruction sent to its target. -/
def sendTo (s : State) (kind : MsgKind) (c t g : Nat) (w : W32) (bytes : List Byte) (tl : Option Completion) (pc : W64) (place : Nat) : State :=
  match targetOf s w with
  | .local mb => sendLocal s { plainMsg s kind c mb bytes with tl := tl }
  | .peer d mb => sendPeerMessage s d c mb (if kind = .copy then .copy else .post) bytes tl pc
  | .host mb => sendHost s c t g mb tl bytes pc place

/-- Scratchpad bytes an instruction reads at issue: 32-byte aligned (0.14), inside the allocation (0.15), undamaged. -/
def issueBytes (s : State) (iss : Iss) (off n align : Nat) (f : List Byte → Res) : Res :=
  if off % align ≠ 0 then .error (flt0 iss 14, s)
  else if iss.tm.scratchBytes < off + n then .error (flt0 iss 15, s)
  else if badScratch iss.tm ((List.range n).map (fun i => off + i)) then .error (flt84 iss 3, s)
  else f (scratchBytes iss.tm off n)

/-- A uniform target word with its tests, and further 0.13 conditions after them. -/
def withTarget (i : Instr) (o : Operands) (s : State) (more : Iss → W32 → Option Nat) (range : Iss → Bool)
    (f : Iss → W32 → State → Res) : Host.Outcome State Fault Refusal :=
  issued i o s (fun iss s =>
    match uniform32 s iss o.a with
    | .error fl => .error (if range iss then fl else flt0 iss 13, s)
    | .ok none => .ok (.adv s)
    | .ok (some w) =>
      match firstFlt [(targetBad w).map (flt0 iss), if (targetBad w).isNone then (more iss w).map (flt0 iss) else none, fltIf iss (!range iss) 13] with
      | some fl => .error (fl, s)
      | none => f iss w s)

/-- MBPOST: n bytes read at issue become one message, a release at .PKG or .DOM (R140, R239). [MARK DEDUCED log 59] -/
def execMbpost (o : Operands) (s : State) : Host.Outcome State Fault Refusal :=
  let n := fun (iss : Iss) => (scal32 s iss iss.k o.c).toNat
  withTarget (.mbpost o) o s (fun _ _ => none) (fun iss => decide (1 ≤ n iss ∧ n iss ≤ 256)) (fun iss w s =>
    issueBytes s iss (scal32 s iss iss.k o.b).toNat (n iss) 32 (fun bytes =>
      if !storesReached s iss.t iss.g (targetScope w) then .ok (.wait .retry s)
      else
        let p := takePlace (releaseNow s iss.t iss.g 3) iss.t iss.g iss.tm.core
        .ok (.adv (sendTo p.2 .post iss.tm.ctx iss.t iss.g w bytes none iss.pc p.1))))

/-- The mailbox of the group's context is registered privileged (R303). -/
def privMailbox (s : State) (c mb : Nat) : Bool :=
  match (ctxOf s c).bind (fun q => mget q.mailboxes mb) with
  | some m => m.priv
  | none => false

/-- A LAUNCH sent; with a reply mailbox it is tracked, up to 256 per context (R315, R390). [MARK DEDUCED log 102] -/
def sendLaunch (s : State) (iss : Iss) (w : W32) (rep : Option Nat) (bytes : List Byte) : State :=
  let c := iss.tm.ctx
  let s := match rep with
    | none => s
    | some _ => modCtx { s with nextId := s.nextId + 1 } c (fun q =>
        if q.tracked.length < 256 then { q with tracked := q.tracked ++ [{ id := s.nextId, target := w, since := s.cycle.toNat }] } else q)
  match targetOf s w with
  | .local mb => sendLocal s { plainMsg s .launch c mb bytes with reply := rep.map (fun r => (s.deviceId.toNat, c, r)), privSender := privileged iss }
  | .peer d mb => sendPeerMessage s d c mb (.launch rep (privileged iss)) bytes none iss.pc
  | .host mb =>
    let p := takePlace s iss.t iss.g iss.tm.core
    sendHost p.2 c iss.t iss.g mb none bytes iss.pc p.1

/-- 0.12 of a LAUNCH whose target names a privileged mailbox, once its operand has passed 0.7 and its word 0.5 and 0.13: before the
conditions of its other operands (R310, R354). -/
def launchBarred (s : State) (iss : Iss) : Bool :=
  srcKindOk iss.o iss.sg.a iss.o.a && srcAligned iss.sg.a iss.o.a && srcInBudget iss iss.sg.a iss.o.a && !privileged iss &&
  (match uniform32 s iss iss.o.a with
   | .ok (some w) => (targetBad w).isNone && (match targetOf s w with | .local mb => privMailbox s iss.tm.ctx mb | _ => false)
   | _ => false)

/-- A LAUNCH once its shared conditions are tested: a packet of 64 bytes for the target mailbox (R239, R315). -/
def launchOp (o : Operands) (s : State) : Host.Outcome State Fault Refusal :=
  let rep := fun (iss : Iss) => (scal32 s iss iss.k o.c).toNat
  withTarget (.launch o) o s
    (fun iss w => match targetOf s w with
      | .local mb => if privMailbox s iss.tm.ctx mb && !privileged iss then some 12 else none
      | _ => none)
    (fun iss => decide (rep iss ≤ 1023 ∨ rep iss = 0xFFFFFFFF)) (fun iss w s =>
    issueBytes s iss (scal32 s iss iss.k o.b).toNat 64 32 (fun bytes =>
      if !storesReached s iss.t iss.g (targetScope w) then .ok (.wait .retry s)
      else .ok (.adv (sendLaunch (releaseNow s iss.t iss.g 3) iss w (if rep iss = 0xFFFFFFFF then none else some (rep iss)) bytes))))

/-- LAUNCH: a packet of 64 bytes for the target mailbox (R239, R315, R354). -/
def execLaunch (o : Operands) (s : State) : Host.Outcome State Fault Refusal :=
  match issOf s (.launch o) o with
  | some iss =>
    if !pendingReg iss && !heldByAcquire iss && !heldByMate s iss && (sharedTest s iss).isSome && launchBarred s iss then .next (deliver s iss.t iss.g iss.k iss.pc true (flt0 iss 12))
    else launchOp o s
  | none => launchOp o s

end Sys2Proof.Machine
end

