-- ==== Sys2Proof/Machine/Blocks.lean ====
section
/-! DEFINITION. Leaves of the translation tree as the TX2 writes them, the allotment (R300), and the blocks of procedural ranges
(R112 to R118, R290, R291, R409). -/

namespace Sys2Proof.Machine

/-! ### Leaves (R90 to R92, R298) -/

/-- The table below an entry. -/
def nextTable (e : Nat) : Nat := Word.field e 51 14 * 2 ^ 14

/-- The physical address of the level-0 leaf of va, if the tables above it exist. -/
def leafAddr (s : State) (c va : Nat) : Option Nat :=
  match ctxOf s c with
  | none => none
  | some q =>
    let step := fun (t : Option Nat) (h l : Nat) => t.bind (fun t =>
      let e := home64 s c (t + 8 * Word.field va h l)
      if Word.bit e 0 && !Word.bit e 1 && !tableBad e then some (nextTable e) else none)
    (step (step (step (some q.xlroot.toNat) 56 49) 48 38) 37 27).map (fun t => t + 8 * Word.field va 26 16)

/-- The level-0 leaf of va; 0 where its tables are missing. -/
def leafOf (s : State) (c va : Nat) : Nat :=
  match leafAddr s c va with
  | some a => home64 s c a
  | none => 0

/-- Eight bytes written under a context's key. -/
def write64 (s : State) (c a v : Nat) : State := homeWrite s c (pairsAt a (bytesOf 8 v))

/-- The line of a leaf leaves the L1 of every core (R94, R119). [MARK DEDUCED log 103] -/
def dropLine (s : State) (c line : Nat) : State :=
  let k1 := l1Key { ctx := c, core := 0, gen := none } line
  { s with cores := s.cores.map (fun (e : Nat × Core) => (e.1, { e.2 with l1 := mdel e.2.l1 k1 })) }

/-- [MARK DEDUCED log 103] -/
def setLeaf (s : State) (c va e : Nat) : State :=
  match leafAddr s c va with
  | some a => dropLine (write64 s c a e) c (lineOf (localise s a))
  | none => s

/-- A valid level-0 leaf with proc = 1. -/
def isProc (e : Nat) : Bool := Word.bit e 0 && Word.bit e 1 && Word.bit e 6
def fillOf (e : Nat) : Nat := Word.field e 53 52

/-- The leaf with its fill and frame fields replaced; `frame` is the value of [51:16]. -/
def withFill (e fill frame : Nat) : Nat :=
  (e - Word.field e 53 16 * 2 ^ 16) + fill * 2 ^ 52 + frame % 2 ^ 36 * 2 ^ 16

/-! ### The allotment (R109, R115, R300) -/

/-- The die a frame lies on (R19). -/
def frameDie (f : Nat) : Nat := Word.field f 38 38

/-- A frame kept out of use after an HBM error, until the next start (R109, R409). -/
def isWithheld (s : State) (f : Nat) : Bool := s.withheld.contains (f / 65536)

/-- The owner of a frame of local HBM becomes a context; a withheld frame has none (R109). -/
def own (s : State) (c f : Nat) : State := if isWithheld s f then s else { s with owner := mput s.owner (f / 65536) c }

/-- How many frames a part of an allotment holds at most (R300). [MARK DESIGN CHOICE log 104] -/
def partMax : Nat := 4194304

/-- A frame pushed onto its die's part of a context's allotment; a full part takes no more, and a withheld frame stays out (R409).
[MARK DESIGN CHOICE log 104] -/
def pushFrame (s : State) (c f : Nat) : State :=
  match ctxOf s c with
  | none => s
  | some q =>
    if isWithheld s f || decide (partMax ≤ (if frameDie f = 0 then q.allot0 else q.allot1).length) then s
    else own (modCtx s c (fun q => if frameDie f = 0 then { q with allot0 := f :: q.allot0 } else { q with allot1 := f :: q.allot1 })) c f

/-- The most recently pushed frame of one part. -/
def popPart (s : State) (c die : Nat) : Option (Nat × State) :=
  match ctxOf s c with
  | none => none
  | some q =>
    match (if die = 0 then q.allot0 else q.allot1) with
    | [] => none
    | f :: r => some (f, modCtx s c (fun q => if die = 0 then { q with allot0 := r } else { q with allot1 := r }))

/-- From one die's part, and else from the other's (R115, R300). -/
def popFrame (s : State) (c die : Nat) : Option (Nat × State) := (popPart s c die).or (popPart s c (1 - die))

/-! ### Blocks -/

/-- The declared range that holds a block. -/
def rangeOf (q : Ctx) (block : Nat) : Option (Nat × Range) :=
  q.catalogue.find? (fun e => decide (e.2.base ≤ 65536 * block ∧ 65536 * block < e.2.base + e.2.len))

/-- R118: an access translated through the block is in flight. A requester that waited for its fill has not translated yet: it touches
again (R338). [MARK DEDUCED log 37] -/
def pinned (s : State) (c block : Nat) : Bool :=
  s.teams.any (fun e => e.2.ctx == c && e.2.groups.any (fun gr =>
    gr.queue.any (fun x => x.block == some block) ||
    gr.returns.any (fun r => !r.prefetch && r.blocks.contains block && (r.lines != [] || !performed r))))

def blockOf (s : State) (c block : Nat) : Option Block := (ctxOf s c).bind (fun q => mget q.blocks block)

/-- The lines of a frame that cores have cached are discarded, and what is kept of it for fetches: nothing reads through them what the
frame held before (R117, R338). -/
def cleanFrame (s : State) (f : Nat) : State :=
  let keep := fun (k : Nat) => k % 2 ^ 45 / 512 != f / 65536
  { s with journal := s.journal.filter (fun j => j.block / 2048 != f / 65536)
           cores := s.cores.map (fun e => (e.1, { e.2 with l1 := e.2.l1.filter (fun x => keep x.1), sampler := e.2.sampler.filter (fun x => keep x.1) })) }

/-- The block is no longer filling or filled: its leaf's fill and frame fields become those given. -/
def dropBlock (s : State) (c block fill frame : Nat) : State :=
  let va := 65536 * block
  modCtx (setLeaf s c va (withFill (leafOf s c va) fill frame)) c (fun q => { q with blocks := mdel q.blocks block })

/-- Eviction: the block becomes unfilled and its frame returns to the allotment (R114, R118). -/
def evict (s : State) (c block : Nat) : State :=
  match blockOf s c block with
  | some b => if b.filled then pushFrame (dropBlock s c block 0 0) c b.frame else s
  | none => s

/-- What accesses through a block have asked for, to be performed later, is asked for again (R409). [MARK DEDUCED log 24] -/
def askAgain (s : State) (c block : Nat) : State :=
  { s with teams := s.teams.map (fun (e : Nat × Team) => if e.2.ctx != c then e else
      (e.1, { e.2 with groups := e.2.groups.map (fun gr => { gr with returns := gr.returns.filter (fun r => !(wordless r && r.blocks.contains block)) }) })) }

/-- A frame leaves use until the next start: no allotment holds it and it has no owner (R109, R409). -/
def withhold (s : State) (f : Nat) : State :=
  let out := fun (l : List Nat) => l.filter (fun x => x / 65536 != f / 65536)
  { s with withheld := s.withheld ++ [f / 65536], owner := mdel s.owner (f / 65536)
           ctxs := s.ctxs.map (fun e => (e.1, { e.2 with allot0 := out e.2.allot0, allot1 := out e.2.allot1 })) }

/-- R409: an error in the frame of a filled block. -/
def regenerate (s : State) (c block : Nat) : State :=
  match blockOf s c block with
  | some b =>
    if b.filled then
      let s := askAgain (dropBlock s c block 0 0) c block
      let s := withhold s b.frame
      postRecord s c { cls := 8, code := 7, addr := BitVec.ofNat 64 (65536 * block), detail := some (BitVec.ofNat 32 b.range) }
    else s
  | none => s

/-- Filled and filling blocks of a range. -/
def rangeBlocks (q : Ctx) (range : Nat) : List (Nat × Block) := q.blocks.filter (fun e => e.2.range == range)

/-- The filled block of a range filled longest ago and not pinned. -/
def oldestFree (s : State) (c range : Nat) : Option Nat :=
  match ctxOf s c with
  | none => none
  | some q =>
    ((rangeBlocks q range).foldl (fun (best : Option (Nat × Nat)) e =>
      if e.2.filled && !pinned s c e.1 then
        match best with
        | some b => if e.2.filledAt < b.2 then some (e.1, e.2.filledAt) else best
        | none => some (e.1, e.2.filledAt)
      else best) none).map Prod.fst

/-- Is the range beyond its eviction budget (R118)? -/
def overBudget (q : Ctx) (range : Nat) : Bool :=
  match mget q.catalogue range with
  | some r => r.budget != 0 && decide (r.budget < (rangeBlocks q range).length)
  | none => false

/-- One eviction for the budget, if needed and possible. [MARK DEDUCED log 94] -/
def keepBudget (s : State) (c range : Nat) : State :=
  match ctxOf s c with
  | none => s
  | some q =>
    if overBudget q range then
      match oldestFree s c range with
      | some b => evict s c b
      | none => s
    else s

end Sys2Proof.Machine
end

