-- ==== Sys2Proof/Machine/Engine.lean ====
section
/-! DEFINITION. Global memory as an engine, the host or the TX2 itself reads and writes it: page by page translation without
lanes, at the home segments, with what stops it (R115, R396, R399, R407, R409, R417, R476). -/

namespace Sys2Proof.Machine

/-- What stops an engine's access. -/
inductive EStop where
  | charge (cls code addr detail : Nat)
  | touch (block addr : Nat)
  /-- an error in the frame of a filled block: it is regenerated (R409) -/
  | regen (block : Nat)
  /-- peer lines to be read first -/
  | ask (lines : List Nat)
  /-- an atomic in a store queue of the core comes first -/
  | held
  deriving DecidableEq, Repr

/-- A translated byte address. -/
structure EByte where
  va : Nat
  pa : Nat
  others : List Nat
  block : Option Nat
  deriving DecidableEq, Repr

/-- Byte addresses translated, one test per distinct page, in the order given. [MARK DEDUCED log 79] -/
def engineXlat (s : State) (w : Who) (k : Access) (cmp : Bool) (as : List Nat) : Except EStop (List EByte) :=
  let pages := (as.map (fun a => a / 65536)).eraseDups
  let firstOf := fun p => (as.find? (fun a => a / 65536 == p)).getD (65536 * p)
  let xs := pages.map (fun p => (p, firstOf p, translateC s w k cmp 0 (firstOf p)))
  match xs.findSome? (fun x => match x.2.2 with
      | .fault c d => some (EStop.charge 3 c (if c = 13 then sideAddr s w x.2.1 else x.2.1) d)
      | .err a l => some (.charge 8 6 a l)
      | .charged b c d => some (.charge 4 c (65536 * b) d)
      | .touch b => some (.touch b (touchedAt s w b x.2.1))
      | .held => some .held
      | .ok _ _ _ => none) with
  | some e => .error e
  | none => .ok (as.filterMap (fun a =>
      match xs.find? (fun x => x.1 == a / 65536) with
      | some x => match x.2.2 with
        | .ok pa others b => some { va := a, pa := pa + a - x.2.1, others := others.map (fun o => o + a - x.2.1), block := b }
        | _ => none
      | none => none))

/-- Translated bytes read at the home segments, or from the peer lines at hand. -/
def engineFetch (s : State) (w : Who) (have_ : Map (List Byte)) (xs : List EByte) : Except EStop (List Byte) :=
  match xs.findSome? (fun x => if isPeer x.pa then none else (dataError s x.pa 1).map (fun e => (x, e))) with
  | some (x, code, a, d) =>
    match x.block with
    | some b => if code = 1 then .error (.regen b) else .error (.charge 8 code a d.toNat)
    | none => .error (.charge 8 code a d.toNat)
  | none =>
    let asks := ((xs.filter (fun x => isPeer x.pa && (mget have_ (lineOf x.pa)).isNone)).map (fun x => lineOf x.pa)).eraseDups
    if asks ≠ [] then .error (.ask asks)
    else .ok (xs.map (fun x =>
      if isPeer x.pa then ((mgetD have_ [] (lineOf x.pa))[x.pa % 128]?).getD 0 else homeByte s w.ctx x.pa))

/-- Bytes read through a context's translation. [MARK DEDUCED log 25] -/
def engineRead (s : State) (w : Who) (cmp : Bool) (have_ : Map (List Byte)) (as : List Nat) : Except EStop (List Byte) :=
  match engineXlat s w .read cmp as with
  | .error e => .error e
  | .ok xs => engineFetch s w have_ xs

/-- Where a byte is stored: at its address, or in every replica of its page (R111). [MARK DEDUCED log 67] -/
def EByte.places (x : EByte) : List Nat := if x.others = [] then [x.pa] else x.others

/-- The local bytes among those to be written, replicas included. -/
def localPairs (ws : List (EByte × Byte)) : List (Nat × Byte) :=
  ws.flatMap (fun w => (w.1.places.filter (fun a => !isPeer a)).map (fun a => (a, w.2)))

/-- The peer bytes, by line: its device, its line's address, the bytes from the first one written on. -/
def peerRuns (ws : List (EByte × Byte)) : List (Nat × Nat × List Byte) :=
  let ps := ws.flatMap (fun w => (w.1.places.filter isPeer).map (fun a => (a, w.2)))
  (ps.map (fun p => lineOf p.1)).eraseDups.flatMap (fun l =>
    let here := ps.filter (fun p => lineOf p.1 == l)
    -- one run per maximal stretch of consecutive bytes
    let starts := here.filter (fun p => !here.any (fun q => q.1 + 1 == p.1))
    starts.map (fun p =>
      let n := ((List.range 128).takeWhile (fun i => here.any (fun q => q.1 == p.1 + i))).length
      (peerDevice p.1, p.1, (List.range n).map (fun i => ((here.find? (fun q => q.1 == p.1 + i)).map Prod.snd).getD 0))))

/-- Peer writes sent, each a request for `who` (R344, R457). -/
def sendPeerWrites (s : State) (ctx : Nat) (pc : W64) (who : PeerFor) (runs : List (Nat × Nat × List Byte)) : State :=
  runs.foldl (fun s r => sendRequest s r.1 r.2.1 ctx pc who r.2.2.length (fun id => .peerWrite id r.1 (r.2.1 % 2 ^ 39) r.2.2)) s

/-- Peer lines asked for, each a request for `who`. -/
def sendPeerReads (s : State) (ctx : Nat) (pc : W64) (who : PeerFor) (lines : List Nat) : State :=
  lines.foldl (fun s l => sendPeerRead s ctx pc who l) s

/-- The block whose damaged frame line bytes to be written would merge into, not writing the line whole (R407, R409).
[MARK DEDUCED log 37] -/
def damagedBlock (s : State) (xs : List EByte) : Option Nat :=
  xs.findSome? (fun x => if !isPeer x.pa && (mget s.badLines (lineOf x.pa)).isSome && (mget s.l2 (lineOf x.pa)).isNone &&
    !(List.range 128).all (fun i => xs.any (fun y => y.pa == 128 * lineOf x.pa + i)) then x.block else none)

/-- Byte addresses translated to be written. [MARK DEDUCED log 37] -/
def engineXlatOut (s : State) (w : Who) (cmp : Bool) (as : List Nat) : Except EStop (List EByte) :=
  match engineXlat s w .write cmp as with
  | .error e => .error e
  | .ok xs => match damagedBlock s xs with
    | some b => .error (.regen b)
    | none => .ok xs

/-- Whose write it is until it is released: of a copy or a host Write under way (R137, R340). [MARK DEDUCED log 65] -/
def writerOf (who : PeerFor) : Option Writer :=
  match who with
  | .copyWrite id => some (.copy id)
  | .host op => some (.host op)
  | _ => none

/-- The writes of copies and host Writes that are no longer under way are released: the grids launched from now on fetch them.
[MARK DEDUCED log 65] -/
def endedWrites (s : State) : State :=
  if s.journal = [] then s else
  let under := fun (w : Writer) => match w with
    | .store _ _ => true
    | .copy id => s.cores.any (fun e => e.2.copies.any (fun c => c.id == id)) || s.teams.any (fun e => e.2.savedCopies.any (fun c => c.id == id))
    | .host op => s.hostOps.any (fun o => o.id == op && !o.failed)
  let s := { s with journal := s.journal.map (fun (j : OldBlock) => match j.by_ with | some w => if under w then j else { j with by_ := none, stamp := s.nextId } | none => j) }
  { s with journal := trimOld s }

/-- Translated bytes written: at local homes, and by requests to peers and replicas. -/
def engineWrite (s : State) (ctx : Nat) (pc : W64) (who : PeerFor) (ws : List (EByte × Byte)) : State :=
  sendPeerWrites (storeHome s (writerOf who) ctx (localPairs ws)) ctx pc who (peerRuns ws)

end Sys2Proof.Machine
end

