-- ==== Sys2Proof/Machine/Copy.lean ====
section
/-! DEFINITION. The copy engine (R14, R99, R132, R137, R231 to R235, R368, R401, R417 to R419): the tests and acceptance of TCOPY,
TCOPYX and TPEER, the landing of a copy's elements or units, and its completion. -/

namespace Sys2Proof.Machine

/-! ### The fields of a copy -/

def copySrc (c : Copy) : BufRec := recordOf (c.src.getD 0 0).toNat (c.src.getD 1 0).toNat (c.src.getD 2 0).toNat (c.src.getD 3 0).toNat
def copyDst (c : Copy) : BufRec := recordOf (c.dst.getD 0 0).toNat (c.dst.getD 1 0).toNat (c.dst.getD 2 0).toNat (c.dst.getD 3 0).toNat

/-- Bytes of an element. -/
def elemBytes (r : BufRec) : Nat := 2 ^ r.esz

def dkindOf (o : Operands) : Nat := mf o 62 61
def skindOf (o : Operands) : Bool := mf o 60 60 == 1
def expOf (o : Operands) : Bool := mf o 59 59 == 1
def xfOf (o : Operands) : Nat := mf o 53 50

/-- dw3 of the parameters, per transform (R232). -/
def prmN (c : Copy) : Nat := c.param % 16
/-- [MARK DEDUCED log 73] -/
def prmK (c : Copy) : Nat := if c.param / 16 % 16 = 0 then prmN c else c.param / 16 % 16
def prmSat (c : Copy) : Bool := Word.bit c.param 4
def prmCode (c : Copy) : Nat := c.param % 32
def prmRnd (c : Copy) : Nat := Word.field c.param 7 6
/-- [MARK DEDUCED log 73] -/
def prmSofs (c : Copy) : Nat := Word.field c.param 31 8
def prmUnpack (c : Copy) : Bool := Word.bit c.param 4

/-- Elements and bytes of the packed image or run an MX code of R75 cuts a tensor into. -/
def mxElems (code : Nat) : Nat := match fmtBits code 0 with | 4 => 256 | 6 => 160 | _ => 32
def mxBytes (code : Nat) : Nat := match fmtBits code 0 with | 8 => 32 | _ => 128
/-- Elements of an image of w-bit elements (R75). -/
def imageElems (w : Nat) : Nat := match w with | 2 => 512 | 4 => 256 | _ => 160

/-- Source elements that land at once: one, or a unit, image or block of the transform. [MARK DEDUCED log 73] -/
def unitElems (c : Copy) : Nat :=
  match c.xf with
  | 2 => 256
  | 3 => 256
  | 4 => mxElems (prmCode c)
  | 5 => mxElems (prmCode c)
  | 6 => 256 / elemBytes (copySrc c)
  | 7 => 256 / elemBytes (copySrc c)
  | 8 => imageElems (prmN c)
  | _ => 1

/-- Destination bytes of a unit. -/
def unitOut (c : Copy) : Nat :=
  match c.xf with
  | 2 => 32 * prmN c
  | 3 => 256
  | 4 => mxBytes (prmCode c) + mxElems (prmCode c) / 32
  | 5 => mxElems (prmCode c) * elemBytes (copyDst c)
  | 6 => 256
  | 7 => 256
  | 8 => if prmUnpack c then imageElems (prmN c) * prmN c / 8 else 128
  | _ => elemBytes (copySrc c)

def copyElems (c : Copy) : Nat := c.width * c.height * c.planes
def copyUnits (c : Copy) : Nat := copyElems c / unitElems c
/-- The bytes the copy delivers. -/
def copyBytes (c : Copy) : Nat := copyUnits c * unitOut c

/-! ### Where elements and stream bytes lie (R96, R232, R234) -/

/-- An element of a record by exact index or coordinates: in range, and its address (R96, R232). -/
def elementAt (r : BufRec) (x y i : Int) : Bool × Nat :=
  let at_ := fun (a : Int) => (((r.base : Int) + a) % (2 ^ 57 : Int)).toNat
  if r.twoD then
    let pb : Int := 16 * r.stride
    let es : Int := elemBytes r
    (decide (0 ≤ x ∧ x < (r.extent % 65536 : Nat) ∧ 0 ≤ y ∧ y < (r.extent / 65536 : Nat)),
      if r.swz = 0 then at_ (y * pb + x * es) else at_ (y / 8 * 8 * pb + x / 8 * 64 * es + (y % 8 * 8 + x % 8) * es))
  else (decide (0 ≤ i ∧ i < (r.extent : Int)), at_ (i * r.stride))

/-- Element (x, y) of plane z from a start, with rows of `len` elements. [MARKS DEDUCED log 69, DEDUCED log 70] -/
def placed (r : BufRec) (start step : W32) (z len : Nat) (x y : Int) : Bool × Nat :=
  let s := start.toNat
  let zs : Int := (z : Int) * step.toNat
  elementAt r ((s % 65536 : Nat) + x) ((s / 65536 : Nat) + y + zs) ((s : Int) + zs + y * len + x)

/-- Byte k of the stream that begins at a start element (R232). [MARK DEDUCED log 69] -/
def streamAt (r : BufRec) (start : W32) (k : Nat) : Bool × Nat :=
  let s := start.toNat
  let es := elemBytes r
  let lin := if r.twoD then s / 65536 * (r.extent % 65536) + s % 65536 else s
  let n := if r.twoD then (r.extent % 65536) * (r.extent / 65536) else r.extent
  (decide (lin * es + k < n * es), ((element r s).2 + k) % 2 ^ 57)

/-! ### Compression (R99, R100) -/

/-- Plane p of a block of 256 bytes: bit p of each of its 64 dwords. -/
def planeOf (bs : List Byte) (p : Nat) : Nat := maskNat (fun j => ((bs[4 * j + p / 8]?).getD 0).getLsbD (p % 8)) 64

/-- The side-table entry of a block and the sectors it stores. -/
def compressBlock (bs : List Byte) : Nat × List Byte :=
  let planes := (List.range 32).map (planeOf bs)
  let kept := planes.filter (fun w => w != 0)
  let e := (4 + 8 * kept.length + 31) / 32
  if kept = [] then (0, [])
  else if 8 ≤ e then (8, bs)
  else
    let body := bytesOf 4 (maskNat (fun p => planes.getD p 0 != 0) 32) ++ kept.flatMap (fun w => bytesOf 8 w)
    (e, body ++ List.replicate (32 * e - body.length) 0)

/-! ### Transforms (R232) -/

/-- An image of R75 of w-bit elements. [MARK DEDUCED log 84] -/
def packImage (w : Nat) (es : List Nat) : List Byte :=
  (List.range 32).flatMap (fun l => bytesOf 4 ((List.range (imageElems w / 32)).foldl (fun a j => a + es.getD (32 * j + l) 0 % 2 ^ w * 2 ^ (w * j)) 0))
/-- The elements of an image. -/
def unpackImage (w : Nat) (bs : List Byte) : List Nat :=
  (List.range (imageElems w)).map (fun i => leNat ((bs.drop (4 * (i % 32))).take 4) / 2 ^ (w * (i / 32)) % 2 ^ w)

/-- n-bit codes as one ON_n unit of 256 elements (R77). -/
def packPlanes (n : Nat) (es : List Nat) : List Byte :=
  (List.range n).flatMap (fun p => (List.range 32).map (fun j =>
    BitVec.ofNat 8 (maskNat (fun i => Word.bit (es.getD (8 * j + i) 0) (n - 1 - p)) 8)))
/-- The k-bit value of element i from a unit's first k planes (R78). -/
def planesAt (k : Nat) (bs : List Byte) (i : Nat) : Int :=
  sext k ((List.range k).foldl (fun a p => a + (if ((bs[32 * p + i / 8]?).getD 0).getLsbD (i % 8) then 2 ^ (k - 1 - p) else 0)) 0)

/-- The elements of an MX run or image (R74, R75). -/
def mxUnpack (code : Nat) (bs : List Byte) : List Nat :=
  if fmtBits code 0 = 8 then bs.map (fun b => b.toNat) else unpackImage (fmtBits code 0) bs
def mxPack (code : Nat) (es : List Nat) : List Byte :=
  if fmtBits code 0 = 8 then es.map (BitVec.ofNat 8) else packImage (fmtBits code 0) es

/-- The source bytes of unit u, as stream offsets. [MARK DEDUCED log 69] -/
def unitReads (c : Copy) (u : Nat) : List Nat :=
  let es := elemBytes (copySrc c)
  let n := unitElems c
  match c.xf with
  | 3 => (List.range (32 * prmK c)).map (fun i => 32 * prmN c * u + i)
  | 5 => (List.range (mxBytes (prmCode c))).map (fun i => mxBytes (prmCode c) * u + i) ++
         (List.range (n / 32)).map (fun b => 256 * prmSofs c + n / 32 * u + b)
  | 8 => if prmUnpack c then (List.range 128).map (fun i => 128 * u + i) else (List.range (n * prmN c / 8)).map (fun i => n * prmN c / 8 * u + i)
  | _ => (List.range (n * es)).map (fun i => n * es * u + i)

/-- The destination bytes of unit u, as stream offsets. [MARK DEDUCED log 69] -/
def unitWrites (c : Copy) (u : Nat) : List Nat :=
  match c.xf with
  | 4 =>
    let n := mxElems (prmCode c)
    (List.range (mxBytes (prmCode c))).map (fun i => mxBytes (prmCode c) * u + i) ++
    (List.range (n / 32)).map (fun b => 256 * prmSofs c + n / 32 * u + b)
  | _ => (List.range (unitOut c)).map (fun i => unitOut c * u + i)

/-- A unit's bytes transformed: its destination bytes, and the clamps made, of a format code. -/
def transformUnit (c : Copy) (bs : List Byte) : List Byte × Nat × Nat :=
  let word := fun n i => leNat ((bs.drop (n * i)).take n)
  match c.xf with
  | 2 =>
    let rs := bs.map (fun b => narrow 20 (prmN c) 0 (prmSat c) true (.ofInt (sext 8 b.toNat)))
    (packPlanes (prmN c) (rs.map Prod.fst), 20, (rs.filter Prod.snd).length)
  | 3 => ((List.range 256).map (fun i => BitVec.ofInt 8 (planesAt (prmK c) bs i)), 0, 0)
  | 4 =>
    let code := prmCode c
    let es := elemBytes (copySrc c)
    let qs := (List.range (mxElems code / 32)).map (fun b =>
      mxQuant code (prmRnd c) false ((List.range 32).map (fun i => valueOf (copySrc c).format 0 (word es (32 * b + i)))))
    (mxPack code (qs.flatMap (fun q => q.2.1)) ++ qs.map (fun q => BitVec.ofNat 8 q.1), code, (qs.map (fun q => q.2.2)).sum)
  | 5 =>
    let code := prmCode c
    let f := (copyDst c).format
    let n := mxBytes code
    let rs := (mxUnpack code (bs.take n)).mapIdx (fun i e => narrow f 0 (prmRnd c) false false (applyScale ((bs.getD (n + i / 32) 0).toNat) (valueOf code 0 e)))
    (rs.flatMap (fun r => bytesOf (elemBytes (copyDst c)) r.1), f, (rs.filter Prod.snd).length)
  | 8 =>
    let w := prmN c
    if prmUnpack c then
      let v := (unpackImage w bs).foldr (fun e a => e + 2 ^ w * a) 0
      (bytesOf (unitOut c) v, 0, 0)
    else (packImage w ((List.range (imageElems w)).map (fun i => leNat bs / 2 ^ (w * i) % 2 ^ w)), 0, 0)
  | _ => (bs, 0, 0)

/-! ### Issue (R231, R232, R234, R235, R354, R368) -/

/-- 0.13 of a copy's sizes; `ka` and `kb` say whether its source and destination words have a value (R354).
[MARK DEDUCED log 73] -/
def copySizesBad (c : Copy) (dkind : Nat) (ka kb : Bool) : Bool :=
  c.width == 0 || c.height == 0 || c.planes == 0 || decide (65535 < c.planes) ||
  (ka && c.srcScratch && decide (2 ^ 20 ≤ (copySrc c).base)) || (kb && c.dstScratch && decide (2 ^ 20 ≤ (copyDst c).base)) ||
  (dkind == 2 && (c.xf != 0 || (ka && decide (256 < copyElems c * elemBytes (copySrc c))))) ||
  ((c.xf == 2 || c.xf == 3) && (decide (prmN c < 2 ∨ 8 < prmN c))) || (c.xf == 3 && decide (prmN c < prmK c)) ||
  (c.xf == 8 && !([2, 4, 6].contains (prmN c)))

/-- 0.16 of a copy's records and formats. [MARK DEDUCED log 73] -/
def copyFormatBad (c : Copy) (toRecord ka kb : Bool) : Bool :=
  let a := copySrc c
  let b := copyDst c
  let wide := fun (r : BufRec) => (r.format == 1 && r.esz == 2) || (r.format == 3 && r.esz == 1)
  let mx := fun (_ : Unit) => !isMx (prmCode c) || prmRnd c == 3 || c.width % 32 != 0
  (kb && toRecord && (b.ro || (b.cmp && c.xf != 6) || (c.xf == 6 && !b.cmp))) ||
  (ka && ((a.cmp && c.xf != 7) || (c.xf == 7 && !a.cmp))) || (c.xf == 6 && c.dstScratch) || (c.xf == 7 && c.srcScratch) ||
  (match c.xf with
   | 0 => ka && kb && toRecord && a.esz != b.esz
   | 1 => (ka && kb && a.esz != b.esz) || (ka && a.esz == 3) || (kb && b.esz == 3)
   | 9 => ka && kb && a.esz != b.esz
   | 2 => ka && a.esz != 0
   | 3 => kb && b.esz != 0
   | 4 => (ka && !wide a) || mx ()
   | 5 => (kb && !wide b) || mx ()
   | _ => false) ||
  (ka && copyElems c % unitElems c != 0)

/-- The copy an instruction describes. -/
def copyOf (s : State) (iss : Iss) (src dst : Nat → Nat) (srcScratch dstScratch : Bool) (xf : Nat) (done : CopyDone)
    (planes : Nat) (sstep dstep : W32) : Copy :=
  let p := quadW32 s iss iss.k iss.o.c
  { id := 0, ctx := iss.tm.ctx, team := iss.t, group := iss.g, tx := iss.tm.x, ty := iss.tm.y, tz := iss.tm.z, gen := iss.tm.gen, pc := iss.pc, srcScratch := srcScratch, dstScratch := dstScratch,
    src := (List.range 4).map (fun j => BitVec.ofNat 32 (src j)), dst := (List.range 4).map (fun j => BitVec.ofNat 32 (dst j)),
    sstart := p 0, dstart := p 1, width := (p 2).toNat % 65536, height := (p 2).toNat / 65536, param := (p 3).toNat, xf := xf,
    planes := planes, sstep := sstep, dstep := dstep, done := done, pos := 0, boundsHit := 0, boundsRec := none, gathered := [], pending := [], fetched := [], ahead := [],
    landed := false, stopped := false, after := 0, waitTouch := none }

/-- R14: a core's engine holds at most 32 accepted copies; suspended copies of a moved team that wait for room go first (R442).
[MARK DESIGN CHOICE log 130] -/
def copyRoom (s : State) (core : Nat) : Bool :=
  decide ((coreOf s core).copies.length < 32) && !s.teams.any (fun e => e.2.core == core && e.2.phase != .saved && e.2.savedCopies != [])

/-- The first suspended copy of a team on its core enters the copy engine, if it has room: ahead of what is there already
(R14, R442). [MARK DESIGN CHOICE log 130] -/
def enterCopy (s : State) (t : Nat) : State :=
  match teamOf s t with
  | some tm =>
    match tm.savedCopies with
    | c :: r =>
      if tm.phase != .saved && decide ((coreOf s tm.core).copies.length < 32) then
        modCore (modTeam s t (fun tm => { tm with savedCopies := r })) tm.core (fun k => { k with copies := c :: k.copies })
      else s
    | [] => s
  | none => s

/-- The copy enters the engine, at its place in the core store order (R132). -/
def acceptCopy (s : State) (core : Nat) (c : Copy) : State :=
  let p := takePlace s c.team c.group core
  modCore { p.2 with nextId := s.nextId + 1 } core (fun k => { k with copies := k.copies ++ [{ c with id := s.nextId, after := p.1 }] })

/-- The engine takes the copy; with .EXP its bytes are expected at once (R233). [MARK DEDUCED log 75] -/
def finishCopy (s : State) (iss : Iss) (exp : Bool) (c : Copy) : Res :=
  if !copyRoom s iss.tm.core then .ok (.wait .retry s)
  else
    match c.done with
    | .object off =>
      if exp && (mget iss.tm.objs (off / 16)).isSome then
        match objTest (objAt iss.tm off) (.expect (copyBytes c)) with
        | .error (code, d) => .ok (.stay (objFault s iss code off d))
        | .ok b => .ok (.adv (acceptCopy (objPut s iss.t off b) iss.tm.core c))
      else .ok (.adv (acceptCopy s iss.tm.core c))
    | _ => .ok (.adv (acceptCopy s iss.tm.core c))

/-- The completion an operand names: an object or a timeline; a message's timeline. -/
def completion (dkind : Nat) (target v : W32) : CopyDone :=
  if dkind = 1 then .object v.toNat else if dkind = 2 then .message target v.toNat else .timeline v.toNat

/-- The conditions of a completion operand: an object's offset (0.14, 0.15) or a timeline index (0.13). -/
def completionBad (iss : Iss) (dkind : Nat) (v : W32) : Option Flt :=
  let n := v.toNat
  if dkind = 1 then firstFlt [fltIf iss (n % 16 != 0) 14, fltIf iss (decide (iss.tm.scratchBytes < n + 16)) 15]
  else fltIf iss (decide (4095 < n)) 13

/-- A value that a source has, if it has met no condition. -/
def valueIn {α : Type} (e : Except Flt (Option α)) : Option α :=
  match e with
  | .ok v => v
  | .error _ => none

/-- A source in a vector register under an empty exec: the instruction has no effect (R39). [MARK DEDUCED log 137] -/
def idle {α : Type} (e : Except Flt (Option α)) : Bool :=
  match e with
  | .ok none => true
  | _ => false

/-- A copy instruction: `q` gives planes, the two steps and the completion operand; its conditions are taken in the order of R354.
[MARKS DEDUCED log 64, DEDUCED log 74, DEDUCED log 137] -/
def copyInstr (i : Instr) (o : Operands) (s : State) (q : Iss → Nat × W32 × W32 × Except Flt (Option W32)) : Host.Outcome State Fault Refusal :=
  issued i o s (fun iss s =>
    let dkind := dkindOf o
    let x := q iss
    let ra := recordWords s iss o.a
    let rb := if dkind = 2 then (uniform32 s iss o.b).map (fun v => v.map (fun w => (fun _ : Nat => w.toNat))) else recordWords s iss o.b
    let rd := x.2.2.2
    if idle ra || idle rb || idle rd then .ok (.adv s)
    else
      let a := valueIn ra
      let b := valueIn rb
      let zero := fun (_ : Nat) => 0
      let c := copyOf s iss (a.getD zero) (b.getD zero) (skindOf o) (dkind == 1) (xfOf o) (.timeline 0) x.1 x.2.1 x.2.2.1
      let gather := c.xf == 9
      match firstFlt [fltOf ra, fltOf rb, a.bind (fun a => fltOf (checkRecord iss a)),
          b.bind (fun b => if dkind = 2 then (targetBad (BitVec.ofNat 32 (b 0))).map (flt0 iss) else fltOf (checkRecord iss b)),
          fltIf iss (copySizesBad c dkind a.isSome b.isSome) 13, fltIf iss (copyFormatBad c (dkind != 2) a.isSome b.isSome) 16,
          fltOf rd, (valueIn rd).bind (completionBad iss dkind),
          fltIf iss (gather && c.param % 4 != 0) 14, fltIf iss (gather && decide (iss.tm.scratchBytes < c.param + 4 * c.height)) 15] with
      | some fl => .error (fl, s)
      | none =>
        match b, valueIn rd with
        | some b, some v => finishCopy s iss (expOf o) { c with done := completion dkind (BitVec.ofNat 32 (b 0)) v }
        | _, _ => .ok (.adv s))

/-- TCOPY (R231 to R233). -/
def execTcopy (o : Operands) (s : State) : Host.Outcome State Fault Refusal :=
  copyInstr (.tcopy o) o s (fun iss => (1, 0, 0, uniform32 s iss o.d))

/-- TCOPYX: the planes, steps and completion of the second quad (R234). [MARK DEDUCED log 70] -/
def execTcopyx (o : Operands) (s : State) : Host.Outcome State Fault Refusal :=
  copyInstr (.tcopyx o) o s (fun iss =>
    let d := quadW32 s iss iss.k o.d
    ((d 0).toNat, d 1, d 2, .ok (some (d 3))))

/-- A record base tested by the walk and the frame alone (R235): its physical address. [MARK DEDUCED log 78] -/
def baseFrame (s : State) (iss : Iss) (k : Access) (va : Nat) : Except MemStop Nat :=
  let w := whoOf iss.tm
  let flt := fun (c d : Nat) => (MemStop.flt { cls := 3, code := c, mask := maskOf (fun l => l == 4 * iss.k), addr := BitVec.ofNat 64 va, detail := some (BitVec.ofNat 32 d), acc := [(4 * iss.k, BitVec.ofNat 64 va, k.num)] })
  match walk s w va with
  | .bad code level => .error (flt code (if code = 1 then 0 else level))
  | .err a l => .error (.err a l)
  | .held => .error .held
  | .leaf e level =>
    if replicasHeld s w va e then .error .held
    else if Word.bit e 6 && Word.field e 53 52 != 2 then .ok 0
    else match framesOf s w .read va e (Word.field e 51 16 * 2 ^ 16) (if level = 1 then va % 2 ^ 27 else va % 2 ^ 16) with
      | .error x => .error (flt x.1 x.2)
      | .ok (pa, _) => .ok pa

/-- The conditions of TPEER that rest on where its records' bases translate to: a class-3 condition, or 0.16 with no base on a peer (R235,
R354). [MARK DEDUCED log 78] -/
def nearFlt (iss : Iss) (bases : Except MemStop Nat × Except MemStop Nat) : Option Flt :=
  match bases with
  | (.error (.flt f), _) => some f
  | (.ok _, .error (.flt f)) => some f
  | (.ok x, .ok y) => fltIf iss (!isPeer x && !isPeer y) 16
  | _ => none

/-- Those conditions stand with 0.16 in the order of R354. [MARK DEDUCED log 78] -/
def firstOf (early near : Option Flt) (iss : Iss) : Option Flt :=
  match early, near with
  | some e, some f => if rank e ≤ rank (flt0 iss 16) then some e else some f
  | e, f => e.or f

/-- TPEER: global to global, one of the bases in the peer window; a class-3 condition of a base goes before the 0.16 that depends
on it (R235, R354). [MARKS DEDUCED log 78, DEDUCED log 137] -/
def execTpeer (o : Operands) (s : State) : Host.Outcome State Fault Refusal :=
  issued (.tpeer o) o s (fun iss s =>
    let ra := recordWords s iss o.a
    let rb := recordWords s iss o.b
    let rd := uniform32 s iss o.d
    if idle ra || idle rb || idle rd then .ok (.adv s)
    else
      let a := valueIn ra
      let b := valueIn rb
      let zero := fun (_ : Nat) => 0
      let c := copyOf s iss (a.getD zero) (b.getD zero) false false 0 (.timeline 0) 1 0 0
      let early := firstFlt [fltOf ra, fltOf rb, a.bind (fun a => fltOf (checkRecord iss a)), b.bind (fun b => fltOf (checkRecord iss b)),
          fltIf iss (copySizesBad c 0 a.isSome b.isSome) 13, fltIf iss (copyFormatBad c true a.isSome b.isSome) 16, fltOf rd, (valueIn rd).bind (completionBad iss 0)]
      let bases := (baseFrame s iss .read (copySrc c).base, baseFrame s iss .write (copyDst c).base)
      let near := if a.isSome && b.isSome then nearFlt iss bases else none
      match firstOf early near iss, valueIn rd with
      | some fl, _ => .error (fl, s)
      | none, none => .ok (.adv s)
      | none, some v =>
        match bases with
        | (.error e, _) => memStop s iss e
        | (_, .error e) => memStop s iss e
        | (.ok _, .ok y) =>
          let away := mf o 62 62 == 0 && isPeer y
          finishCopy s iss false { c with done := if away then .peerTimeline (peerDevice y) v.toNat else .timeline v.toNat })

/-! ### Landing -/

/-- The core that runs copy `id`, and the copy. -/
def findCopy (s : State) (id : Nat) : Option (Nat × Copy) :=
  s.cores.findSome? (fun e => (e.2.copies.find? (fun c => c.id == id)).map (fun c => (e.1, c)))

def modCopy (s : State) (core id : Nat) (f : Copy → Copy) : State :=
  modCore s core (fun k => { k with copies := k.copies.map (fun c => if c.id == id then f c else c) })

/-- R132: what precedes the copy in program order, and what its group had acquired, has reached .PKG. [MARK DEDUCED log 76] -/
def copySourceReady (s : State) (core : Nat) (c : Copy) : Bool := reached s c.team c.group core 3 c.after

/-- A request to a peer that the copy waits for: its reads while it lands, its writes before it completes. -/
def copyAsks (s : State) (id : Nat) : Bool := s.peerReqs.any (fun q => q.who == .copyRead id)
def copyAcks (s : State) (id : Nat) : Bool := s.peerReqs.any (fun q => q.who == .copyWrite id)

/-- The team a copy belongs to; once it has retired, a stand-in whose scratchpad holds nothing known (R48, R53).
[MARK DESIGN CHOICE log 77] -/
def copyTeam (s : State) (core : Nat) (c : Copy) : Team :=
  match teamOf s c.team with
  | some tm => tm
  | none => { Team.blank with ctx := c.ctx, core := core, gen := c.gen, x := c.tx, y := c.ty, z := c.tz, scratchBytes := 2 ^ 20, scratchNonce := c.id }

/-- The bounds record of a copy, once it has landed or stopped (R401). [MARK DEDUCED log 72] -/
def boundsRecord (s : State) (core : Nat) (c : Copy) : State :=
  match c.boundsRec with
  | some (code, a) =>
    postRecord s c.ctx (teamRecord (copyTeam s core c) c.group { cls := 2, code := code, addr := BitVec.ofNat 64 a, detail := some (BitVec.ofNat 32 c.boundsHit), pc := c.pc })
  | none => s

/-- R417: the copy lands no more bytes; one record, for the first condition only, and its team is aborted. Where its last unit has landed,
its bounds record has been posted then (R401). -/
def stopCopy (s : State) (core : Nat) (c : Copy) (cls code addr detail : Nat) : State :=
  if c.stopped then s else
  let s := if c.landed then s else boundsRecord s core c
  let s := modCopy s core c.id (fun c => { c with landed := true, stopped := true })
  let r : RecIn := { cls := cls, code := code, addr := BitVec.ofNat 64 addr, detail := some (BitVec.ofNat 32 detail), pc := c.pc }
  match teamOf s c.team with
  | some _ => faultTeam s c.team c.group r
  | none => postRecord s c.ctx (teamRecord (copyTeam s core c) c.group r)

/-- Bytes of a unit with, for each, whether it is in its record, and its address. -/
structure UnitBytes where
  srcs : List (Bool × Nat)
  dsts : List (Bool × Nat)
  deriving DecidableEq, Repr

/-- Where unit `pos` of a copy reads and writes. `row` is the source row of .GATHER. [MARKS DEDUCED log 69, DEDUCED log 74] -/
def unitBytes (c : Copy) (row : Int) : UnitBytes :=
  let a := copySrc c
  let b := copyDst c
  if c.xf = 0 ∨ c.xf = 1 ∨ c.xf = 9 then
    let x := c.pos % c.width
    let y := c.pos / c.width % c.height
    let z := c.pos / (c.width * c.height)
    let src := placed a c.sstart c.sstep z c.width x (if c.xf = 9 then row else y)
    let dst := if c.xf = 1 then placed b c.dstart c.dstep z c.height y x else placed b c.dstart c.dstep z c.width x y
    let spread := fun (e : Bool × Nat) => (List.range (elemBytes a)).map (fun i => (e.1, e.2 + i))
    { srcs := spread src, dsts := spread dst }
  else
    { srcs := (unitReads c c.pos).map (streamAt a c.sstart),
      dsts := if c.xf = 6 then (List.range 256).map (fun i => streamAt b c.dstart (256 * c.pos + i)) else (unitWrites c c.pos).map (streamAt b c.dstart) }

/-- The first bounds condition of a unit, with its element's address, and how many elements it affects, on one side (R401).
[MARK DEDUCED log 72] -/
def sideBounds (tm : Team) (scratch : Bool) (r : BufRec) (bs : List (Bool × Nat)) : Option (Nat × Nat) × Nat :=
  let es := elemBytes r
  let bad := fun (e : Bool × Nat) => if !e.1 then (if r.ozr then none else some 4)
    else if scratch && decide (tm.scratchBytes ≤ e.2) then some 5 else none
  let hits := ((bs.mapIdx (fun i e => (i / es, bad e))).filter (fun x => x.2 != none))
  (hits.head?.bind (fun x => x.2.map (fun code => (code, match bs[x.1 * es]? with | some e => e.2 | none => 0))), (hits.map Prod.fst).eraseDups.length)

/-- The dwords of scratchpad that a unit reads a part of, each read whole at the first unit that reads of it (R332).
[MARK DEDUCED log 71] -/
def readAhead (tm : Team) (c : Copy) (srcs : List (Bool × Nat)) : List (Nat × Byte) :=
  if !c.srcScratch then [] else
  let as := (srcs.filter (fun e => e.1)).map Prod.snd
  let part := ((as.map (fun a => a / 4)).eraseDups).filter (fun w => !(List.range 4).all (fun i => as.contains (4 * w + i)))
  part.flatMap (fun w => (List.range 4).map (fun i =>
    (4 * w + i, match c.ahead.find? (fun p => p.1 == 4 * w + i) with | some p => p.2 | none => scratchByte tm (4 * w + i))))

/-- The source bytes of a unit; out-of-range bytes are zero. -/
def unitSource (s : State) (tm : Team) (c : Copy) (srcs : List (Bool × Nat)) : Except EStop (List Byte) :=
  if c.srcScratch then
    let ahead := readAhead tm c srcs
    .ok (srcs.map (fun e => if e.1 && decide (e.2 < tm.scratchBytes) then
      (match ahead.find? (fun p => p.1 == e.2) with | some p => p.2 | none => scratchByte tm e.2) else 0))
  else
    match engineRead s (whoOf tm) false c.fetched ((srcs.filter (fun e => e.1)).map Prod.snd) with
    | .error e => .error e
    | .ok bs =>
      .ok ((srcs.foldl (fun (acc : List Byte × List Byte) e =>
        if e.1 then (acc.1 ++ [acc.2.headD 0], acc.2.tail) else (acc.1 ++ [0], acc.2)) ([], bs)).1)

/-- The nibble of a side-table byte that is a block's entry (R100). -/
def sideEntry (va b : Nat) : Nat := if va / 256 % 2 = 0 then b % 16 else b / 16

/-- A compressed block of the source expanded (.DCMP): its slot and side-table byte are read (R99, R100, R403).
[MARK DESIGN CHOICE log 161] -/
def expandSource (s : State) (tm : Team) (c : Copy) (srcs : List (Bool × Nat)) : Except EStop (List Byte) :=
  let w := whoOf tm
  match srcs.find? (fun e => e.1) with
  | none => .ok (srcs.map (fun _ => 0))
  | some (_, va) => do
    let xs ← engineXlat s w .read true [va - va % 256]
    let side ← engineRead s w false c.fetched [sideAddr s w va]
    let b := ((side[0]?).getD 0).toNat
    let e := sideEntry va b
    let slot ← engineFetch s w c.fetched ((xs.headD { va := 0, pa := 0, others := [], block := none }) |> fun x =>
      (List.range (if e ≤ 8 then 32 * e else 4)).map (fun i => { x with pa := x.pa + i }))
    let chk := blockCheck e (leNat (slot.take 4))
    if !chk.1 then .error (.charge 8 5 ((xs.map (fun x => x.pa)).headD 0) (e + 256 * chk.2))
    else .ok (srcs.map (fun q => if q.1 then expandByte e (fun i => (slot[i]?).getD 0) (q.2 % 256) else 0))

/-- Bytes landing in scratchpad: 5.10 before the first, 8.4 for a damaged word written in part, 5.7 on a live object, then the bytes
and their arrival (R406, R418, R419). [MARK DEDUCED log 75] -/
def landScratch (s : State) (core : Nat) (c : Copy) (ps : List (Nat × Byte)) (n : Nat) : State :=
  match teamOf s c.team with
  | none => s
  | some tm =>
    let off := match c.done with | .object off => some off | _ => none
    match off with
    | some off =>
      if (mget tm.objs (off / 16)).isNone then
        modCopy (faultTeam (boundsRecord s core c) c.team c.group (objRecord 10 off (copyBytes c) c.pc)) core c.id (fun c => { c with landed := true, stopped := true })
      else settle (put s tm) off
    | none => put s tm
where
  put (s : State) (tm : Team) : State :=
    if badPart tm (ps.map Prod.fst) then stopCopy s core c 8 4 0 3
    else match liveHit s c.team tm (ps.map Prod.fst) with
      | some o => faultTeam s c.team c.group (liveRecord tm o c.pc)
      | none => scratchPut s c.team ps
  settle (s : State) (off : Nat) : State :=
    match teamOf s c.team with
    | none => s
    | some tm =>
      if badScratch tm [off, off + 4, off + 8, off + 12] then stopCopy s core c 8 4 0 3 else
      match objTest (objAt tm off) (.land n) with
      | .error (code, d) => faultTeam s c.team c.group (objRecord code off d c.pc)
      | .ok b => objPut s c.team off b

/-- The unit has moved, unless the copy has been stopped: bounds conditions counted, bytes held back for their sectors, and the next unit
stands, or none. [MARKS DEDUCED log 71, DEDUCED log 72] -/
def stepCopy (s : State) (core : Nat) (c : Copy) (hit : Option (Nat × Nat)) (n : Nat) (pending ahead : List (Nat × Byte)) : State :=
  if (match findCopy s c.id with | some x => x.2.stopped | none => true) then s else
  let c' := { c with boundsRec := c.boundsRec.or hit, boundsHit := c.boundsHit + n }
  let last := decide (copyUnits c ≤ c.pos + 1)
  let s := modCopy s core c.id (fun c => { c with pos := c.pos + 1, boundsRec := c'.boundsRec, boundsHit := c'.boundsHit, fetched := [], ahead := ahead, waitTouch := none, pending := pending, landed := c.landed || last })
  if last then boundsRecord s core c' else s

/-- The sector of 32 bytes, or dword of scratchpad, of a destination byte: its bytes from one copy land together (R18, R133).
[MARK DEDUCED log 71] -/
def granuleOf (c : Copy) (a : Nat) : Nat := if c.dstScratch then a / 4 else a / 32

/-- The bytes moved so far that land now: those of sectors or dwords that no later unit of the copy reaches; and those that do not.
[MARK DEDUCED log 71] -/
def landing (c : Copy) (ps : List (Nat × Byte)) : List (Nat × Byte) × List (Nat × Byte) :=
  let later := (List.range (copyUnits c - (c.pos + 1))).flatMap (fun i =>
    ((unitBytes { c with pos := c.pos + 1 + i } 0).dsts.filter (fun e => e.1)).map (fun e => granuleOf c e.2))
  (ps.filter (fun p => !later.contains (granuleOf c p.1)), ps.filter (fun p => later.contains (granuleOf c p.1)))

/-- A stop on the way to landing a unit; none where an atomic of the core comes first. -/
def landStop (s : State) (core : Nat) (tm : Team) (c : Copy) (e : EStop) : Option State :=
  match e with
  | .charge cls code a d => some (stopCopy s core c cls code a d)
  | .touch b a =>
    let u := makeTouch s c.ctx b (dieOf core) (.copy c.id) tm.gen 0 a
    some (modCopy u.2 core c.id (fun c => { c with waitTouch := some u.1 }))
  | .regen b => some (regenerate s c.ctx b)
  | .ask ls => some (sendPeerReads s c.ctx c.pc (.copyRead c.id) ls)
  | .held => none

/-- The address of a unit's block, if it is in range. [MARK DESIGN CHOICE log 161] -/
def blockVa (dsts : List (Bool × Nat)) : Option Nat := (dsts.find? (fun e => e.1)).map Prod.snd

/-- The side-table bytes that land now: those of sectors that no later block of the copy reaches; and those that do not (R133).
[MARK DEDUCED log 71] -/
def landingSide (s : State) (w : Who) (c : Copy) (ps : List (Nat × Byte)) : List (Nat × Byte) × List (Nat × Byte) :=
  let later := (List.range (copyUnits c - (c.pos + 1))).filterMap (fun i =>
    (blockVa (unitBytes { c with pos := c.pos + 1 + i } 0).dsts).map (fun va => sideAddr s w va / 32))
  (ps.filter (fun p => !later.contains (p.1 / 32)), ps.filter (fun p => later.contains (p.1 / 32)))

/-- The bytes of a unit's block, those of elements that are not written as the block held them before, under its entry e (R99, R401).
What a block with no sound entry held is a free value. [MARK DEDUCED log 166] -/
def keptBytes (s : State) (w : Who) (c : Copy) (dsts : List (Bool × Nat)) (block e : Nat) (bs : List Byte) : Except EStop (List Byte) := do
  let xs ← engineXlat s w .write true ((List.range (if e ≤ 8 then 32 * e else 0)).map (fun i => block + i))
  let slot ← engineFetch s w c.fetched xs
  let sound := decide (e ≤ 8) && (blockCheck e (leNat (slot.take 4))).1
  .ok ((dsts.zip bs).mapIdx (fun i x => if x.1.1 then x.2 else if sound then expandByte e (fun j => (slot[j]?).getD 0) i else Config.foreignByte w.ctx 0 (block + i)))

/-- The compressed form of a block written: its slot's sectors; its side-table nibble joins the bytes held back, which land with the last
of their sector (R99 to R101, R133). What is still held back comes with the state.
[MARKS DEDUCED log 71, DESIGN CHOICE log 161, DEDUCED log 166] -/
def landCompressed (s : State) (tm : Team) (c : Copy) (dsts : List (Bool × Nat)) (bs : List Byte) : Except EStop (State × List (Nat × Byte)) :=
  match blockVa dsts with
  | none => .ok (s, c.pending)
  | some va => do
    let w := whoOf tm
    let _ ← engineXlatOut s w true [va - va % 256]
    let sa := sideAddr s w va
    let old ← match c.pending.find? (fun p => p.1 == sa) with
      | some p => .ok [p.2]
      | none => engineRead s w false c.fetched [sa]
    let b := ((old[0]?).getD 0).toNat
    let bs ← if dsts.all (fun e => e.1) then .ok bs else keptBytes s w c dsts (va - va % 256) (sideEntry va b) bs
    let z := compressBlock bs
    let slot ← engineXlatOut s w true ((List.range (max 1 z.2.length)).map (fun i => va - va % 256 + i))
    let b := if va / 256 % 2 = 0 then b / 16 * 16 + z.1 else b % 16 + 16 * z.1
    let ps := landingSide s w c (c.pending.filter (fun p => p.1 != sa) ++ [(sa, BitVec.ofNat 8 b)])
    let side ← match engineXlatOut s w false (sa :: ps.1.map Prod.fst) with
      | .error (.charge 3 code a _) => .error (.charge 3 13 a code)
      | x => x
    .ok (engineWrite s c.ctx c.pc (.copyWrite c.id) (slot.zip z.2 ++ side.tail.zip (ps.1.map Prod.snd)), ps.2)

/-- One element or unit moves, and what can land of it and of earlier ones lands (R18, R133, R232, R233, R401, R417).
[MARKS DEDUCED log 71, DEDUCED log 74] -/
def landUnit (s : State) (core : Nat) (c : Copy) (tm : Team) : Option State :=
  let idxAt := c.param + 4 * (c.pos / c.width % c.height)
  let idx := (List.range 4).map (fun i => idxAt + i)
  let row := sext 32 (leNat (idx.map (fun a => if a < tm.scratchBytes then scratchByte tm a else 0)))
  let u := unitBytes c row
  let scratchReads := (if c.srcScratch then (u.srcs.filter (fun e => e.1 && decide (e.2 < tm.scratchBytes))).map Prod.snd else []) ++ (if c.xf = 9 then idx else [])
  let ahead := readAhead tm c u.srcs
  if badScratch tm scratchReads then some (stopCopy s core c 8 4 0 3)
  else
    match (if c.xf = 7 then expandSource s tm c u.srcs else unitSource s tm c u.srcs) with
    | .error e => landStop s core tm c e
    | .ok bs =>
      let hs := sideBounds tm c.srcScratch (copySrc c) u.srcs
      let toRecord := match c.done with | .message _ _ => false | _ => true
      let hd := if toRecord then sideBounds tm c.dstScratch (copyDst c) u.dsts else (none, 0)
      let hit := hs.1.or hd.1
      let n := if unitElems c = 1 then (if hit.isSome then 1 else 0) else hs.2 + hd.2
      let r := transformUnit c bs
      let count := fun s => countFor s c.team r.2.1 r.2.2
      if !toRecord then some (stepCopy (modCopy s core c.id (fun c => { c with gathered := c.gathered ++ bs })) core c hit n [] ahead)
      else if c.xf = 6 then
        match landCompressed s tm c u.dsts bs with
        | .error e => landStop s core tm c e
        | .ok x => some (stepCopy x.1 core c hit n x.2 [])
      else
        let out := (u.dsts.zip r.1).filter (fun e => e.1.1 && (!c.dstScratch || decide (e.1.2 < tm.scratchBytes)))
        let ps := landing c (c.pending ++ out.map (fun e => (e.1.2, e.2)))
        if c.dstScratch then some (stepCopy (count (landScratch s core c ps.1 (ps.1.length + (u.dsts.length - out.length)))) core c hit n ps.2 ahead)
        else
          match engineXlatOut s (whoOf tm) false (ps.1.map Prod.fst) with
          | .error e => landStop s core tm c e
          | .ok xs => some (stepCopy (count (engineWrite s c.ctx c.pc (.copyWrite c.id) (xs.zip (ps.1.map Prod.snd)))) core c hit n ps.2 ahead)

/-- COPY_BYTES_LAND: the next element or unit of an accepted copy (R132, R232, R233). [MARK DEDUCED log 71] -/
def execCopyBytesLand (copy : Nat) (s : State) : Host.Outcome State Fault Refusal :=
  match findCopy s copy with
  | none => .refused .eventNotEnabled
  | some (core, c) =>
    let waits := match c.waitTouch with | some u => touchPending s c.ctx u | none => false
    let stopped := match ctxOf s c.ctx with | some q => q.phase == .saving || q.phase == .stopped | none => true
    if c.landed || stopped || waits || copyAsks s copy || !copySourceReady s core c then .refused .eventNotEnabled
    else match landUnit s core c (copyTeam s core c) with
      | some s => .next s
      | none => .refused .eventNotEnabled

/-- A copy's message leaves as MBPOST's does: what precedes the copy, and what its group had acquired, has reached .DOM for a peer's
mailbox, .PKG else (R132, R140, R233). [MARK DEDUCED log 59] -/
def completionReady (s : State) (core : Nat) (c : Copy) : Bool :=
  match c.done with
  | .message w _ => c.stopped || reached s c.team c.group core (targetScope w) c.after
  | _ => true

/-- COPY_COMPLETE: every byte has reached its coherence point; the completion is made, unless the copy was stopped (R137, R233,
R417). -/
def execCopyComplete (copy : Nat) (s : State) : Host.Outcome State Fault Refusal :=
  match findCopy s copy with
  | none => .refused .eventNotEnabled
  | some (core, c) =>
    if !c.landed || copyAcks s copy || !completionReady s core c then .refused .eventNotEnabled
    else
      let s := modCore s core (fun k => { k with copies := k.copies.filter (fun c => c.id != copy) })
      if c.stopped then .next s
      else match c.done with
        | .object _ => .next s
        | .timeline i => .next (advanceTimeline s c.ctx i 1 c.pc)
        | .message w i => .next (sendTo (released s core c.after) .copy c.ctx c.team c.group w c.gathered (some { ctx := c.ctx, index := i, team := c.team, pc := c.pc }) c.pc c.after)
        | .peerTimeline d i =>
          .next (sendRequest s d 0 c.ctx c.pc (.copyTimeline c.team c.group) 0 (fun id => .peerTimeline id d c.ctx i))

end Sys2Proof.Machine
end

