-- ==== Sys2Proof/Machine/Card.lean ====
section
/-! DEFINITION. Job cards: their fields (R246 to R250, R254 to R256) and the engine's check of a card (R251, R252, R261, R415). -/

namespace Sys2Proof.Machine

/-- A level entry (R250). -/
structure Level where
  cnt : Nat
  ts : Nat
  sa : Int
  sb : Int
  so : Int
  ssa : Int
  ssb : Int
  rstep : Nat
  cstep : Nat
  deriving DecidableEq, Repr

/-- Dword at byte offset a of a card. -/
def cardW (bs : List Byte) (a : Nat) : Nat := leNat ((bs.drop a).take 4)
def cardS (bs : List Byte) (a : Nat) : Int := sext 32 (cardW bs a)

def cardMode (bs : List Byte) : Nat := cardW bs 0 % 16
def cardNlev (bs : List Byte) : Nat := Word.field (cardW bs 0) 6 4
def cardZinit (bs : List Byte) : Bool := Word.bit (cardW bs 0) 7
def cardM (bs : List Byte) : Nat := Word.field (cardW bs 0) 14 8 + 1
def cardN (bs : List Byte) : Nat := Word.field (cardW bs 0) 22 16 + 1
def cardK (bs : List Byte) : Nat := cardW bs 4 % 2 ^ 24
def cardPen (bs : List Byte) (i : Nat) : Bool := Word.bit (cardW bs 8) i
/-- [MARK DEDUCED log 83] -/
def cardNa (bs : List Byte) : Nat := cardW bs 12 % 16
/-- [MARK DEDUCED log 83] -/
def cardNb (bs : List Byte) : Nat := Word.field (cardW bs 12) 7 4
def cardDacc (bs : List Byte) : Bool := Word.bit (cardW bs 64) 8
def cardAct (bs : List Byte) : Nat := Word.field (cardW bs 64) 5 4
def cardBiasRow (bs : List Byte) : Bool := Word.bit (cardW bs 64) 2
def cardScale (bs : List Byte) : Nat := cardW bs 64 % 4
/-- The size of a card (R246). -/
def cardSize (nlev : Nat) : Nat := 112 + 28 * (nlev + 1)

def levelAt (bs : List Byte) (l : Nat) : Level :=
  let a := 112 + 28 * l
  { cnt := cardW bs a % 65536, ts := Word.field (cardW bs a) 19 16, sa := cardS bs (a + 4), sb := cardS bs (a + 8), so := cardS bs (a + 12),
    ssa := cardS bs (a + 16), ssb := cardS bs (a + 20), rstep := cardW bs (a + 24) % 65536, cstep := cardW bs (a + 24) / 65536 }
/-- The levels, innermost first. [MARK DEDUCED log 162] -/
def levelsOf (bs : List Byte) : List Level := (List.range (cardNlev bs + 1)).map (levelAt bs)

/-- Fields of the recorded fmt (R56). -/
def fmtA (f : W32) : Nat := afmtOf f
def fmtB (f : W32) : Nat := Word.field f.toNat 9 5
def fmtAcc (f : W32) : Nat := Word.field f.toNat 11 10
def fmtMid (f : W32) : Bool := Word.bit f.toNat 21

/-- The formats of the FP32 rows of R251, and of B in FILTER and BLEND. -/
def fpOperand (c : Nat) : Bool := (3 ≤ c && c ≤ 14) || c == 16 || c == 17 || c == 20 || c == 22 || c == 23
def fpMajorB (c : Nat) : Bool := [3, 4, 5, 9, 10, 14, 16, 17, 22, 23].contains c
def intOperand (c : Nat) : Bool := c == 16 || c == 17 || c == 20

/-- R251 for a mode. -/
def comboOk (mode acc a b : Nat) : Bool :=
  match acc with
  | 0 => (mode == 0 && fpOperand a && fpOperand b) || ((mode == 2 || mode == 3) && fpOperand a && fpMajorB b)
  | 1 => mode == 0 && intOperand a && intOperand b
  | 2 => mode == 1 && a == 21 && b == 17
  | _ => false
/-- A row of R251 for some mode (R370). -/
def comboAny (f : W32) : Bool := (List.range 4).any (fun m => comboOk m (fmtAcc f) (fmtA f) (fmtB f))

/-- k per output per cycle (R243). -/
def kPerCycle (f : W32) : Nat :=
  let a := fmtA f
  let k := planesOf f
  if a = 20 then (if k ≤ 2 then 8 else if k ≤ 4 then 4 else 2)
  else if a = 8 ∨ a = 13 then 8
  else if [4, 5, 6, 7, 9, 10, 11, 12].contains a then 4 else 2

/-! ### Vectors in scratchpad (R252) -/

/-- Bytes of a vector of n elements; ON and RASTER elements have `planes` stored planes. -/
def vecBytes (code planes n : Nat) : Nat :=
  if code = 20 ∨ code = 21 then (n + 255) / 256 * (32 * planes)
  else match fmtBits code 0 with
    | 4 => (n + 255) / 256 * 128
    | 6 => (n + 159) / 160 * 128
    | w => n * (w / 8)

/-- What a base and a pitch are a multiple of. -/
def vecAlign (code : Nat) : Nat :=
  if code = 20 ∨ code = 21 then 32
  else match fmtBits code 0 with
    | 4 => 128
    | 6 => 128
    | w => w / 8

/-- Stored planes of an operand. -/
def storedA (bs : List Byte) (f : W32) : Nat := if fmtA f = 21 then 24 else cardNa bs
def storedB (bs : List Byte) : Nat := cardNb bs

/-! ### The check (R414, R415) -/

/-- The lowest and highest sum over levels of i * step. -/
def stepLo (ls : List Level) (f : Level → Int) : Int := (ls.map (fun l => min 0 (((l.cnt : Int) - 1) * f l))).sum
def stepHi (ls : List Level) (f : Level → Int) : Int := (ls.map (fun l => max 0 (((l.cnt : Int) - 1) * f l))).sum

/-- n runs of `len` bytes, `pitch` apart, from `base` moved by a step of each level, all counted in parts of a byte. -/
structure Span where
  base : Nat
  step : Level → Int
  n : Nat
  pitch : Nat
  len : Nat
  parts : Nat := 1

/-- Of the places `start` moved by i * step for each (count, step), the lowest that is not below t. [MARK DEDUCED log 80] -/
def lowestFrom : List (Nat × Int) → (start t : Int) → Option Int
  | [], start, t => if t ≤ start then some start else none
  | [(cnt, step)], start, t =>
    if t ≤ start then (if step < 0 then some (start + step * min ((cnt : Int) - 1) ((start - t) / -step)) else some start)
    else if 0 < step ∧ (t - start + step - 1) / step < cnt then some (start + step * ((t - start + step - 1) / step)) else none
  | (cnt, step) :: ms, start, t =>
    ((List.range cnt).filterMap (fun (i : Nat) => lowestFrom ms (start + (i : Int) * step) t)).min?

/-- The first byte of a span outside an allocation (R414): one below offset 0, or the lowest beyond the end.
[MARK DEDUCED log 80] -/
def spanOut (alloc : Nat) (ls : List Level) (p : Span) : Option Nat :=
  let low := (p.base : Int) + stepLo ls p.step
  let high := (p.base : Int) + stepHi ls p.step
  if p.len = 0 ∨ p.n = 0 then none
  else if low < 0 then some (low / p.parts % 2 ^ 32).toNat
  else if high + (p.n - 1) * p.pitch + p.len ≤ p.parts * alloc then none
  else
    let moves := (p.n, (p.pitch : Int)) :: ls.map (fun l => (l.cnt, p.step l))
    (lowestFrom (moves.filter (fun m => m.2 != 0 && m.1 != 1)) p.base (p.parts * (alloc + 1) - p.len)).map (fun a => max alloc (a.toNat / p.parts))

/-- Reserved bits and values of the card's dwords (5.1): the offset of the first one broken. -/
def cardReserved (bs : List Byte) : Option Nat :=
  let mode := cardMode bs
  let mp := fun (j m : Nat) => if (BitVec.ofNat 32 (cardW bs (48 + 4 * j)) &&& BitVec.ofNat 32 m) = 0 then none else some (48 + 4 * j)
  let test := fun (a m : Nat) => if (BitVec.ofNat 32 (cardW bs a) &&& BitVec.ofNat 32 m) = 0 then none else some a
  let masks := match mode with
    | 0 => [0xFFFFFFFF, 0xFFFFFFFF, 0xFFFFFFFF, 0xFFFFFFFF]
    | 1 => [0xFE000000, 0xFFFFE080, 0, 0xFFFFFFFF]
    | _ => [0xFFFFFFFE, 0xFFFFFFFF, 0xFFFFFFFF, 0xFFFFFFFF]
  [test 0 0xFF808000, test 4 0xFF000000, test 8 0xFFFFFF80, test 12 0xFFFFFF00, test 64 0xFFFFFEC8,
   mp 0 (masks.getD 0 0), mp 1 (masks.getD 1 0), mp 2 (masks.getD 2 0), mp 3 (masks.getD 3 0)].findSome? id

/-- Chunks of 32 (R245). -/
def chunksOf (bs : List Byte) : Nat := (cardK bs + 31) / 32
def totalSteps (bs : List Byte) : Nat := ((levelsOf bs).map (fun l => l.cnt)).foldl (fun a b => a * b) (chunksOf bs)

/-- Code 1: the header and the level entries. [MARK DEDUCED log 80] -/
def check1 (bs : List Byte) (f : W32) : Option (Nat × Nat) :=
  let ls := levelsOf bs
  let k := cardK bs
  let bad := fun a => some (1, a)
  match cardReserved bs with
  | some a => bad a
  | none =>
    if cardMode bs ≠ 1 ∧ (k = 0 ∨ k % kPerCycle f ≠ 0) then bad 4
    else match (List.range ls.length).find? (fun l => cardW bs (112 + 28 * l) / 2 ^ 20 != 0 || (levelAt bs l).cnt == 0) with
      | some l => bad (112 + 28 * l)
      | none => if 2 ^ 63 ≤ totalSteps bs then bad 4 else none

/-- Code 2: the formats. [MARKS DEDUCED log 80, DEDUCED log 83] -/
def check2 (bs : List Byte) (f : W32) : Bool :=
  !comboOk (cardMode bs) (fmtAcc f) (fmtA f) (fmtB f) ||
  (fmtA f == 20 && (decide (cardNa bs < 2 ∨ 8 < cardNa bs ∨ cardNa bs < planesOf f))) ||
  (fmtB f == 20 && decide (cardNb bs < 2 ∨ 8 < cardNb bs))

/-- Rows a k-major B has, and the length of one. -/
def spanB (bs : List Byte) (f : W32) : Span :=
  let b : Span := { base := cardW bs 24, step := (·.sb), n := cardN bs, pitch := cardW bs 28, len := 0 }
  match cardMode bs with
  | 0 => { b with len := vecBytes (fmtB f) (storedB bs) (cardK bs) }
  | 1 => { b with len := 2 }
  | _ => { b with n := cardK bs, len := vecBytes (fmtB f) (storedB bs) (cardN bs) }

/-- The spans a job reads and writes, in card order (5.3). [MARKS DEDUCED log 80, DEDUCED log 155] -/
def spansOf (bs : List Byte) (f : W32) : List Span :=
  let m := cardM bs
  let n := cardN bs
  let raster := cardMode bs = 1
  let ofmt := ofmtOf f
  let rows := fun a len => ({ base := cardW bs a, step := fun l => 4 * (l.rstep : Int), n := 1, pitch := 0, len := 4 * len } : Span)
  let cols := fun a len => ({ base := cardW bs a, step := fun l => 4 * (l.cstep : Int), n := 1, pitch := 0, len := 4 * len } : Span)
  let opt := fun (b : Bool) (s : List Span) => if b then s else []
  let outBytes := if cardPen bs 4 then vecBytes ofmt (planesOf f) n else 4 * n
  [{ base := cardW bs 16, step := (·.sa), n := if raster then 1 else m, pitch := cardW bs 20,
     len := if raster then 768 else vecBytes (fmtA f) (storedA bs f) (cardK bs) },
   spanB bs f] ++
  opt (isMx (fmtA f)) [{ base := cardW bs 32, step := (·.ssa), n := m, pitch := cardW bs 36, len := chunksOf bs }] ++
  opt (isMx (fmtB f)) [{ base := cardW bs 40, step := (·.ssb), n := n, pitch := cardW bs 44, len := chunksOf bs }] ++
  (if raster then
     [{ base := cardW bs 96, step := (·.so), n := 1, pitch := 0, len := 8 * n },
      { base := cardW bs 56, step := fun _ => 0, n := 1, pitch := 0, len := 16 }]
   else
     opt (cardPen bs 0) [rows 68 m, cols 72 n, rows 76 m, cols 80 n] ++
     opt (cardPen bs 1 && (cardScale bs == 1 || cardScale bs == 3)) [rows 84 m] ++
     opt (cardPen bs 1 && decide (2 ≤ cardScale bs)) [cols 88 n] ++
     opt (cardPen bs 2) [if cardBiasRow bs then rows 92 m else cols 92 n] ++
     opt (cardPen bs 6 && !cardDacc bs) [{ base := cardW bs 96, step := (·.so), n := m, pitch := cardW bs 100, len := outBytes }] ++
     opt (cardPen bs 6 && cardPen bs 4 && isMx ofmt)
       -- column co gives byte co div 32: a byte has 32 parts
       [{ base := 32 * cardW bs 104, step := fun l => 32 * l.rstep * cardW bs 108 + l.cstep, n := m, pitch := 32 * cardW bs 108,
          len := 32 * ((n + 31) / 32), parts := 32 }])

/-- Code 4: the dwords that must be multiples, with their alignments. [MARKS DEDUCED log 80, DEDUCED log 163] -/
def check4 (bs : List Byte) (f : W32) : Option Nat :=
  let raster := cardMode bs = 1
  let steps := fun (j al : Nat) => ((List.range (levelsOf bs).length).filter (fun l => decide (1 < (levelAt bs l).cnt))).map (fun l => (112 + 28 * l + 4 * j, al))
  let al := vecAlign (fmtA f)
  let bl := if raster then 1 else vecAlign (fmtB f)
  let ol := if raster then 8 else if cardPen bs 4 then vecAlign (ofmtOf f) else 4
  let out := raster || (cardPen bs 6 && !cardDacc bs)
  let tests := [(16, al)] ++ (if raster then [] else [(20, al)]) ++ [(24, bl), (28, bl)] ++ steps 1 al ++ steps 2 bl ++
    (if out then [(96, ol)] ++ (if raster then [(56, 16)] else [(100, ol)]) ++ steps 3 ol else [])
  (tests.find? (fun t => decide (t.2 ≠ 0 ∧ cardW bs t.1 % t.2 ≠ 0))).map Prod.fst

/-- Code 5: the block tiles. The offset of the level entry that breaks the rule, or of the card.
[MARKS DEDUCED log 80, DEDUCED log 81] -/
def check5 (bs : List Byte) (f : W32) (tile tiles : Nat) : Option Nat :=
  let ls := levelsOf bs
  let pair := fmtAcc f = 2
  let top := tile + (stepHi ls (fun l => (l.ts : Int))).toNat + (if pair then 1 else 0)
  let moving := fun p => (List.range ls.length).find? (fun l => decide (1 < (levelAt bs l).cnt) && p (levelAt bs l))
  if pair ∧ tile % 2 ≠ 0 then some 0
  else if pair ∧ (moving (fun l => l.ts % 2 != 0)).isSome then (moving (fun l => l.ts % 2 != 0)).map (fun l => 112 + 28 * l)
  else if tiles ≤ top then some (((moving (fun l => l.ts != 0)).map (fun l => 112 + 28 * l)).getD 0) else none

/-- The codes a post-operator converts to (R66 to R69, R73). -/
def ofmtOk (c : Nat) : Bool := (1 ≤ c && c ≤ 14) || (16 ≤ c && c ≤ 20) || c == 22 || c == 23

/-- Code 6: the post-operators and the RASTER card (R256, R260, R261).
[MARKS DEDUCED log 80, DEDUCED log 82, DEDUCED log 164, DEDUCED log 165] -/
def check6 (bs : List Byte) (f : W32) : Option Nat :=
  let pen := cardW bs 8 % 128
  if cardMode bs = 1 then
    if cardM bs % 4 ≠ 0 ∨ cardZinit bs then some 0
    else if cardK bs ≠ 2 then some 4
    else if pen ≠ 0x60 then some 8 else none
  else if cardPen bs 5 then some 8
  else if !cardPen bs 6 && pen % 32 != 0 then some 8
  else if cardPen bs 0 && fmtAcc f != 1 then some 8
  else if cardPen bs 4 && (!ofmtOk (ofmtOf f) || noPlanes f (ofmtOf f)) then some 8
  else if cardPen bs 4 && isMx (ofmtOf f) && cardN bs % 32 != 0 then some 0
  else if cardPen bs 4 && isMx (ofmtOf f) && cardDacc bs then some 64
  else none

/-- The check of a card read at a scratchpad offset: the class-5 code and the address it names, if any.
[MARKS DEDUCED log 80, DEDUCED log 82] -/
def checkCard (scratch card tile tiles : Nat) (bs : List Byte) (f : W32) : Option (Nat × Nat) :=
  if 4 ≤ cardMode bs ∨ 5 ≤ cardNlev bs then some (1, card)
  else if scratch < card + cardSize (cardNlev bs) then some (3, scratch)
  else match check1 bs f with
    | some (c, a) => some (c, card + a)
    | none =>
      if check2 bs f then some (2, card)
      else match (spansOf bs f).findSome? (spanOut scratch (levelsOf bs)) with
        | some a => some (3, a)
        | none => match check4 bs f with
          | some a => some (4, card + a)
          | none => match check5 bs f tile tiles with
            | some a => some (5, card + a)
            | none => (check6 bs f).map (fun a => (6, card + a))

end Sys2Proof.Machine
end

