-- ==== Sys2Proof/Machine/Array.lean ====
section
/-! DEFINITION. One step of a matrix job: its operands (R251, R252), the sums (R81 to R84, R245), the modes (R253 to R259) and the
post-operator chain (R260, R261). -/

namespace Sys2Proof.Machine

/-! ### Elements -/

/-- Bit positions of element k of a vector, least significant first (R74, R75, R77, R252). -/
def elemBits (code planes k : Nat) : List Nat :=
  if code = 20 ∨ code = 21 then (List.range planes).map (fun b => 256 * (planes * (k / 256) + (planes - 1 - b)) + k % 256)
  else
    let w := fmtBits code 0
    if w = 4 ∨ w = 6 then
      let e := if w = 4 then 256 else 160
      (List.range w).map (fun b => 1024 * (k / e) + 32 * (k % e % 32) + w * (k % e / 32) + b)
    else (List.range w).map (fun b => w * k + b)

/-- The code of element k of the vector at a scratchpad offset. -/
def elemCode (tm : Team) (start code planes k : Nat) : Nat :=
  ((elemBits code planes k).mapIdx (fun i p => if (scratchByte tm (start + p / 8)).getLsbD (p % 8) then 2 ^ i else 0)).sum

/-- The value with which a code enters the array (R78, R251): `n` stored planes, `k` read, `mid`. -/
def enters (code n k : Nat) (mid : Bool) (bits : Nat) : FVal :=
  match code with
  | 14 => .ofInt (sext 8 bits)
  | 20 => .ofInt (onionRead n k (sext n bits) * 2 ^ (n - k) + (if mid && decide (k < n) then 2 ^ (n - k - 1) else 0))
  | 21 => .ofInt (sext 24 bits)
  | 22 => .ofInt (bits % 256)
  | 23 => .ofInt (max (sext 8 bits) (-127))
  | c => valueOf c 0 bits

/-- The scale exponent of a chunk; none for a scale code of 0xFF (R61, R81, R251). -/
def scaleExp (code : Nat) (b : Byte) : Option Int :=
  if !isMx code then some 0
  else if b = 0xFF then none
  else some ((b.toNat : Int) - 127 - (if code = 14 then 6 else 0))

/-- n / d cut toward zero to a multiple of 2^q, in units of 2^q. -/
def cutUnits (v : FVal) (q : Int) : Int :=
  match v with
  | .fin s n d => let p := scale2 n d (-q); if s then -((p.1 / p.2 : Nat) : Int) else (p.1 / p.2 : Nat)
  | _ => 0

/-- The sum of a chunk (R81, R82). -/
def chunkSum (xs ys : List FVal) (scale : Option Int) : FVal :=
  let ps := (xs.zip ys).map (fun p => p.1.mul p.2)
  match scale with
  | none => .nan
  | some sc =>
    if ps.any FVal.isNan then .nan
    else if ps.any (fun p => !p.isFinite) then (ps.filter (fun p => !p.isFinite)).foldl FVal.add (.fin false 0 1)
    else
      match (ps.filter (fun p => !p.isZero)).map (fun p => match p with | .fin _ n d => flog2 n d | _ => 0) with
      | [] => .fin false 0 1
      | e :: es =>
        let q := es.foldl max e - 56
        let t := (ps.map (fun p => cutUnits p q)).sum
        if t = 0 then .fin false 0 1 else (FVal.ofInt t).scale (q + sc)

/-! ### Where a step stands (R245) -/

structure StepAt where
  /-- loop indices, innermost first, and the chunk -/
  idx : List Nat
  chunk : Nat
  last : Bool
  deriving DecidableEq, Repr

def splitIndex : List Level → Nat → List Nat
  | [], _ => []
  | l :: ls, n => n % l.cnt :: splitIndex ls (n / l.cnt)

/-- The place of step p + 1. -/
def stepAt (bs : List Byte) (p : Nat) : StepAt :=
  let n := chunksOf bs
  { idx := splitIndex (levelsOf bs) (p / n), chunk := p % n, last := p % n + 1 == n }

/-- The sum over levels of i * step. -/
def moved (bs : List Byte) (x : StepAt) (f : Level → Int) : Int := (((levelsOf bs).zip x.idx).map (fun p => (p.2 : Int) * f p.1)).sum
def movedBase (bs : List Byte) (x : StepAt) (a : Nat) (f : Level → Int) : Nat := ((cardW bs a : Int) + moved bs x f).toNat

/-! ### GEMM, FILTER and BLEND -/

/-- What a step reads and writes. -/
structure StepEff where
  /-- accumulator words: tile, word, value -/
  acc : List (Nat × Nat × W32)
  /-- scratchpad bytes -/
  out : List (Nat × Byte)
  clamps : Nat
  counted : Bool
  deriving DecidableEq, Repr

/-- The offset where the vector of A's row, or B's column, starts, and element k of column n of B. -/
def codeA (tm : Team) (bs : List Byte) (f : W32) (x : StepAt) (m k : Nat) : Nat :=
  elemCode tm (movedBase bs x 16 (·.sa) + m * cardW bs 20) (fmtA f) (storedA bs f) k
def codeB (tm : Team) (bs : List Byte) (f : W32) (x : StepAt) (k n : Nat) : Nat :=
  let b := movedBase bs x 24 (·.sb)
  if cardMode bs = 0 then elemCode tm (b + n * cardW bs 28) (fmtB f) (storedB bs) k
  else elemCode tm (b + k * cardW bs 28) (fmtB f) (storedB bs) n

def entersA (bs : List Byte) (f : W32) (bits : Nat) : FVal := enters (fmtA f) (cardNa bs) (planesOf f) (fmtMid f) bits
def entersB (bs : List Byte) (f : W32) (bits : Nat) : FVal := enters (fmtB f) (cardNb bs) (cardNb bs) false bits

/-- Scale exponents of row m of A and column n of B in a chunk. -/
def scaleA (tm : Team) (bs : List Byte) (f : W32) (x : StepAt) (m c : Nat) : Option Int :=
  scaleExp (fmtA f) (scratchByte tm (movedBase bs x 32 (·.ssa) + m * cardW bs 36 + c))
def scaleB (tm : Team) (bs : List Byte) (f : W32) (x : StepAt) (n c : Nat) : Option Int :=
  scaleExp (fmtB f) (scratchByte tm (movedBase bs x 40 (·.ssb) + n * cardW bs 44 + c))

/-- The k values of a chunk. -/
def chunkKs (bs : List Byte) (c : Nat) : List Nat := (List.range (min 32 (cardK bs - 32 * c))).map (fun i => 32 * c + i)

/-- An accumulator element updated by a chunk (R81, R83). -/
def updateAcc (tm : Team) (bs : List Byte) (f : W32) (x : StepAt) (m n : Nat) (acc : W32) : W32 :=
  let ks := chunkKs bs x.chunk
  let as := ks.map (fun k => entersA bs f (codeA tm bs f x m k))
  let bb := ks.map (fun k => entersB bs f (codeB tm bs f x k n))
  if fmtAcc f = 1 then BitVec.ofInt 32 (acc.toInt + ((as.zip bb).map (fun p => p.1.num * p.2.num)).sum)
  else
    let sc := (scaleA tm bs f x m x.chunk).bind (fun a => (scaleB tm bs f x n x.chunk).map (fun b => a + b))
    f32 (FVal.add (ofF32 acc) (ofF32 (f32 (chunkSum as bb sc))))

/-- The row's weight sum of FILTER (R254). -/
def weightSum (tm : Team) (bs : List Byte) (f : W32) (x : StepAt) (m : Nat) : W32 :=
  let parts := (List.range (chunksOf bs)).map (fun c =>
    match scaleA tm bs f x m c with
    | none => FVal.nan
    | some e => ((chunkKs bs c).map (fun k => entersA bs f (codeA tm bs f x m k))).foldl FVal.add (.fin false 0 1) |>.scale e)
  f32 (parts.foldl FVal.add (.fin false 0 1))

/-- The value the chain starts from (R254, R255). -/
def modeValue (tm : Team) (bs : List Byte) (f : W32) (x : StepAt) (m : Nat) (acc : W32) : W32 :=
  let on := Word.bit (cardW bs 48) 0
  match cardMode bs with
  | 2 =>
    if on then
      let w := ofF32 (weightSum tm bs f x m)
      let a := ofF32 acc
      if a.isNan || w.isNan then f32 .nan else if w.isZero then 0 else f32 (a.div w)
    else acc
  | 3 =>
    if on then
      match ofF32 acc with
      | .nan => 0
      | v => if FVal.le v (.fin false 0 1) then 0 else if FVal.le (.fin false 1 1) v then f32 (.fin false 1 1) else acc
    else acc
  | _ => acc

/-- An activation (R260). -/
def activate (k : Nat) (w : W32) : W32 :=
  match ofF32 w with
  | .nan => f32 .nan
  | v =>
    match k with
    | 0 => w
    | 1 => if FVal.le v (.fin false 0 1) then 0 else w
    | 2 => geluF32 w
    | _ => siluF32 w

/-- The chain up to the narrowing: the value, and whether it is an INT32 (R84, R260). -/
def chainValue (tm : Team) (bs : List Byte) (f : W32) (x : StepAt) (m n : Nat) (acc : W32) : W32 × Bool :=
  let r := m + (moved bs x (fun l => (l.rstep : Int))).toNat
  let c := n + (moved bs x (fun l => (l.cstep : Int))).toNat
  let at_ := fun a i => scratchWord tm (cardW bs a + 4 * i)
  let rnd := fun (v : FVal) => match v with | .nan => f32 .nan | v => f32 v
  let v := modeValue tm bs f x m acc
  let v := if cardPen bs 0 then
      BitVec.ofInt 32 (v.toInt - (at_ 76 r).toInt * (at_ 72 c).toInt - (at_ 80 c).toInt * (at_ 68 r).toInt + cardK bs * (at_ 76 r).toInt * (at_ 80 c).toInt)
    else v
  let late := cardPen bs 1 || cardPen bs 2 || cardPen bs 3
  let int := fmtAcc f == 1
  let v := if int && late then f32 (.ofInt v.toInt) else v
  let v := if cardPen bs 1 then
      let k := cardScale bs
      let s1 := if k = 0 then BitVec.ofNat 32 (cardW bs 84) else if k = 2 then at_ 88 c else at_ 84 r
      let v := rnd ((ofF32 v).mul (ofF32 s1))
      if k = 3 then rnd ((ofF32 v).mul (ofF32 (at_ 88 c))) else v
    else v
  let v := if cardPen bs 2 then rnd (FVal.add (ofF32 v) (ofF32 (at_ 92 (if cardBiasRow bs then r else c)))) else v
  let v := if cardPen bs 3 then activate (cardAct bs) v else v
  (v, int && !late)

def exactOf (v : W32 × Bool) : FVal := if v.2 then .ofInt v.1.toInt else ofF32 v.1

/-- A row narrowed: the codes, the scale codes of its runs of 32, the clamps (R73, R260). -/
def narrowRow (f : W32) (vs : List (W32 × Bool)) : List Nat × List Nat × Nat :=
  let code := ofmtOf f
  if isMx code then
    let qs := (List.range (vs.length / 32)).map (fun j => mxQuant code (rndOf f) (satOf f) (((vs.drop (32 * j)).take 32).map exactOf))
    (qs.flatMap (fun q => q.2.1), qs.map (fun q => q.1), (qs.map (fun q => q.2.2)).sum)
  else
    let rs := vs.map (fun v => narrow code (planesOf f) (rndOf f) (satOf f) v.2 (exactOf v))
    (rs.map Prod.fst, [], (rs.filter Prod.snd).length)

/-- The bytes of a row of codes laid out from a scratchpad offset; bits of no element keep what they hold (R252, R261).
[MARK DEDUCED log 84] -/
def rowBytes (tm : Team) (code planes start : Nat) (cs : List Nat) : List (Nat × Byte) :=
  let w := fmtBits code 0
  if code ≠ 20 ∧ w % 8 = 0 then (cs.mapIdx (fun i c => pairsAt (start + w / 8 * i) (bytesOf (w / 8) c))).flatten
  else
    let codes := (cs.mapIdx (fun i c => (elemBits code planes i).mapIdx (fun b p => (p, Word.bit c b)))).flatten
    -- the unused bits of a dword of 6-bit elements are written 0 (R75)
    let unused := if w = 6 then (codes.map (fun p => p.1 / 32)).eraseDups.flatMap (fun d => [(32 * d + 30, false), (32 * d + 31, false)]) else []
    let set := codes ++ unused
    let bytes := (set.map (fun p => p.1 / 8)).eraseDups
    bytes.map (fun a => (start + a, BitVec.ofNat 8 (maskNat (fun j =>
      match set.find? (fun p => p.1 == 8 * a + j) with
      | some p => p.2
      | none => (scratchByte tm (start + a)).getLsbD j) 8)))

/-- An accumulator word as a job's step finds it: what the job left there, or what the tile holds (R222). [MARK DEDUCED log 132] -/
def sumAt (tm : Team) (sums : Map W32) (tile i : Nat) : W32 := (mget sums (16384 * tile + i)).getD (tileWord (tileAt tm tile) i)

/-- A step of a job that is not RASTER. [MARKS DEDUCED log 132, DEDUCED log 155] -/
def stepEffect (tm : Team) (sums : Map W32) (bs : List Byte) (f : W32) (tile p : Nat) : StepEff :=
  let x := stepAt bs p
  let tb := tile + (moved bs x (fun l => (l.ts : Int))).toNat
  let ms := List.range (cardM bs)
  let ns := List.range (cardN bs)
  let old := fun m n => if x.chunk = 0 ∧ cardZinit bs then 0 else sumAt tm sums tb (128 * m + n)
  let rows := ms.map (fun m => ns.map (fun n => updateAcc tm bs f x m n (old m n)))
  let acc := (rows.mapIdx (fun m r => r.mapIdx (fun n v => (tb, 128 * m + n, v)))).flatten
  if !x.last || !cardPen bs 6 then { acc := acc, out := [], clamps := 0, counted := false }
  else
    let vals := rows.mapIdx (fun m r => r.mapIdx (fun n v => chainValue tm bs f x m n v))
    let ob := movedBase bs x 96 (·.so)
    let ro := (moved bs x (fun l => (l.rstep : Int))).toNat
    let co := (moved bs x (fun l => (l.cstep : Int))).toNat
    let done := vals.map (fun r => if cardPen bs 4 then narrowRow f r else (r.map (fun v => v.1.toNat), [], 0))
    let clamps := (done.map (fun d => d.2.2)).sum
    if cardDacc bs then
      { acc := acc ++ (done.mapIdx (fun m d => d.1.mapIdx (fun n c => (tb, 128 * m + n, BitVec.ofNat 32 c)))).flatten,
        out := [], clamps := clamps, counted := false }
    else
      let code := if cardPen bs 4 then ofmtOf f else 1
      { acc := acc
        out := (done.mapIdx (fun m d => rowBytes tm code (planesOf f) (ob + m * cardW bs 100) d.1 ++
          d.2.1.mapIdx (fun j sc => (cardW bs 104 + (m + ro) * cardW bs 108 + (32 * j + co) / 32, BitVec.ofNat 8 sc)))).flatten
        clamps := clamps, counted := false }

/-! ### RASTER (R256 to R259) -/

/-- Element (m, n) of an INT64 tile pair. -/
def pairWord (tm : Team) (sums : Map W32) (tb i : Nat) : Int := (Word.join (sumAt tm sums tb i) (sumAt tm sums (tb + 1) i)).toInt

/-- The visibility buffer and the statistics as a block updates them. -/
structure Raster where
  vis : List Nat
  passed : Nat
  triangles : Nat
  any : Bool
  deriving DecidableEq, Repr

/-- A step of a RASTER job, tested on the sums that its tile pairs take (R257, R325). [MARKS DEDUCED log 132, DEDUCED log 153] -/
def rasterEffect (tm : Team) (sums : Map W32) (bs : List Byte) (tile p : Nat) (counted : Bool) : StepEff :=
  let x := stepAt bs p
  let tb := tile + (moved bs x (fun l => (l.ts : Int))).toNat
  let ab := movedBase bs x 16 (·.sa)
  let bb := movedBase bs x 24 (·.sb)
  let ob := movedBase bs x 96 (·.so)
  let coef := fun m k => sext 24 (elemCode tm ab 21 24 (2 * m + k))
  let samp := fun n k => ((scratchByte tm (bb + n * cardW bs 28 + k)).toNat : Int)
  -- beyond R80 the pair keeps the sum modulo 2^64
  let acc := fun m n => (BitVec.ofInt 64 (pairWord tm sums tb (128 * m + n) + coef m 0 * samp n 0 + coef m 1 * samp n 1)).toInt
  let ms := List.range (cardM bs)
  let ns := List.range (cardN bs)
  let topLeft := fun m => decide (0 < coef m 0 ∨ (coef m 0 = 0 ∧ 0 < coef m 1))
  let inside := fun t n => (List.range 3).all (fun j => decide (0 ≤ acc (4 * t + j) n - (if topLeft (4 * t + j) then 0 else 1)))
  let dsh := Word.field (cardW bs 52) 12 8
  let depth := fun t n => (min (max (acc (4 * t + 3) n / 2 ^ dsh) 0) (2 ^ 32 - 1)).toNat
  let vis0 := ns.map (fun n => leNat (scratchBytes tm (ob + 8 * n) 8))
  let tri0 : Int := (cardW bs 48 % 2 ^ 25 : Nat) + moved bs x (·.ssa)
  let r := (List.range (cardM bs / 4)).foldl (fun (r : Raster) t =>
    let id := ((tri0 + t) % 2 ^ 25).toNat
    let hits := ns.filter (inside t)
    let word := fun n => depth t n * 2 ^ 32 + id * 2 ^ 7 + cardW bs 52 % 128
    let won := hits.filter (fun n => decide (word n < r.vis.getD n 0))
    { vis := won.foldl (fun v n => v.set n (word n)) r.vis, passed := r.passed + won.length,
      triangles := r.triangles + (if hits = [] then 0 else 1), any := r.any || hits != [] }) { vis := vis0, passed := 0, triangles := 0, any := false }
  let first := x.idx.headD 0 == 0
  let was := counted && !first
  let tiles := if r.any && !was then 1 else 0
  let st := cardW bs 56
  let stat := fun (j add : Nat) => pairsAt (st + 4 * j) (bytesOf 4 (((scratchWord tm (st + 4 * j)).toNat + add) % 2 ^ 32))
  { acc := ms.flatMap (fun m => ns.flatMap (fun n =>
      let v := BitVec.ofInt 64 (acc m n)
      [(tb, 128 * m + n, Word.lo v), (tb + 1, 128 * m + n, Word.hi v)]))
    out := (ns.filter (fun n => r.vis.getD n 0 != vis0.getD n 0)).flatMap (fun n => pairsAt (ob + 8 * n) (bytesOf 8 (r.vis.getD n 0))) ++
      stat 0 r.passed ++ stat 1 r.triangles ++ stat 2 tiles
    clamps := 0, counted := was || r.any }

/-- A step's effect before it commits. [MARK DEDUCED log 85] -/
def jobStep (tm : Team) (sums : Map W32) (bs : List Byte) (f : W32) (tile p : Nat) (counted : Bool) : StepEff :=
  if cardMode bs = 1 then rasterEffect tm sums bs tile p counted else stepEffect tm sums bs f tile p

end Sys2Proof.Machine
end

