-- ==== Sys2Proof/Machine/Matrix.lean ====
section
/-! DEFINITION. The matrix engine (R13, R245, R262 to R268, R370, R415 to R418): MJOB, COMMIT, MWAIT, MQUERY, and the commit of the
step of the running job. -/

namespace Sys2Proof.Machine

/-! ### Instructions (R264 to R268) -/

/-- MJOB (R265, R370): the tile's 0.13 and 0.16, the recorded fmt's 0.16, 0.11, then 0.14 and 0.15 of the card.
[MARK DEDUCED log 81] -/
def execMjob (o : Operands) (s : State) : Host.Outcome State Fault Refusal :=
  issued (.mjob o) o s (fun iss s =>
    let f := fmtOf iss
    let ca := uniform32 s iss o.a
    let ta := uniform32 s iss o.b
    let beyond := match ta with | .ok (some t) => decide (iss.tm.tiles.length ≤ t.toNat) | _ => false
    let odd := match ta with | .ok (some t) => fmtAcc f == 2 && t.toNat % 2 == 1 | _ => false
    let skip := (match ca with | .ok none => true | _ => false) || (match ta with | .ok none => true | _ => false)
    if skip then .ok (.adv s)
    else if beyond then .error (flt0 iss 13, s)
    else if odd || !comboAny f || rndOf f == 3 || noPlanes f (fmtA f) then .error (flt0 iss 16, s)
    else match ca, ta with
      | .error fl, _ => .error (fl, s)
      | _, .error fl => .error (fl, s)
      | .ok (some card), .ok (some tile) =>
        if card.toNat % 16 ≠ 0 then .error (flt0 iss 14, s)
        else if iss.tm.scratchBytes < card.toNat + 16 then .error (flt0 iss 15, s)
        else if 16 ≤ (coreOf s iss.tm.core).jobs.length then .ok (.wait .retry s)
        else
          let id := s.nextId
          let job : Job := { id := id, team := iss.t, group := iss.g, pc := iss.pc, card := card.toNat, tile := tile.toNat, fmt := f, progress := 0, counted := false, read := none, sums := [] }
          let s := modCore { s with nextId := id + 1 } iss.tm.core (fun k => { k with jobs := k.jobs ++ [job] })
          .ok (.adv (modGroup s iss.t iss.g (fun gr => { gr with openJobs := gr.openJobs ++ [id], lastJob := some id, lastProgress := 0 })))
      | _, _ => .ok (.adv s))

/-- Of two commit-group numbers the one closed later, by the group's present number; numbers wrap (R266). -/
def laterCg (cg a b : W32) : W32 := if (cg - a).toNat ≤ (cg - b).toNat then a else b

/-- Commit groups without jobs still to complete are complete (R266). -/
def pruneGroup (gr : Group) : Group :=
  { gr with pending := gr.pending.filter (fun p => p.2 != []),
            doneCg := (gr.pending.filter (fun p => p.2 == [])).foldl (fun d p => laterCg gr.cg p.1 d) gr.doneCg }

/-- COMMIT; a commit group without jobs is complete at once (R266). -/
def execCommit (o : Operands) (s : State) : Host.Outcome State Fault Refusal :=
  groupEffect (.commit o) o s (fun iss =>
    let cg := iss.gr.cg + 1
    let gr := pruneGroup { iss.gr with cg := cg, pending := iss.gr.pending ++ [(cg, iss.gr.openJobs)], openJobs := [] }
    .ok (if mf o 50 50 = 1 then issueWrite iss gr (dstNum o.dst) cg else gr))

/-- MWAIT: waits until at most n commit groups are pending, and acquires at .CORE (R267). -/
def execMwait (o : Operands) (s : State) : Host.Outcome State Fault Refusal :=
  issued (.mwait o) o s (fun iss s =>
    let n := (scal32 s iss iss.k o.a).toNat
    if iss.gr.pending.length ≤ n then .ok (.adv (acquire s iss.t iss.g iss.tm.core 1))
    else .ok (.wait (.mwait n (nextPc iss)) s))

/-- MQUERY (R268). [MARK DEDUCED log 133] -/
def execMquery (o : Operands) (s : State) : Host.Outcome State Fault Refusal :=
  issued (.mquery o) o s (fun iss s =>
    let gr := iss.gr
    let v : W64 := match o.a with
      | .lit n => match n.toNat with
        | 0 => BitVec.ofNat 64 gr.pending.length
        | 1 => BitVec.ofNat 64 gr.openJobs.length
        | 2 => BitVec.ofNat 64 (16 - (coreOf s iss.tm.core).jobs.length)
        | 3 => gr.lastProgress
        | 4 => gr.doneCg.setWidth 64
        | _ => gr.cg.setWidth 64
      | _ => 0
    .ok (.adv (modGroup s iss.t iss.g (fun gr => issueWrite64 iss gr (dstNum o.dst) v))))

/-! ### The running job -/

/-- A job leaves the core's queue, complete or stopped; complete ones leave their commit groups (R263, R266).
[MARK DEDUCED log 133] -/
def leaveQueue (s : State) (core : Nat) (j : Job) (done : Bool) : State :=
  let s := modCore s core (fun k => { k with jobs := k.jobs.filter (fun x => x.id != j.id) })
  if done then
    modGroup s j.team j.group (fun gr => pruneGroup { gr with openJobs := gr.openJobs.filter (fun i => i != j.id), pending := gr.pending.map (fun p => (p.1, p.2.filter (fun i => i != j.id))) })
  else s

/-- A class-5 or class-8 condition of a job: it stops, with one record, and its team is aborted (R379, R406, R414). -/
def jobFault (s : State) (core : Nat) (j : Job) (cls code addr detail : Nat) : State :=
  leaveQueue (faultTeam s j.team j.group { cls := cls, code := code, addr := BitVec.ofNat 64 addr, detail := some (BitVec.ofNat 32 detail), pc := j.pc }) core j false

/-- The rows and columns of the post-operator arrays that a block's chain reads (R260). -/
def chainReads (bs : List Byte) (x : StepAt) : List Nat :=
  let rows := (List.range (cardM bs)).map (fun m => m + (moved bs x (fun l => (l.rstep : Int))).toNat)
  let cols := (List.range (cardN bs)).map (fun n => n + (moved bs x (fun l => (l.cstep : Int))).toNat)
  let arr := fun (on : Bool) (a : Nat) (is : List Nat) => if on then is.map (fun i => cardW bs a + 4 * i) else []
  let k := cardScale bs
  arr (cardPen bs 0) 68 rows ++ arr (cardPen bs 0) 72 cols ++ arr (cardPen bs 0) 76 rows ++ arr (cardPen bs 0) 80 cols ++
  arr (cardPen bs 1 && (k == 1 || k == 3)) 84 rows ++ arr (cardPen bs 1 && decide (2 ≤ k)) 88 cols ++
  arr (cardPen bs 2) 92 (if cardBiasRow bs then rows else cols)

/-- The scratchpad bytes a step reads, a word of an array by its first: operands and their scales, and at a block's last chunk what its
post-operators read (R254, R258 to R260, R406). -/
def stepReads (bs : List Byte) (f : W32) (p : Nat) : List Nat :=
  let x := stepAt bs p
  let weights := cardMode bs == 2 && Word.bit (cardW bs 48) 0 && x.last
  let cs := if weights then List.range (chunksOf bs) else [x.chunk]
  let ks := if cardMode bs = 1 then [0, 1] else cs.flatMap (chunkKs bs)
  let ms := List.range (cardM bs)
  let ns := List.range (cardN bs)
  let el := fun start code planes k => (elemBits code planes k).map (fun b => start + b / 8)
  let a := ms.flatMap (fun m => ks.flatMap (fun k => el (movedBase bs x 16 (·.sa) + (if cardMode bs = 1 then 0 else m * cardW bs 20)) (fmtA f) (storedA bs f) (if cardMode bs = 1 then 2 * m + k else k)))
  let b := ns.flatMap (fun n => ks.flatMap (fun k =>
    if cardMode bs ≤ 1 then el (movedBase bs x 24 (·.sb) + n * cardW bs 28) (fmtB f) (storedB bs) k
    else el (movedBase bs x 24 (·.sb) + k * cardW bs 28) (fmtB f) (storedB bs) n))
  let sa := if isMx (fmtA f) then ms.flatMap (fun m => cs.map (fun c => movedBase bs x 32 (·.ssa) + m * cardW bs 36 + c)) else []
  let sb := if isMx (fmtB f) then ns.map (fun n => movedBase bs x 40 (·.ssb) + n * cardW bs 44 + x.chunk) else []
  let vis := if cardMode bs = 1 then ns.flatMap (fun n => [movedBase bs x 96 (·.so) + 8 * n, movedBase bs x 96 (·.so) + 8 * n + 4]) ++
    [cardW bs 56, cardW bs 56 + 4, cardW bs 56 + 8] else []
  let post := if x.last && cardPen bs 6 && cardMode bs != 1 then chainReads bs x else []
  (a ++ b ++ sa ++ sb ++ vis ++ post).eraseDups

/-- One committed step: its accumulator and scratchpad writes, clamps and progress together (R245, R262, R418).
[MARK DEDUCED log 85] -/
def commitStep (s : State) (core : Nat) (j : Job) (tm : Team) (bs : List Byte) : State :=
  if tm.bad != [] && badScratch tm (stepReads bs j.fmt j.progress) then jobFault s core j 8 4 0 3
  else
    let e := jobStep tm j.sums bs j.fmt j.tile j.progress j.counted
    if tm.bad != [] && !(cardZinit bs && (stepAt bs j.progress).chunk == 0) && e.acc.any (fun w => badTile tm w.1 [w.2.1]) then jobFault s core j 8 4 0 4
    else if badPart tm (e.out.map Prod.fst) then jobFault s core j 8 4 0 3
    else match liveHit s j.team tm (e.out.map Prod.fst) with
      | some o => jobFault s core j 5 7 o ((objAt tm o).pending * 65536 + (objAt tm o).arrived % 65536)
      | none =>
        let s := e.acc.foldl (fun s w => putTile s j.team w.1 [(w.2.1, w.2.2)]) s
        let s := scratchPut s j.team e.out
        let s := countFor s j.team (ofmtOf j.fmt) e.clamps
        let p := j.progress + 1
        let s := modGroup s j.team j.group (fun gr => if gr.lastJob = some j.id then { gr with lastProgress := BitVec.ofNat 64 p } else gr)
        if totalSteps bs ≤ p then leaveQueue s core j true
        else modCore s core (fun k => { k with jobs := k.jobs.map (fun x => if x.id == j.id then { x with progress := p, counted := e.counted, read := some bs, sums := e.acc.foldl (fun m w => mput m (16384 * w.1 + w.2.1) w.2.2) j.sums } else x) })

/-- JOB_STEP_COMMIT: the next step of the job at the head of a core's queue; before its first step, and after a resume, the card
is read whole and checked (R245, R415). -/
def execJobStepCommit (core : Nat) (s : State) : Host.Outcome State Fault Refusal :=
  match (coreOf s core).jobs with
  | [] => .refused .eventNotEnabled
  | j :: _ =>
    match teamOf s j.team with
    | none => .refused .eventNotEnabled
    | some tm =>
      match j.read with
      | some bs => .next (commitStep s core j tm bs)
      | none =>
        let bs := scratchBytes tm j.card (min 252 (tm.scratchBytes - j.card))
        if badScratch tm ((List.range bs.length).map (fun i => j.card + i)) then .next (jobFault s core j 8 4 0 3)
        else match checkCard tm.scratchBytes j.card j.tile tm.tiles.length bs j.fmt with
          | some (code, a) => .next (jobFault s core j 5 code a j.progress)
          | none => .next (commitStep s core j tm bs)

end Sys2Proof.Machine
end

