-- ==== Sys2Proof/Machine/Rendezvous.lean ====
section
/-! DEFINITION. Tags (R271 to R286) and what goes wrong with them (R421 to R428): allocation, records, sends, rounds at the home
segment, deliveries, timeouts and the lost-property area. -/

namespace Sys2Proof.Machine

/-! ### Records (R272, R273) -/

def tagIndex (t : W32) : Nat := t.toNat % 2 ^ 24
def tagGen (t : W32) : Nat := t.toNat / 2 ^ 24

/-- Physical address of a record. -/
def recAddr (s : State) (c idx : Nat) : Nat := (match ctxOf s c with | some q => q.tagbase.toNat | none => 0) + 32 * idx
def tagCount (s : State) (c : Nat) : Nat := match ctxOf s c with | some q => q.tagcount.toNat | none => 0

/-- Dword j of a record. -/
def tagWord (s : State) (c idx j : Nat) : W32 := BitVec.ofNat 32 (leNat (homeBytes s c (recAddr s c idx + 4 * j) 4))
/-- Dwords (number, value) of a record written. -/
def setTagWords (s : State) (c idx : Nat) (ws : List (Nat × W32)) : State :=
  homeWrite s c (ws.flatMap (fun w => pairsAt (recAddr s c idx + 4 * w.1) (bytesOf 4 w.2.toNat)))

def recGen (d : W32) : Nat := Word.field d.toNat 31 24
def recOp (d : W32) : Nat := Word.field d.toNat 23 20
def recSzc (d : W32) : Nat := Word.field d.toNat 19 17
def recSet (d : W32) : Bool := Word.bit d.toNat 16
def recAlloc (d : W32) : Bool := Word.bit d.toNat 15

/-- Destination j of dwords 2 to 7 joined. -/
def destOf (s : State) (c idx j : Nat) : Nat :=
  leNat (homeBytes s c (recAddr s c idx + 8) 24) / 2 ^ (48 * j) % 2 ^ 48
/-- The destinations present, by number (R280). -/
def destsOf (s : State) (c idx : Nat) : List (Nat × Nat) :=
  ((List.range 4).map (fun j => (j, destOf s c idx j))).filter (fun d => d.2 / 2 ^ 46 != 0)

def tagStateNew : TagState := { slot := 0, queue := [], orphan := false, rounds0 := 0, rounds1 := 0, since := 0 }
def tagState (s : State) (c idx : Nat) : TagState := match ctxOf s c with | some q => mgetD q.tags tagStateNew idx | none => tagStateNew
def putTagState (s : State) (c idx : Nat) (x : TagState) : State := modCtx s c (fun q => { q with tags := mput q.tags idx x })

/-! ### The lost-property area (R421 to R423) -/

/-- What is moved there: an operand or a result. -/
structure Loss where
  ctx : Nat
  code : Nat
  tag : W32
  slot : Nat := 0
  bytes : List Byte
  result : Bool
  round : Nat
  /-- code 8: the failing class and code -/
  fail : Nat := 0
  core : Nat := 0
  x : Nat := 0
  y : Nat := 0
  z : Nat := 0
  device : Nat := 0

/-- The loss of an operand: its sender is named. -/
def lossOf (sd : Send) (code round : Nat) : Loss :=
  { ctx := sd.ctx, code := code, tag := sd.tag, slot := sd.slot, bytes := sd.bytes, result := sd.result, round := round,
    core := sd.core, x := sd.tx, y := sd.ty, z := sd.tz, device := sd.device }

/-- The 1,024 bytes of an entry (R423). [MARK DEDUCED log 86] -/
def lossBytes (s : State) (l : Loss) : List Byte :=
  bytesOf 4 l.tag.toNat ++ bytesOf 4 (l.code * 2 ^ 16 + l.bytes.length / 64 * 2 ^ 8 + (if l.result then 2 else 0) + l.slot % 2) ++
  bytesOf 4 0 ++ bytesOf 4 l.round ++ bytesOf 4 (l.device * 2 ^ 16 + l.core) ++ bytesOf 8 s.cycle.toNat ++ bytesOf 4 l.fail ++
  bytesOf 32 0 ++ l.bytes.take 512 ++ List.replicate (512 - (l.bytes.take 512).length) 0 ++ bytesOf 448 0

/-- A class-6 record (R421). -/
def tagRecord (s : State) (l : Loss) (detail : W32) : State :=
  postRecord s l.ctx { cls := 6, code := l.code, addr := BitVec.ofNat 64 (l.tag.toNat + l.slot % 2 * 2 ^ 32), detail := some detail, x := l.x, y := l.y, z := l.z, core := l.core, lost := true }

/-- An operand or result moved to the lost-property area, if it has room, and reported (R423). -/
def lose (s : State) (l : Loss) : State :=
  match ctxOf s l.ctx with
  | none => s
  | some q =>
    let e := q.lostsize.toNat / 1024
    let base := q.lostbase.toNat
    let written := leNat (homeBytes s l.ctx base 4)
    let freed := leNat (homeBytes s l.ctx (base + 4) 4)
    if (written + 2 ^ 32 - freed) % 2 ^ 32 < e - 1 then
      let idx := 1 + written % (e - 1)
      let s := homeWrite s l.ctx (pairsAt (base + 1024 * idx) (lossBytes s l))
      let s := homeWrite s l.ctx (pairsAt base (bytesOf 4 (written + 1)))
      tagRecord s l (BitVec.ofNat 32 idx)
    else tagRecord s l 0xFFFFFFFF

/-! ### Entries (R278) -/

def findEntry (s : State) (id : Nat) : Option Entry := s.entries.find? (fun e => e.id == id)
def modEntry (s : State) (id : Nat) (f : Entry → Entry) : State := { s with entries := s.entries.map (fun e => if e.id == id then f e else e) }
def dropEntry (s : State) (id : Nat) : State := { s with entries := s.entries.filter (fun e => e.id != id) }

/-- Room in the cloakroom of a segment. [MARK DESIGN CHOICE log 90] -/
def cloakRoom (s : State) (seg : Nat) : Bool := decide ((s.entries.filter (fun e => e.annex.isNone && e.segment == seg)).length < 256)
/-- The lowest free entry of a context's annex. [MARK DESIGN CHOICE log 89] -/
def annexFree (s : State) (c : Nat) : Option Nat :=
  (List.range ((match ctxOf s c with | some q => q.annexsize.toNat | none => 0) / 1024)).find?
    (fun k => !s.entries.any (fun e => e.ctx == c && e.annex == some k))

def annexAddr (s : State) (c k : Nat) : Nat := (match ctxOf s c with | some q => q.annexbase.toNat | none => 0) + 1024 * k
/-- An annex entry written: its layout is not stated, so its bytes are free values (R278). [MARK DESIGN CHOICE log 89] -/
def annexWrite (s : State) (c id k : Nat) : State :=
  homeWrite s c (pairsAt (annexAddr s c k) ((List.range 256).flatMap (fun i => bytesOf 4 (Config.annexWord id i).toNat)))
/-- An uncorrectable error in the annex entry that holds an operand or result (6.10). -/
def annexBad (s : State) (e : Entry) : Bool :=
  match e.annex with
  | some k => (dataError s (annexAddr s e.ctx k) 1024).isSome
  | none => false

/-- The loss of a queued operand, or 6.10 when its annex entry cannot be read (R428). -/
def loseEntry (s : State) (code : Nat) (e : Entry) : State :=
  let s' := dropEntry s e.id
  if annexBad s e then tagRecord s' (lossOf e.send 10 e.round) 0xFFFFFFFF
  else lose s' (lossOf e.send code e.round)

/-- Every queued operand of a tag to the lost-property area, oldest first. -/
def loseQueue (s : State) (c idx code : Nat) : State :=
  let x := tagState s c idx
  let s := putTagState s c idx { x with queue := [] }
  x.queue.foldl (fun s id => match findEntry s id with | some e => loseEntry s code e | none => s) s

/-- The tag becomes orphaned (R425). -/
def orphan (s : State) (c idx : Nat) : State :=
  loseQueue (putTagState s c idx { tagState s c idx with orphan := true }) c idx 5

/-! ### The operation of a round (R275) -/

/-- One element of 4 bytes, or of 2 for BFADD16. -/
def combineElem (op x y : Nat) : Nat :=
  let a := BitVec.ofNat 32 x
  let b := BitVec.ofNat 32 y
  match op with
  | 0 => (f32 (FVal.add (ofF32 a) (ofF32 b))).toNat
  | 1 => encodeF fmtBF16 .rne (FVal.add (fmtBF16.decode x) (fmtBF16.decode y))
  | 2 => (a + b).toNat
  | 3 => (f32 (FVal.maxNum (ofF32 a) (ofF32 b))).toNat
  | 4 => (f32 (FVal.minNum (ofF32 a) (ofF32 b))).toNat
  | 5 => (signedMax a b).toNat
  | 6 => (signedMin a b).toNat
  | 7 => (a &&& b).toNat
  | 8 => (a ||| b).toNat
  | _ => (a ^^^ b).toNat

def combine (op : Nat) (x y : List Byte) : List Byte :=
  match op with
  | 10 => x
  | 11 => x ++ y
  | _ =>
    let w := if op = 1 then 2 else 4
    let el := fun (bs : List Byte) i => leNat ((bs.drop (w * i)).take w)
    (List.range (x.length / w)).flatMap (fun i => bytesOf w (combineElem op (el x i) (el y i)))

/-! ### Arrivals (R277, R284, R421, R424, R425) -/

/-- The first check of R277 an operand fails: its class-6 code. -/
def arrivalCheck (s : State) (sd : Send) : Option Nat :=
  let d := tagWord s sd.ctx (tagIndex sd.tag) 0
  if recGen d ≠ tagGen sd.tag then some 1
  else if !recAlloc d then some 2
  else if !recSet d then some 3
  else if sd.bytes.length ≠ (recSzc d + 1) * 64 then some 4
  else none

/-- A first operand takes an entry, or is lost with 6.6 and orphans its tag. [MARK DESIGN CHOICE log 90] -/
def queueOperand (s : State) (sd : Send) (round : Nat) : State :=
  let c := sd.ctx
  let idx := tagIndex sd.tag
  let seg := (Config.tagHash c idx).val
  let enter := fun (s : State) (annex : Option Nat) =>
    let x := tagState s c idx
    let s := { s with nextId := s.nextId + 1, entries := s.entries ++ [{ id := s.nextId, ctx := c, tag := sd.tag, annex := annex, segment := seg, send := sd, round := round, dests := [], waitTouch := [] }] }
    putTagState s c idx { x with slot := sd.slot, queue := x.queue ++ [s.nextId - 1], since := if x.queue = [] then s.l2cycle else x.since }
  if cloakRoom s seg then enter s none
  else match annexFree s c with
    | some k => enter (annexWrite s c s.nextId k) (some k)
    | none => orphan (lose s (lossOf sd 6 round)) c idx

/-- A second operand combines with the head of the other slot's queue; the result keeps that operand's entry. -/
def combineRound (s : State) (sd : Send) (x : TagState) (head : Nat) (rest : List Nat) : State :=
  let c := sd.ctx
  let idx := tagIndex sd.tag
  match findEntry s head with
  | none => putTagState s c idx { x with queue := rest }
  | some e =>
    let s := putTagState s c idx { x with queue := rest, since := s.l2cycle }
    let z := combine (recOp (tagWord s c idx 0)) (if sd.slot = 0 then sd.bytes else e.send.bytes) (if sd.slot = 0 then e.send.bytes else sd.bytes)
    let ds := destsOf s c idx
    if ds = [] then dropEntry s head else modEntry s head (fun e => { e with send := { e.send with bytes := z, result := true }, dests := ds })

/-- The L2 cycle in which the timeout of a tag's head elapses: the tag's own, or the context's default; none where no operand waits
or it never elapses (R272, R279). [MARK DEDUCED log 129] -/
def timeoutAt (s : State) (c idx : Nat) : Option Nat :=
  let x := tagState s c idx
  let own := tagWord s c idx 1
  let tmo := if own = 0 then (match ctxOf s c with | some q => q.defaultTmo | none => 0) else own
  if x.queue = [] ∨ tmo = 0 then none else some (x.since + tmo.toNat * Config.timeoutUnit)

/-- A timeout that has elapsed before an L2 cycle orphans its tag, if it has not done so yet (R279, R425, R436).
[MARK DEDUCED log 129] -/
def elapse (s : State) (c idx before : Nat) : State :=
  match timeoutAt s c idx with
  | some d => if d < before then orphan s c idx else s
  | none => s

/-- An operand at its tag's home segment; one that arrives in the L2 cycle of the timeout comes first (R436).
[MARKS DEDUCED log 86, DEDUCED log 129] -/
def operandArrives (s : State) (sd : Send) : State :=
  let c := sd.ctx
  let idx := tagIndex sd.tag
  let s := elapse s c idx s.l2cycle
  let x := tagState s c idx
  let x := if sd.slot = 0 then { x with rounds0 := x.rounds0 + 1 } else { x with rounds1 := x.rounds1 + 1 }
  let round := if sd.slot = 0 then x.rounds0 else x.rounds1
  let s := putTagState s c idx x
  match arrivalCheck s sd with
  | some code => lose s (lossOf sd code round)
  | none =>
    if x.orphan then lose s (lossOf sd 5 round)
    else match x.queue with
      | [] => queueOperand s sd round
      | head :: rest =>
        if x.slot = sd.slot then queueOperand s sd round
        else match findEntry s head with
          | some e =>
            -- an entry of the annex that cannot be read loses its operand and orphans the tag (R428)
            if annexBad s e then
              let s := putTagState (dropEntry s head) c idx { x with queue := rest }
              lose (orphan (tagRecord s (lossOf e.send 10 e.round) 0xFFFFFFFF) c idx) (lossOf sd 5 round)
            else combineRound s sd x head rest
          | none => combineRound s sd x head rest

/-- A destination whose reserved bits read as 0 (R6, R273). -/
def destClean (d : Nat) : Nat :=
  match d / 2 ^ 46 with
  | 0 => 0
  | 1 => 2 ^ 46 + d % 2 ^ 33
  | _ => d

/-- The 24 bytes of the destinations, as four numbers of 48 bits, with their reserved bits 0. -/
def destsClean (bs : List Byte) : List Byte :=
  (List.range 4).flatMap (fun j => bytesOf 6 (destClean (leNat ((bs.drop (6 * j)).take 6))))

/-- A TAGSET at the home segment: its dwords under the mask, or 6.11 and no change (R284); a timeout that elapses in its cycle comes
first (R436). [MARKS DEDUCED log 129, DEDUCED log 145] -/
def tagsetArrives (s : State) (sd : Send) (mask : BitVec 8) (image : List Byte) : State :=
  let c := sd.ctx
  let idx := tagIndex sd.tag
  let s := elapse s c idx (s.l2cycle + 1)
  let d := tagWord s c idx 0
  let im := fun j => BitVec.ofNat 32 (leNat ((image.drop (4 * j)).take 4))
  let keep : W32 := 0xFF008000
  let d' : W32 := (d &&& keep) ||| ((if mask.getLsbD 0 then im 0 else d) &&& 0x00FE0000) ||| 0x00010000
  if recGen d ≠ tagGen sd.tag ∨ recAlloc d = false ∨ 12 ≤ recOp d' ∨ (recOp d' = 11 ∧ 3 < recSzc d') then
    tagRecord s (lossOf { sd with slot := 0 } 11 0) 0xFFFFFFFF
  else
    let new := fun j => if mask.getLsbD j then im j else tagWord s c idx j
    let dests := destsClean ((List.range 6).flatMap (fun j => bytesOf 4 (new (j + 2)).toNat))
    let s := homeWrite s c (pairsAt (recAddr s c idx) (bytesOf 4 d'.toNat ++ bytesOf 4 (new 1).toNat ++ dests))
    let x := tagState s c idx
    if x.orphan then putTagState s c idx { x with orphan := false, rounds0 := 0, rounds1 := 0 } else s

/-- RENDEZVOUS_ARRIVAL: those one group, or one tag, sent to one tag arrive in the order they were sent (R276), and after the
TAGSETs of that tag that happen before them (R334). -/
def execRendezvousArrival (send : Nat) (s : State) : Host.Outcome State Fault Refusal :=
  match s.sends.find? (fun x => x.id == send) with
  | none => .refused .eventNotEnabled
  | some sd =>
    let before := s.sends.any (fun x => decide (x.id < sd.id) && x.ctx == sd.ctx && tagIndex x.tag == tagIndex sd.tag &&
      x.result == sd.result &&
      ((x.src == sd.src && x.group == sd.group) || (!sd.result && x.set.isSome && x.core == sd.core && decide (x.seq < sd.seq))))
    if before then .refused .eventNotEnabled
    else
      let s := { s with sends := s.sends.filter (fun x => x.id != send) }
      match sd.set with
      | some (m, im) => .next (tagsetArrives s sd m im)
      | none => .next (operandArrives s sd)

/-! ### Timeouts (R279) -/

/-- RENDEZVOUS_TIMEOUT: the head has waited for its tag's timeout, or the context's default; the arrivals of the L2 cycle in which it
elapses come first (R279, R436). [MARK DEDUCED log 129] -/
def execRendezvousTimeout (c idx : Nat) (s : State) : Host.Outcome State Fault Refusal :=
  match ctxOf s c, timeoutAt s c idx with
  | some q, some d => if s.l2cycle ≤ d ∨ q.phase = .stopped then .refused .eventNotEnabled else .next (orphan s c idx)
  | _, _ => .refused .eventNotEnabled

/-! ### Deliveries (R273, R280, R281, R426, R427) -/

/-- A destination has taken the result; after the last one the entry is free (R278). -/
def destTaken (s : State) (e d : Nat) : State :=
  let s := modEntry s e (fun x => { x with dests := x.dests.filter (fun y => y.1 != d), waitTouch := x.waitTouch.filter (fun y => y.1 != d) })
  match findEntry s e with
  | some x => if x.dests = [] then dropEntry s e else s
  | none => s

/-- The loss of a result for one destination: core and team are 0 (R421). [MARK DEDUCED log 86] -/
def resultLoss (e : Entry) (code fail : Nat) (device : Nat) : Loss :=
  { ctx := e.ctx, code := code, tag := e.tag, bytes := e.send.bytes, result := true, round := e.round, fail := fail, device := device }

/-- A global delivery that met a condition: 6.8 with the failing class and code (R427). -/
def globalFails (s : State) (e : Entry) (d cls code : Nat) : State :=
  destTaken (lose s (resultLoss e 8 (cls * 2 ^ 28 + code) s.deviceId.toNat)) e.id d

/-- A global delivery all of whose bytes have arrived: its timeline is advanced by 1 (R137, R280). -/
def globalDone (s : State) (e : Entry) (d : Nat) : State :=
  match e.dests.find? (fun y => y.1 == d) with
  | some y => destTaken (advanceTimeline s e.ctx (Word.field y.2 45 34) 1 0) e.id d
  | none => s

/-- The home segment as one that makes accesses: no core's translation buffer serves it. [MARK DEDUCED log 101] -/
def segmentWho (c : Nat) : Who := { ctx := c, core := 256, gen := none }

/-- The bytes of a global delivery from `a` written; `head` counts those on the first page. [MARK DEDUCED log 101] -/
def globalWrite (s : State) (e : Entry) (d a : Nat) : State :=
  let w := segmentWho e.ctx
  let bs := e.send.bytes
  let head := min bs.length (65536 - a % 65536)
  let at_ := fun i => (a + i) % 2 ^ 57
  let part := fun lo n => engineXlatOut s w false ((List.range n).map (fun i => at_ (lo + i)))
  let put := fun (s : State) (xs : List EByte) (bs : List Byte) => engineWrite s e.ctx 0 (.delivery e.id d) (xs.zip bs)
  let stop := fun (s : State) (st : EStop) => match st with
    | .charge cls code _ _ => globalFails s e d cls code
    | .touch b va =>
      let u := makeTouch s e.ctx b (e.segment / 96) (.delivery e.id d) none 0 va
      modEntry u.2 e.id (fun x => { x with waitTouch := x.waitTouch ++ [(d, u.1)] })
    | .regen b => regenerate s e.ctx b
    | .ask _ => s
    | .held => s
  match part 0 head, part head (bs.length - head) with
  | .error st, _ => stop s st
  | .ok xs, .error (.charge cls code va dt) => stop (put s xs (bs.take head)) (.charge cls code va dt)
  | .ok _, .error st => stop s st
  | .ok xs, .ok ys =>
    let s := put s (xs ++ ys) bs
    if s.peerReqs.any (fun q => q.who == .delivery e.id d) then s
    else globalDone s e d

/-- The live team of a context that holds a handle. -/
def handleTeam (s : State) (c h : Nat) : Option (Nat × Team) := s.teams.find? (fun x => x.2.ctx == c && x.2.handle == h)

/-- A result's bytes land in a resident team's scratchpad and add to the object's arrived bytes (R418, R419, R427).
[MARK DESIGN CHOICE log 87] -/
def landDelivery (s : State) (t : Nat) (tm : Team) (obj off : Nat) (bs : List Byte) : State :=
  let n := bs.length
  if (mget tm.objs (obj / 16)).isNone then faultTeam s t 0 (objRecord 10 obj n 0)
  else if badScratch tm [obj, obj + 4, obj + 8, obj + 12] then faultTeam s t 0 { cls := 8, code := 4, detail := some 3 }
  else
    let s :=
      if tm.scratchBytes < off + n then postRecord s tm.ctx (teamRecord tm 0 { cls := 2, code := 5, addr := BitVec.ofNat 64 off })
      else
        let ps := pairsAt off bs
        match liveHit s t tm (ps.map Prod.fst) with
        | some o => faultTeam s t 0 (liveRecord tm o 0)
        | none => scratchPut s t ps
    match teamOf s t with
    | none => s
    | some tm =>
      match objTest (objAt tm obj) (.land n) with
      | .error (code, d) => faultTeam s t 0 (objRecord code obj d 0)
      | .ok b => objPut s t obj b

/-- Is a team where a delivery can be made (R280, R439)? From the cycle in which its move or its context's stop begins, it is not (R447,
R453). [MARK DEDUCED log 92] -/
def takesDelivery (s : State) (tm : Team) : Bool :=
  tm.phase == .aborting ||
  ((tm.phase == .placed || tm.phase == .running) && (match ctxOf s tm.ctx with | some q => q.phase == .running | none => false))

/-- A scratchpad delivery: made, held in the annex, or lost with 6.7. [MARK DEDUCED log 92] -/
def scratchDeliver (s : State) (e : Entry) (d layout : Nat) : Option State :=
  match handleTeam s e.ctx (Word.field layout 45 32) with
  | none => some (destTaken (lose s (resultLoss e 7 0 s.deviceId.toNat)) e.id d)
  | some (t, tm) =>
    if takesDelivery s tm then
      some (destTaken (landDelivery s t tm (16 * Word.field layout 31 16) (16 * Word.field layout 15 0) e.send.bytes) e.id d)
    else match e.annex, annexFree s e.ctx with
      | none, some k => some (modEntry (annexWrite s e.ctx e.id k) e.id (fun x => { x with annex := some k }))
      | _, _ => none

/-- A result on its way to another tag is a send of the tag that gave it (R280). -/
def tagDeliver (s : State) (e : Entry) (d layout : Nat) : State :=
  let t := BitVec.ofNat 32 layout
  if tagCount s e.ctx ≤ tagIndex t then destTaken (lose s (resultLoss e 8 13 s.deviceId.toNat)) e.id d
  else
    let sd : Send := { id := s.nextId, ctx := e.ctx, tag := t, slot := Word.field layout 32 32, bytes := e.send.bytes, src := tagIndex e.tag, group := d, seq := 0, core := 0, tx := 0, ty := 0, tz := 0, device := s.deviceId.toNat, result := true, set := none }
    destTaken { s with nextId := s.nextId + 1, sends := s.sends ++ [sd] } e.id d

/-- RENDEZVOUS_DELIVERY: one destination takes a result when its path has room, the results of a tag in the order of its rounds
(R138, R280). -/
def execRendezvousDelivery (entry dest : Nat) (s : State) : Host.Outcome State Fault Refusal :=
  match findEntry s entry with
  | none => .refused .eventNotEnabled
  | some e =>
    match e.dests.find? (fun y => y.1 == dest) with
    | none => .refused .eventNotEnabled
    | some (d, layout) =>
      let before := s.entries.any (fun x => decide (x.id < e.id) && x.ctx == e.ctx && x.tag == e.tag && x.dests.any (fun y => y.1 == d || y.2 == layout))
      let waits := e.waitTouch.any (fun y => y.1 == d && touchPending s e.ctx y.2)
      let sent := s.peerReqs.any (fun q => q.who == .delivery entry d)
      if before || waits || sent then .refused .eventNotEnabled
      else if annexBad s e then .next (dropEntry (tagRecord s { resultLoss e 10 0 s.deviceId.toNat with code := 10 } 0xFFFFFFFF) entry)
      else match layout / 2 ^ 46 with
        | 1 => .next (tagDeliver s e d layout)
        | 2 => match scratchDeliver s e d layout with
          | some s => .next s
          | none => .refused .eventNotEnabled
        | _ =>
          let base := match ctxOf s e.ctx with | some q => q.dlvbase.toNat | none => 0
          .next (globalWrite s e d ((base + 64 * Word.field layout 33 0) % 2 ^ 57))

/-! ### Instructions (R282 to R286) -/

/-- An instruction on a tag: the uniform tag, its index and the instruction's own 0.10 and 0.13, in R354's order.
[MARK DEDUCED log 137] -/
def withTag (i : Instr) (o : Operands) (s : State) (pre : Iss → Option Nat) (f : Iss → W32 → State → Res) : Host.Outcome State Fault Refusal :=
  issued i o s (fun iss s =>
    match uniform32 s iss o.a with
    | .error fl => .error ((firstFlt [(pre iss).map (flt0 iss), some fl]).getD fl, s)
    | .ok none => .ok (.adv s)
    | .ok (some t) =>
      match firstFlt [(pre iss).map (flt0 iss), fltIf iss (decide (tagCount s iss.tm.ctx ≤ tagIndex t)) 13] with
      | some fl => .error (fl, s)
      | none => f iss t s)

/-- A value and scc written by an issue-kind instruction (R213, R283, R300). -/
def answer32 (s : State) (iss : Iss) (v : W32) (ok : Bool) : State :=
  modGroup s iss.t iss.g (fun gr => issueWrite iss (setScc gr iss.q.members (fun _ => ok)) (dstNum iss.o.dst) v)

/-- What the group got from the same instruction since its last closing one (R283, R300). -/
def again (iss : Iss) : Option W64 :=
  ((if shadowed iss.gr iss.k then iss.gr.hallocs else iss.gr.allocs).find? (fun a => a.1 == iss.pc)).map Prod.snd
def remember (s : State) (iss : Iss) (v : W64) : State :=
  modGroup s iss.t iss.g (fun gr =>
    if shadowed iss.gr iss.k then { gr with hallocs := gr.hallocs ++ [(iss.pc, v)] } else { gr with allocs := gr.allocs ++ [(iss.pc, v)] })

/-- TAGALLOC (R283). [MARK DEDUCED log 88] -/
def execTagalloc (o : Operands) (s : State) : Host.Outcome State Fault Refusal :=
  issued (.tagalloc o) o s (fun iss s =>
    match again iss with
    | some v => .ok (.adv (answer32 s iss (Word.lo v) true))
    | none =>
      let c := iss.tm.ctx
      match (List.range (tagCount s c)).find? (fun i => !recAlloc (tagWord s c i 0)) with
      | none => .ok (.adv (answer32 s iss 0xFFFFFFFF false))
      | some i =>
        let gen := recGen (tagWord s c i 0)
        let s := setTagWords s c i ((0, BitVec.ofNat 32 (gen * 2 ^ 24 + 2 ^ 15)) :: (List.range 7).map (fun j => (j + 1, 0)))
        let s := modCtx s c (fun q => { q with tags := mdel q.tags i })
        let t := BitVec.ofNat 32 (gen * 2 ^ 24 + i)
        .ok (.adv (remember (answer32 s iss t true) iss (t.setWidth 64))))

/-- R274, R284: a scratchpad destination with handle 0x3FFF in a dword the mask writes takes the issuing team's. -/
def substitute (handle : Nat) (mask : BitVec 8) (image : List Byte) : List Byte :=
  let w := fun j => leNat ((image.drop (4 * j)).take 4)
  let fix := fun (j sh : Nat) => mask.getLsbD j && Word.field (w j) (sh + 15) (sh + 14) == 2 && Word.field (w j) (sh + 13) sh == 0x3FFF
  let out := fun j =>
    let sh := if j = 3 ∨ j = 6 then 0 else 16
    if (j = 3 ∨ j = 4 ∨ j = 6 ∨ j = 7) ∧ fix j sh then w j - 0x3FFF * 2 ^ sh + handle * 2 ^ sh else w j
  (List.range 8).flatMap (fun j => bytesOf 4 (out j))

/-- A send or TAGSET sets out for the tag's home segment; a TAGSET takes a place in the core store order, a send follows the places
that its group's accesses follow (R284, R334). [MARK DEDUCED log 91] -/
def setOut (s : State) (iss : Iss) (tag : W32) (slot : Nat) (bytes : List Byte) (set : Option (BitVec 8 × List Byte)) : State :=
  let tm := iss.tm
  let p := if set.isSome then takePlace s iss.t iss.g tm.core else (iss.gr.acqSeq, s)
  let s := p.2
  { s with nextId := s.nextId + 1, sends := s.sends ++ [{ id := s.nextId, ctx := tm.ctx, tag := tag, slot := slot, bytes := bytes, src := iss.t, group := iss.g, seq := p.1, core := tm.core, tx := tm.x, ty := tm.y, tz := tm.z, device := s.deviceId.toNat, result := false, set := set }] }

/-- TAGSET (R284). -/
def execTagset (o : Operands) (s : State) : Host.Outcome State Fault Refusal :=
  withTag (.tagset o) o s (fun _ => none) (fun iss t s =>
    issueBytes s iss (scal32 s iss iss.k o.b).toNat 32 32 (fun image =>
      let mask : BitVec 8 := if o.form = .f96c then (scal32 s iss iss.k o.c).setWidth 8 else 0xFF
      .ok (.adv (setOut s iss t 0 [] (some (mask, substitute iss.tm.handle mask image))))))

/-- TAGFREE: a stale tag changes nothing (R285, R428). [MARKS DEDUCED log 88, DEDUCED log 129] -/
def execTagfree (o : Operands) (s : State) : Host.Outcome State Fault Refusal :=
  withTag (.tagfree o) o s (fun _ => none) (fun iss t s =>
    let c := iss.tm.ctx
    let i := tagIndex t
    let d := tagWord s c i 0
    if recGen d ≠ tagGen t then .ok (.adv s)
    else
      -- a timeout that has elapsed before has its own outcome (R279)
      let s := loseQueue (elapse s c i s.l2cycle) c i 9
      let s := modCtx s c (fun q => { q with tags := mdel q.tags i })
      .ok (.adv (setTagWords s c i [(0, (d &&& 0x00FE0000) ||| BitVec.ofNat 32 ((tagGen t + 1) % 256 * 2 ^ 24))])))

/-- The size of a send (R286). -/
def sendSize (s : State) (o : Operands) (iss : Iss) : Nat := (scal32 s iss iss.k o.c).toNat
def sizeBad (n : Nat) : Bool := decide (n < 64 ∨ 512 < n ∨ n % 64 ≠ 0)

/-- RVSEND: the gang waits for the source condition of R132, then sends the bytes (R286). -/
def execRvsend (o : Operands) (s : State) : Host.Outcome State Fault Refusal :=
  withTag (.rvsend o) o s (fun iss => if sizeBad (sendSize s o iss) then some 13 else none) (fun iss t s =>
    issueBytes s iss (scal32 s iss iss.k o.b).toNat (sendSize s o iss) 64 (fun bytes =>
      if !storesReached s iss.t iss.g 3 || !loadsPerformed iss.gr then .ok (.wait .retry s)
      else .ok (.adv (setOut s iss t (mf o 50 50) bytes none))))

/-- RVSENDG: bytes of vector registers, zero for slices that are no members; exec is ignored (R286). [MARK DEDUCED log 68] -/
def execRvsendg (o : Operands) (s : State) : Host.Outcome State Fault Refusal :=
  let first := match o.b with | .vec r => r.toNat | _ => 0
  withTag (.rvsendg o) o s
    (fun iss =>
      let n := sendSize s o iss
      if n ≠ 0 ∧ budgetOf iss < first + (n + 127) / 128 then some 10 else if sizeBad n then some 13 else none)
    (fun iss t s =>
      let n := sendSize s o iss
      let byte := fun j =>
        let l := j % 128 / 4
        if iss.q.members.getLsbD (l / 4) then (vreg iss.gr (first + j / 128) l).extractLsb' (8 * (j % 4)) 8 else 0
      .ok (.adv (setOut s iss t (mf o 50 50) ((List.range n).map byte) none)))

end Sys2Proof.Machine
end

