-- ==== Sys2Proof/Machine/Launch.lean ====
section
/-! DEFINITION. Launch packets and their check (R312 to R314, R387, R388), grids and their queue (R310, R311, R318), and what the
package sends when a launch is refused or its first team has started (R316, R389). -/

namespace Sys2Proof.Machine

/-! ### The launch packet (R312) -/

/-- Dword i of a packet. -/
def pkWord (p : List Byte) (i : Nat) : Nat := leNat ((p.drop (4 * i)).take 4)
def pkCode (p : List Byte) : Nat := leNat (p.take 8)
def pkCbase (p : List Byte) : Nat := leNat ((p.drop 8).take 8)
def pkDimX (p : List Byte) : Nat := Word.field (pkWord p 4) 30 0
def pkDimY (p : List Byte) : Nat := pkWord p 5 % 65536
def pkDimZ (p : List Byte) : Nat := pkWord p 5 / 65536
def pkRole (p : List Byte) (r : Nat) : Nat := pkWord p (6 + r)
def pkGroups (p : List Byte) (r : Nat) : Nat := Word.field (pkRole p r) 13 8
def pkBudget (p : List Byte) (r : Nat) : Nat := 8 * (pkRole p r % 256 + 1)
def pkEntry (p : List Byte) (r : Nat) : W64 := BitVec.ofNat 64 ((pkCode p + 4 * (pkRole p r / 2 ^ 14)) % 2 ^ 57)
def pkSgran (p : List Byte) : Nat := pkWord p 10 % 256
def pkTiles (p : List Byte) : Nat := Word.field (pkWord p 10) 12 8
def pkCbm (p : List Byte) : Nat := Word.field (pkWord p 10) 23 16
def pkPrio (p : List Byte) : Nat := pkWord p 10 / 2 ^ 30
def pkEvmb (p : List Byte) : Nat := pkWord p 11 % 1024
def pkEve (p : List Byte) : Bool := Word.bit (pkWord p 11) 10
def pkCore0 (p : List Byte) : Nat := Word.field (pkWord p 11) 18 11
def pkNcm1 (p : List Byte) : Nat := Word.field (pkWord p 11) 26 19
def pkLim (p : List Byte) (c : Nat) : W32 := BitVec.ofNat 32 (pkWord p (12 + c))

/-- Groups over all roles, and their vector registers (R313). -/
def pkAllGroups (p : List Byte) : Nat := ((List.range 4).map (pkGroups p)).sum
def pkVregs (p : List Byte) : Nat := ((List.range 4).map (fun r => pkGroups p r * pkBudget p r)).sum
/-- Teams of a grid. -/
def pkTeams (p : List Byte) : Nat := pkDimX p * pkDimY p * pkDimZ p

/-- Dword i of a packet replaced. -/
def pkPut (p : List Byte) (i v : Nat) : List Byte := p.take (4 * i) ++ bytesOf 4 v ++ p.drop (4 * i + 4)
/-- The context written by the TX2 (R314). -/
def pkWithCtx (p : List Byte) (c : Nat) : List Byte :=
  pkPut p 10 (pkWord p 10 - Word.field (pkWord p 10) 29 24 * 2 ^ 24 + c * 2 ^ 24)
/-- A generator packet: one team, whatever its dimensions; the reserved bit beside them stays (R287, R387). -/
def pkSingle (p : List Byte) : List Byte := pkPut (pkPut p 4 (1 + pkWord p 4 / 2 ^ 31 * 2 ^ 31)) 5 0x10001

/-- R387: the violation mask of a packet. -/
def packetMask (p : List Byte) : Nat :=
  let b := fun (i : Nat) (x : Bool) => if x then 2 ^ i else 0
  let later := [1, 2, 3].any (fun r => (pkGroups p r == 0 && pkRole p r != 0) || (pkGroups p r != 0 && pkGroups p (r - 1) == 0))
  let reserved := bitsSet (pkWord p 11) 31 27 || bitsSet (pkWord p 10) 15 13 || Word.bit (pkWord p 4) 31 ||
    bitsSet (pkCode p) 63 57 || bitsSet (pkCbase p) 63 57
  let range := pkDimX p == 0 || pkDimY p == 0 || pkDimZ p == 0 || decide (192 < pkSgran p) || decide (16 < pkTiles p) ||
    decide (255 < pkCore0 p + pkNcm1 p) || pkCode p % 4 != 0 || pkCbase p % 1024 != 0
  b 0 (pkGroups p 0 == 0) + b 1 later + b 2 (decide (32 < pkAllGroups p)) + b 3 (decide (4096 < pkVregs p)) + b 4 reserved + b 5 range

/-- The octet of a core, numbered over the package (R11). -/
def octetOf (core : Nat) : Nat := core / 8
def octetOn (s : State) (core : Nat) : Bool := !s.octetOff.getLsbD (octetOf core)
/-- The cores of a window. -/
def window (p : List Byte) : List Nat := (List.range (pkNcm1 p + 1)).map (fun i => pkCore0 p + i)
/-- R388: no core of the window is in an enabled octet. [MARK DEDUCED log 95] -/
def windowDead (s : State) (p : List Byte) : Bool := !(window p).any (octetOn s)

/-! ### Grids (R310, R318) -/

/-- When the fill of a generator grid began; none for other grids. -/
def gridBegan (s : State) (g : Nat) : Option Nat :=
  (mget s.grids g).bind (fun gd => gd.gen.bind (fun x => (blockOf s gd.ctx x.block).map (fun b => b.began)))

/-- A grid enters the queue: generator grids ahead of the others, in the order their fills began. -/
def queueGrid (s : State) (g : Nat) : State :=
  match gridBegan s g with
  | none => { s with gridQueue := s.gridQueue ++ [g] }
  | some n =>
    let ahead := s.gridQueue.takeWhile (fun h => match gridBegan s h with | some m => decide (m ≤ n) | none => false)
    { s with gridQueue := ahead ++ g :: s.gridQueue.drop ahead.length }

/-- A grid of a checked packet. -/
def newGrid (s : State) (c mb slot : Nat) (slotAddr : W64) (packet : List Byte) (priv : Bool) (reply : Option (Nat × Nat × Nat))
    (gen : Option GenInfo) : Nat × State :=
  let g := s.nextId
  let gd : Grid := { ctx := c, mb := mb, slot := slot, slotAddr := slotAddr, packet := packet, priv := priv, next := 0, retired := 0,
                     total := pkTeams packet, bypass := 0, blocking := false, aborted := false, reply := reply, firstTeam := none, reported := false, gen := gen }
  (g, queueGrid { s with nextId := g + 1, grids := mput s.grids g gd } g)

/-- The packet a message launches (R309). -/
def packetOf (m : Mailbox) (msg : Msg) : List Byte :=
  if msg.kind = .launch then (msg.bytes ++ List.replicate 64 0).take 64 else m.packet

/-- R310: privileged through a privileged mailbox, but for a LAUNCH of a group that is not. -/
def launchPriv (m : Mailbox) (msg : Msg) : Bool := m.priv && (msg.kind != .launch || msg.privSender)

def putSlot (s : State) (c mb slot : Nat) (x : Option SlotState) : State :=
  modCtx s c (fun q => { q with mailboxes := mmod q.mailboxes mb (fun m => { m with slots := match x with | some v => mput m.slots slot v | none => mdel m.slots slot }) })

/-- The launch from an occupied slot: its packet is checked, then its grid is created (R310, R387, R388). -/
def launchSlot (s : State) (c mb slot : Nat) (addr : W64) (msg : Msg) : State :=
  match (ctxOf s c).bind (fun q => mget q.mailboxes mb) with
  | none => s
  | some m =>
    let p := pkWithCtx (packetOf m msg) c
    let refuse := fun (code : Nat) (detail : Nat) =>
      let s := postRecord (putSlot s c mb slot none) c { cls := 7, code := code, addr := addr, detail := some (BitVec.ofNat 32 detail) }
      sendRefusal s msg.reply code 0 (some slot) c mb p
    if packetMask p ≠ 0 then refuse 9 (packetMask p)
    else if windowDead s p then refuse 10 (pkCore0 p + pkNcm1 p * 256)
    else
      let g := newGrid s c mb slot addr p (launchPriv m msg) msg.reply none
      putSlot g.2 c mb slot (some (.occupied g.1))

/-- The residency report of a grid, when its first-placed team has started (R316). -/
def reportResidency (s : State) (g : Nat) : State :=
  match mget s.grids g with
  | none => s
  | some gd =>
    let s := modGrid s g (fun gd => { gd with reported := true })
    match gd.reply with
    | none => s
    | some r => sendReport s .residency r (reportBytes s 2 (if gd.next = gd.total then 1 else 0) gd.next gd.slot gd.ctx gd.mb gd.packet)

/-- A grid is complete: its slot is free again (R54, R308). -/
def gridDone (s : State) (g : Nat) : State :=
  match mget s.grids g with
  | none => s
  | some gd =>
    let s := { s with grids := mdel s.grids g, gridQueue := s.gridQueue.filter (fun h => h != g) }
    let s := { s with journal := trimOld s }
    if gd.gen.isSome then s else putSlot s gd.ctx gd.mb gd.slot none

end Sys2Proof.Machine
end

