-- ==== Sys2Proof/Machine/Mailbox.lean ====
section
/-! DEFINITION. Mailboxes (R307 to R311): a message takes a slot, is written into it and launches; messages and records that wait for
a slot; what happens to those that find none (R357, R381 to R386). -/

namespace Sys2Proof.Machine

/-! ### Slots -/

def mailboxOf (s : State) (c mb : Nat) : Option Mailbox :=
  (ctxOf s c).bind (fun q => (mget q.mailboxes mb).bind (fun m => if m.n = 0 then none else some m))

/-- The lowest-numbered free slot (R308). -/
def freeSlot (m : Mailbox) : Option Nat := (List.range m.n).find? (fun j => (mget m.slots j).isNone)

/-- The mailbox a record goes to (R357, R422). -/
def recordMailbox (q : Ctx) (r : Record) : Nat :=
  if r.lost ∧ q.lostMb ≠ 0xFFFFFFFF then q.lostMb.toNat else q.errmb.toNat

/-- What waits for a slot of a mailbox: its first record and its first held message, with their cycles. -/
def waitingRecord (q : Ctx) (mb : Nat) : Option Record := q.records.find? (fun r => recordMailbox q r == mb)
def waitingMsg (q : Ctx) (mb : Nat) : Option (Nat × Msg) := q.overflow.find? (fun x => x.2.mb == mb)
def someoneWaits (q : Ctx) (mb : Nat) : Bool := (waitingRecord q mb).isSome || (waitingMsg q mb).isSome

/-! ### Messages that are dropped (R384 to R386) -/

def sourceKind (k : MsgKind) : Nat :=
  match k with
  | .host _ => 0
  | .post => 1
  | .copy => 2
  | .launch => 3
  | .residency => 4
  | .refusal => 4
  | .calibration => 5
  | .record => 0

/-- The sender is told that the message is in its slot, or lost. -/
def answerSender (s : State) (msg : Msg) (ok : Bool) : State :=
  let s := match msg.kind with
    | .host _ => { s with outbox := s.outbox ++ [.hostDone msg.id ok] }
    | _ => s
  match msg.ack with
  | some id => sendAnswer s msg.device 0 0 (.peerAnswer msg.device id ok [])
  | none => s

def forgetMsg (s : State) (id : Nat) : State := { s with msgs := s.msgs.filter (fun m => m.id != id) }

/-- A message dropped with 7.7 or 7.8 (R384, R385), and the refusal report of a LAUNCH (R389). [MARK DEDUCED log 100] -/
def dropUnslotted (s : State) (msg : Msg) (code : Nat) : State :=
  let s := postRecord (forgetMsg s msg.id) msg.ctx { cls := 7, code := code, addr := BitVec.ofNat 64 (msg.device % 1024), detail := some (BitVec.ofNat 32 (sourceKind msg.kind * 4096 + msg.mb)) }
  sendRefusal (answerSender s msg false) msg.reply code 0 none msg.ctx msg.mb (pkWithCtx ((msg.bytes ++ List.replicate 64 0).take 64) msg.ctx)

/-- A message whose slot cannot be written: 7.13 with the condition met (R386). -/
def dropSlotted (s : State) (msg : Msg) (slot cls code : Nat) : State :=
  let s := putSlot (forgetMsg s msg.id) msg.ctx msg.mb slot none
  let s := postRecord s msg.ctx { cls := 7, code := 13, addr := msg.slotAddr, detail := some (BitVec.ofNat 32 (cls * 2 ^ 28 + code)) }
  sendRefusal (answerSender s msg false) msg.reply 13 0 (some slot) msg.ctx msg.mb (pkWithCtx ((msg.bytes ++ List.replicate 64 0).take 64) msg.ctx)

/-! ### The way into a slot -/

/-- The message takes a slot. [MARK DEDUCED log 98] -/
def takeSlot (s : State) (m : Mailbox) (slot : Nat) (msg : Msg) : State :=
  let msg := { msg with slot := some slot, slotAddr := m.base + BitVec.ofNat 64 (256 * slot) }
  putSlot { forgetMsg s msg.id with msgs := (forgetMsg s msg.id).msgs ++ [msg] } msg.ctx msg.mb slot (some (.filling msg.id))

/-- Operations of one ROD flow take effect in the order they were sent (R341). -/
def flowBusy (s : State) (f : Flow) (id : Nat) : Bool :=
  match f with
  | .rud => false
  | .forged _ => false
  | .rod _ =>
    s.hostOps.any (fun o => !o.failed && o.flow == f && decide (o.id < id)) || s.msgs.any (fun m => m.kind == .host f && decide (m.id < id))

/-- A message arrives (R308, R381 to R385); none when it goes on waiting outside. -/
def msgArrives (s : State) (msg : Msg) : Option State :=
  match ctxOf s msg.ctx with
  | none => some (answerSender (forgetMsg s msg.id) msg false)
  | some q =>
    match mailboxOf s msg.ctx msg.mb with
    | none => some (dropUnslotted s msg 8)
    | some m =>
      match freeSlot m with
      | some j => if someoneWaits q msg.mb then none else some (takeSlot s m j msg)
      | none =>
        match msg.kind with
        | .host _ => none
        | _ =>
          if q.overflow.length < 64 then
            some (modCtx (forgetMsg s msg.id) msg.ctx (fun q => { q with overflow := q.overflow ++ [(s.cycle.toNat, msg)] }))
          else some (dropUnslotted s msg 7)

/-- A tracked LAUNCH of a context has waited a full watchdog interval for its report (R390, R450). [MARK DEDUCED log 99] -/
def launchOverdue (s : State) (q : Ctx) (x : Tracked) : Bool := q.phase != .stopped && decide (x.since + Config.watchdog ≤ s.cycle.toNat)

/-- R390: a report's arrival ends the tracking of the oldest LAUNCH to the mailbox it names; in the cycle in which its interval ends, the
report and the 7.12 both stand (R394). [MARK DEDUCED log 99] -/
def untrack (s : State) (msg : Msg) : State :=
  if msg.kind = .residency ∨ msg.kind = .refusal then
    let dev := leNat ((msg.bytes.drop 4).take 4)
    let mb := leNat ((msg.bytes.drop 8).take 4) % 1024
    let is := fun (t : Tracked) => match targetOf s t.target with
      | .local m => m == mb && dev == s.deviceId.toNat
      | .peer d m => m == mb && dev == d
      | .host _ => false
    modCtx s msg.ctx (fun q => { q with tracked := match q.tracked.find? is with | some t => q.tracked.filter (fun x => x.id != t.id || launchOverdue s q x) | none => q.tracked })
  else s

/-- The message is complete in its slot: its releases, then its launch, which waits while the context is stopped (R382, R447). -/
def msgComplete (s : State) (msg : Msg) (slot : Nat) : State :=
  let s := forgetMsg s msg.id
  let s := match msg.tl with | some x => advanceTimeline s x.ctx x.index 1 x.pc | none => s
  let s := answerSender s msg true
  match ctxOf s msg.ctx with
  | none => s
  | some q =>
    if q.phase = .running then launchSlot s msg.ctx msg.mb slot msg.slotAddr msg
    else putSlot (modCtx s msg.ctx (fun q => { q with waiting := q.waiting ++ [(msg.mb, slot, msg)] })) msg.ctx msg.mb slot (some .waiting)

/-- The slot's 256 bytes written through the context's translation, touching from die 0 (R386, R476). [MARK DEDUCED log 101] -/
def writeSlot (s : State) (msg : Msg) (slot : Nat) : State :=
  let w := segmentWho msg.ctx
  let bs := msg.bytes ++ List.replicate (256 - msg.bytes.length) 0
  match engineXlatOut s w false ((List.range 256).map (fun i => (msg.slotAddr.toNat + i) % 2 ^ 57)) with
  | .error (.charge cls code _ _) => dropSlotted s msg slot cls code
  | .error (.touch b va) =>
    let u := makeTouch s msg.ctx b 0 (.slot msg.id) none 0 va
    { u.2 with msgs := u.2.msgs.map (fun m => if m.id == msg.id then { m with waitTouch := some u.1 } else m) }
  | .error (.regen b) => regenerate s msg.ctx b
  | .error (.ask _) => s
  | .error .held => s
  | .ok xs =>
    let s := engineWrite s msg.ctx 0 (.slotWrite msg.id) (xs.zip bs)
    if s.peerReqs.any (fun q => q.who == .slotWrite msg.id) then
      { s with msgs := s.msgs.map (fun m => if m.id == msg.id then { m with written := true } else m) }
    else msgComplete s msg slot

/-- The write of a message to its slot waits for a block's fill (R386). -/
def messageWaits (s : State) (m : Msg) : Bool := match m.waitTouch with | some u => touchPending s m.ctx u | none => false

/-- A suspended mailbox copy goes on once its team has a place again (R442). [MARK DEDUCED log 110] -/
def messageHeld (s : State) (m : Msg) : Bool :=
  m.held && (match m.tl.bind (fun x => teamOf s x.team) with | some tm => tm.phase == .saved | none => false)

/-- MAILBOX_MESSAGE: the next of a message's way: its arrival, its writing into its slot, its completion (R308). -/
def execMailboxMessage (msg : Nat) (s : State) : Host.Outcome State Fault Refusal :=
  match s.msgs.find? (fun m => m.id == msg) with
  | none => .refused .eventNotEnabled
  | some m =>
    match m.slot with
    | none =>
      if (match m.kind with | .host f => flowBusy s f m.id | _ => false) then .refused .eventNotEnabled
      else match msgArrives s m with
        | some s => .next (untrack s m)
        | none => .refused .eventNotEnabled
    | some j =>
      if messageWaits s m || messageHeld s m || s.peerReqs.any (fun q => q.who == .slotWrite msg) then
        .refused .eventNotEnabled
      else if m.written then .next (msgComplete s m j)
      else .next (writeSlot s m j)

/-- A record as a message: it carries the count of records dropped before it (R355, R357). -/
def recordMsg (s : State) (c mb : Nat) (q : Ctx) (r : Record) : Msg :=
  { plainMsg s .record c mb (r.bytes.take 76 ++ bytesOf 4 q.dropped.toNat ++ r.bytes.drop 80) with id := s.nextId }

/-- RECORD_DELIVERY: a record or held message takes a free slot of its mailbox, whichever entered its queue first (R357, R382). -/
def execRecordDelivery (c mb : Nat) (s : State) : Host.Outcome State Fault Refusal :=
  match ctxOf s c, mailboxOf s c mb with
  | some q, some m =>
    match freeSlot m with
    | none => .refused .eventNotEnabled
    | some j =>
      match waitingRecord q mb, waitingMsg q mb with
      | none, none => .refused .eventNotEnabled
      | some r, h =>
        let before := match h with | some x => decide (r.arrived ≤ x.1) | none => true
        if before then
          let s' := modCtx { s with nextId := s.nextId + 1 } c (fun q => { q with records := q.records.filter (fun x => x.seq != r.seq), dropped := 0 })
          .next (takeSlot s' m j (recordMsg s c mb q r))
        else match h with
          | some x => .next (takeSlot (modCtx s c (fun q => { q with overflow := q.overflow.filter (fun y => y.2.id != x.2.id) })) m j x.2)
          | none => .refused .eventNotEnabled
      | none, some x => .next (takeSlot (modCtx s c (fun q => { q with overflow := q.overflow.filter (fun y => y.2.id != x.2.id) })) m j x.2)
  | _, _ => .refused .eventNotEnabled

end Sys2Proof.Machine
end

