-- ==== Sys2Proof/Machine/Distributor.lean ====
section
/-! DEFINITION. The distributor (R318 to R321, R444): which team is placed next and where; the start of a placed team (R48, R313,
R115, R388); retirement and completion of grids (R53, R54); promotion of groups (R322). -/

namespace Sys2Proof.Machine

/-! ### Free resources of a core (R319) -/

/-- The teams that hold resources of a core. -/
def residents (s : State) (core : Nat) : List (Nat × Team) := s.teams.filter (fun e => e.2.core == core && e.2.resident)

def groupsOn (s : State) (core : Nat) : Nat := ((residents s core).map (fun e => e.2.groups.length)).sum

/-- What a team demands: groups, vector registers, scratchpad granules, tiles, and free job-queue entries (R444). -/
structure Demand where
  groups : Nat
  vregs : Nat
  sgran : Nat
  tiles : Nat
  jobs : Nat

def demandOf (p : List Byte) (jobs : Nat) : Demand :=
  { groups := pkAllGroups p, vregs := pkVregs p, sgran := pkSgran p, tiles := pkTiles p, jobs := jobs }

/-- A team fits a core when every resource is free there at once. -/
def fits (s : State) (d : Demand) (core : Nat) : Bool :=
  let rs := residents s core
  decide (rs.length < 16) && decide (groupsOn s core + d.groups ≤ 48) &&
  decide ((rs.map (fun e => (e.2.groups.map (fun gr => gr.budget)).sum)).sum + d.vregs ≤ 4096) &&
  decide ((rs.map (fun e => e.2.scratchBytes / 4096)).sum + d.sgran ≤ 192) &&
  decide ((rs.map (fun e => e.2.tiles.length)).sum + d.tiles ≤ 16) &&
  decide ((coreOf s core).jobs.length + d.jobs ≤ 16)

/-- Eligible cores of a grid's window (R319, R437). -/
def eligible (s : State) (p : List Byte) : List Nat := (window p).filter (fun c => octetOn s c && !(coreOf s c).vacated)

/-- The core a team goes to: the one it fits with the most free group slots, the lowest among equals (R320). -/
def bestCore (s : State) (p : List Byte) (jobs : Nat) : Option Nat :=
  ((eligible s p).filter (fits s (demandOf p jobs))).foldl (fun best c =>
    match best with
    | some b => if groupsOn s c < groupsOn s b then some c else best
    | none => some c) none

/-- Ports and slots of a team's groups in group order: the port with the most free slots, its lowest free slot (R320). -/
def assignSlots (taken : List Nat) : Nat → List Nat
  | 0 => []
  | n + 1 =>
    let free := fun p => 12 - (taken.filter (fun x => x / 12 == p)).length
    let port := ([1, 2, 3].foldl (fun b p => if free b < free p then p else b) 0)
    let slot := ((List.range 12).find? (fun j => !taken.contains (12 * port + j))).getD 0
    (12 * port + slot) :: assignSlots ((12 * port + slot) :: taken) n

def takenSlots (s : State) (core : Nat) : List Nat := (residents s core).flatMap (fun e => e.2.groups.map (fun gr => 12 * gr.port + gr.slot))

def giveSlots (gs : List Group) (slots : List Nat) : List Group :=
  gs.mapIdx (fun i gr => { gr with port := slots.getD i 0 / 12, slot := slots.getD i 0 % 12 })

/-! ### Team handles (R274, R426) -/

/-- A cloakroom or annex entry of the context names the handle. -/
def handleNamed (s : State) (c h : Nat) : Bool :=
  s.entries.any (fun e => e.ctx == c && e.dests.any (fun d => d.2 / 2 ^ 46 == 2 && Word.field d.2 45 32 == h))

/-- The first handle of the queue that no entry names; one passed over keeps its place. -/
def takeHandle (s : State) (c : Nat) : Option (Nat × State) :=
  match ctxOf s c with
  | none => none
  | some q =>
    let ok := fun h => !handleNamed s c h
    match q.handleSkipped.find? ok with
    | some h => some (h, modCtx s c (fun q => { q with handleSkipped := q.handleSkipped.filter (fun x => x != h) }))
    | none =>
      match ((List.range (16383 - q.handleNext)).map (fun i => q.handleNext + i)).find? ok with
      | some h => some (h, modCtx s c (fun q => { q with handleNext := h + 1, handleSkipped := q.handleSkipped ++ (List.range (h - q.handleNext)).map (fun i => q.handleNext + i) }))
      | none =>
        match q.handleFreed.find? ok with
        | some h => some (h, modCtx s c (fun q => { q with handleFreed := q.handleFreed.filter (fun x => x != h) }))
        | none => none

/-! ### Placement (R318, R320, R444) -/

/-- A slice at team start (R48). -/
def freshSlice (entry : W64) : Slice :=
  { pc := entry, rentry := entry, exec := 0xF, vcc := 0, scc := false, sregs := [], fmt := 0, exited := false, barPass := 0, replay := 0 }

/-- A group at team start. -/
def freshGroup (now : Nat) (p : List Byte) (role idx : Nat) : Group :=
  { role := role, roleIndex := idx, budget := pkBudget p role, port := 0, slot := 0, slices := List.replicate 8 (freshSlice (pkEntry p role)),
    gangs := [{ members := 0xFF, wait := none, spinSince := now, seen := [], starved := 0 }], vregs := [], queue := [], fmask := 0, firstOff := none,
    basePrio := pkPrio p, curPrio := pkPrio p, lastIssue := none, yielded := false, readySince := now, lastGang := 7, cg := 0, openJobs := [],
    pending := [], doneCg := 0, lastJob := none, lastProgress := 0, handler := none, returns := [], allocs := [], hallocs := [], acqSeq := 0, relFence := 0, acqs := [], retired := false }

/-- The groups of a packet in group order (R28). -/
def freshGroups (now : Nat) (p : List Byte) : List Group :=
  (List.range 4).flatMap (fun r => (List.range (pkGroups p r)).map (freshGroup now p r))

/-- The next team of a grid placed on a core. [MARK DEDUCED log 107] -/
def placeNew (s : State) (g : Nat) (gd : Grid) (core : Nat) : Option State :=
  match takeHandle s gd.ctx with
  | none => none
  | some (h, s) =>
    let p := gd.packet
    let i := gd.next
    let t := s.nextId
    let gs := giveSlots (freshGroups s.cycle.toNat p) (assignSlots (takenSlots s core) (pkAllGroups p))
    let tm : Team := { Team.blank with
      grid := g, ctx := gd.ctx, core := core, x := i % pkDimX p, y := i / pkDimX p % pkDimY p, z := i / (pkDimX p * pkDimY p), handle := h,
      groups := gs, scratchBytes := 4096 * pkSgran p, scratchNonce := t,
      tiles := (List.range (pkTiles p)).map (fun k => { zeroed := false, nonce := 16 * t + k, cells := [] }),
      lim := (List.range 4).map (pkLim p), eve := pkEve p, evmb := pkEvmb p, priv := gd.priv, gen := gd.gen, age := t }
    let s := { s with nextId := t + 1, teams := mput s.teams t tm }
    let s := modGrid s g (fun gd => { gd with next := i + 1, bypass := if gd.blocking then 0 else gd.bypass, blocking := false, firstTeam := gd.firstTeam.or (some t) })
    some (if i + 1 = gd.total then { s with gridQueue := s.gridQueue.filter (fun h => h != g) } else s)

/-- The caches of a core emptied. -/
def emptyCaches (s : State) (core : Nat) : State := noInstall (modCore s core (fun k => { k with l1 := [], sampler := [] })) core (fun _ _ => true)

/-- A saved team placed again: younger than every resident group, at its base priority, its jobs at the end of the queue and its
copies ahead of all others; its caches start empty (R442, R444, R445). [MARK DESIGN CHOICE log 130] -/
def placeSaved (s : State) (t : Nat) (core : Nat) : State :=
  match teamOf s t with
  | none => s
  | some tm =>
    let slots := assignSlots (takenSlots s core) tm.groups.length
    let now := s.cycle.toNat
    let s := { s with nextId := s.nextId + 1, saved := s.saved.filter (fun u => u != t) }
    let again := fun (gr : Group) =>
      let gs := gr.gangs.map (fun q => { q with spinSince := now, seen := [] })
      { gr with curPrio := gr.basePrio, lastIssue := none, yielded := false, readySince := now, gangs := gs }
    let s := modTeam s t (fun tm =>
      { tm with core := core, resident := true, phase := if tm.started then .running else .placed, age := s.nextId - 1, bypass := 0, savedJobs := [], groups := giveSlots (tm.groups.map again) slots })
    let s := noteSeen s core 0
    emptyCaches (modCore s core (fun k => { k with jobs := k.jobs ++ tm.savedJobs.map (fun j => { j with read := none }) })) core

def gridOf (s : State) (t : Nat) : Option Grid := (teamOf s t).bind (fun tm => mget s.grids tm.grid)
/-- [MARK DEDUCED log 108] -/
def ctxRuns (s : State) (c : Nat) : Bool := match ctxOf s c with | some q => q.phase == .running | none => false

/-- Two windows share a core (R444). -/
def overlap (p q : List Byte) : Bool := (window p).any (fun c => (window q).contains c)

/-- A saved team that a team of packet `p` passes: its count of bypasses (R444). [MARK DEDUCED log 107] -/
def passSaved (s : State) (p : List Byte) (ts : List Nat) : State :=
  ts.foldl (fun s u => match gridOf s u with
    | some gd => if overlap p gd.packet then modTeam s u (fun tm => { tm with bypass := tm.bypass + 1 }) else s
    | none => s) s
/-- Is a team of packet `p` held back by a saved team that has been passed 64 times? [MARK DEDUCED log 107] -/
def savedBlocks (s : State) (p : List Byte) (ts : List Nat) : Bool :=
  ts.any (fun u => match teamOf s u, gridOf s u with
    | some tm, some gd => decide (64 ≤ tm.bypass) && overlap p gd.packet
    | _, _ => false)

/-- The first saved team, in order, that fits; `ahead` those passed. [MARKS DEDUCED log 107, DEDUCED log 108] -/
def trySaved (s : State) : (ahead ts : List Nat) → Option State
  | _, [] => none
  | ahead, u :: r =>
    match teamOf s u, gridOf s u with
    | some tm, some gd =>
      if !ctxRuns s tm.ctx then trySaved s ahead r
      else if savedBlocks s gd.packet ahead then trySaved s (ahead ++ [u]) r
      else match bestCore s gd.packet tm.savedJobs.length with
        | some core => some (passSaved (placeSaved s u core) gd.packet ahead)
        | none => trySaved s (ahead ++ [u]) r
    | _, _ => trySaved s ahead r

/-- The first grid of the queue whose next team fits, unless an earlier one blocks. [MARKS DEDUCED log 107, DEDUCED log 108] -/
def tryGrids (s : State) (saved : List Nat) : (ahead gs : List Nat) → Option State
  | _, [] => none
  | ahead, g :: r =>
    match mget s.grids g with
    | none => tryGrids s saved ahead r
    | some gd =>
      if !ctxRuns s gd.ctx then tryGrids s saved ahead r
      else if ahead.any (fun h => match mget s.grids h with | some x => x.blocking | none => false) then none
      else if savedBlocks s gd.packet saved then tryGrids s saved (ahead ++ [g]) r
      else match bestCore s gd.packet 0 with
        | none => tryGrids s saved (ahead ++ [g]) r
        | some core =>
          let unfit := ahead.filter (fun h => match mget s.grids h with | some x => (bestCore s x.packet 0).isNone | none => false)
          (placeNew s g gd core).map (fun s => passSaved (unfit.foldl (fun s h => modGrid s h (fun x => { x with bypass := x.bypass + 1, blocking := x.blocking || x.bypass + 1 == 64 })) s) gd.packet saved)

/-- TEAM_PLACEMENT: at most one team in a step, saved teams first (R318, R444). [MARK DEDUCED log 107] -/
def execTeamPlacement (s : State) : Host.Outcome State Fault Refusal :=
  let savedHere := s.saved.filter (fun u => match teamOf s u with | some tm => ctxRuns s tm.ctx | none => false)
  match (trySaved s [] s.saved).or (tryGrids s savedHere [] s.gridQueue) with
  | some s => .next s
  | none => .refused .eventNotEnabled

/-! ### Start (R48, R115, R310, R313) -/

/-- Addresses of the constant image loaded: bank b from cbase + 1,024 b. -/
def bankLoads (p : List Byte) : List Nat := (List.range 8).filter (fun b => Word.bit (pkCbm p) b)

/-- The dwords of c0 that the TX2 replaces. -/
def bankStart (s : State) (tm : Team) (gd : Grid) : List (Nat × W32) :=
  match tm.gen with
  | none => [(0, Word.lo gd.slotAddr), (1, Word.hi gd.slotAddr)]
  | some g =>
    let r := (ctxOf s tm.ctx).bind (fun q => mget q.catalogue g.range)
    let param := match r with | some r => r.param | none => 0
    let base := match r with | some r => r.base | none => 0
    let va : W64 := BitVec.ofNat 64 (65536 * g.block)
    [(0, Word.lo va), (1, Word.hi va), (2, Word.lo param), (3, Word.hi param), (4, BitVec.ofNat 32 (g.block - base / 65536)),
     (5, BitVec.ofNat 32 g.depth), (6, BitVec.ofNat 32 g.attempt)]

/-- The addresses of a bank's image. -/
def bankBytes (p : List Byte) (b : Nat) : List Nat := (List.range 1024).map (fun i => (pkCbase p + 1024 * b + i) % 2 ^ 57)

/-- The first address of a bank's image that p holds of: where 7.11 says the condition was met (R373). -/
def bankVa (p : List Byte) (b : Nat) (bad : Nat → Bool) : Nat := ((bankBytes p b).find? bad).getD (pkCbase p + 1024 * b)

/-- Is a byte of a team's constant image one that cannot be read? -/
def bankBad (s : State) (tm : Team) (a : Nat) : Bool :=
  match engineRead s (whoOf tm) false tm.bankLines [a] with
  | .error (.charge _ _ _ _) => true
  | _ => false

/-- Does a byte of a team's constant image lie in a peer line? -/
def bankLine (s : State) (tm : Team) (line a : Nat) : Bool :=
  match engineXlat s (whoOf tm) .read false [a] with
  | .ok xs => xs.any (fun x => lineOf x.pa == line)
  | .error _ => false

/-- The banks' bytes, bank by bank, or the first bank that cannot be read and why. [MARK DESIGN CHOICE log 35] -/
def readBanks (s : State) (tm : Team) (p : List Byte) : List Nat → Except (Nat × EStop) (List (Nat × W32))
  | [] => .ok []
  | b :: r =>
    match engineRead s (whoOf tm) false tm.bankLines (bankBytes p b) with
    | .error e => .error (b, e)
    | .ok bs =>
      match readBanks s tm p r with
      | .error e => .error e
      | .ok ws => .ok ((List.range 256).map (fun d => (256 * b + d, BitVec.ofNat 32 (leNat ((bs.drop (4 * d)).take 4)))) ++ ws)

/-- A bank that cannot be read: 7.11, and the team and its grid are aborted; a class-4 charge ends a generator's attempt (R388,
R476). [MARK DESIGN CHOICE log 35] -/
def bankFault (s : State) (t : Nat) (tm : Team) (bank cls code addr detail : Nat) : State :=
  if tm.ending then s else
  let s := postRecord s tm.ctx (teamRecord tm 0 { cls := 7, code := 11, addr := BitVec.ofNat 64 addr, detail := some (BitVec.ofNat 32 bank) })
  abortGrid s t 7 11 (if cls = 4 then (code, BitVec.ofNat 32 detail, false) else (3, BitVec.ofNat 32 (7 * 2 ^ 28 + 11), true))

/-- All groups of the team start together. -/
def startTeam (s : State) (t : Nat) (tm : Team) (gd : Grid) (banks : List (Nat × W32)) : State :=
  let banks := (banks ++ bankStart s tm gd).foldl (fun m w => mputD m 0 w.1 w.2) ([] : Map W32)
  let seq := (coreOf s tm.core).storeSeq
  let now := s.cycle.toNat
  let begin_ := fun (gr : Group) => { gr with acqSeq := seq, readySince := now, gangs := gr.gangs.map (fun q => { q with spinSince := now }) }
  let s := modTeam s t (fun tm =>
    { tm with phase := .running, started := true, banks := banks, bankTouch := none, bankLines := [], groups := tm.groups.map begin_ })
  let s := discardL1 (noteSeen s tm.core seq) tm.core
  if gd.firstTeam = some t ∧ gd.reported = false then reportResidency s tm.grid else s

/-- TEAM_START: the constant banks are loaded, and the team starts (R313, R320). -/
def execTeamStart (t : Nat) (s : State) : Host.Outcome State Fault Refusal :=
  match teamOf s t, gridOf s t with
  | some tm, some gd =>
    let waits := (match tm.bankTouch with | some u => touchPending s tm.ctx u | none => false) || s.peerReqs.any (fun q => q.who == .banks t)
    if tm.phase ≠ .placed ∨ !ctxRuns s tm.ctx ∨ waits then .refused .eventNotEnabled
    else match readBanks s tm gd.packet (bankLoads gd.packet) with
      | .ok ws => .next (startTeam s t tm gd ws)
      | .error (b, .charge cls code _ d) => .next (bankFault s t tm b cls code (bankVa gd.packet b (bankBad s tm)) d)
      | .error (_, .touch b va) =>
        let u := makeTouch s tm.ctx b (dieOf tm.core) (.banks t) tm.gen 0 va
        .next (modTeam u.2 t (fun tm => { tm with bankTouch := some u.1 }))
      | .error (_, .regen b) => .next (regenerate s tm.ctx b)
      | .error (_, .ask ls) => .next (sendPeerReads s tm.ctx 0 (.banks t) ls)
      | .error (_, .held) => .refused .eventNotEnabled
  | _, _ => .refused .eventNotEnabled

/-! ### Retirement (R53, R54, R321) -/

/-- Copies that write the team's scratchpad or complete on its objects. [MARK DESIGN CHOICE log 77] -/
def teamCopies (s : State) (t : Nat) (tm : Team) : Bool :=
  ((coreOf s tm.core).copies ++ tm.savedCopies).any (fun c => c.team == t && (c.dstScratch || (match c.done with | .object _ => true | _ => false)))

/-- R53: everything that keeps a retired or aborted team on its core is done, suspended copies having entered their engine (R379, R442); of
an aborted team, the instructions issued have completed (R379, R394). [MARK DEDUCED log 131] -/
def teamSettled (s : State) (t : Nat) (tm : Team) : Bool :=
  (coreOf s tm.core).jobs.all (fun j => j.team != t) && tm.savedJobs == [] && tm.savedCopies == [] && !teamCopies s t tm && tm.groups.all (fun gr => gr.queue == []) &&
  !peerStores s tm.core 4 (fun u _ _ => u == t) && (tm.phase != .aborting || tm.groups.all (fun gr => gr.returns.all (fun r => r.prefetch)))

/-- Named cores that hold no team: the answer to a vacate, with how many of its teams still wait for a place (R437).
[MARK DEDUCED log 109] -/
def answerVacates (s : State) : State :=
  s.vacates.foldl (fun s v =>
    let cores := (List.range 256).filter (fun c => v.cores.getLsbD c)
    let waiting := (v.teams.filter (fun t => s.saved.contains t)).length
    if cores.any (fun c => (residents s c) != []) then s
    else
      { s with vacates := s.vacates.filter (fun x => x != v), outbox := s.outbox ++ [.spdm v.session "VACATE_CORES" true [v.cores.toNat, v.moved, waiting]] }) s

/-! ### The end of a full stop (R446, R450, R452) -/

/-- The cached lines of every context but one (R105). -/
def otherLines {α : Type} (c : Nat) (m : Map α) : Map α := m.filter (fun e => e.1 / 2 ^ 45 != c)

/-- The sender of a message that is lost is told (R309). -/
def lostMessage (s : State) (m : Msg) : State :=
  let s := match m.kind with | .host _ => { s with outbox := s.outbox ++ [.hostDone m.id false] } | _ => s
  match m.ack with | some id => sendAnswer s m.device 0 0 (.peerAnswer m.device id false []) | none => s

/-- A context is no more: its teams, grids, entries, sends, held messages and frames, without records (R452). -/
def destroyCtx (s : State) (c session : Nat) : State :=
  let s := (s.msgs.filter (fun m => m.ctx == c)).foldl lostMessage s
  let failed := (s.hostOps.filter (fun o => o.ctx == c && !o.failed)).map (fun o => Out.hostDone o.id false)
  let clean := fun (k : Core) => { k with l1 := otherLines c k.l1, sampler := otherLines c k.sampler, tlb := k.tlb.filter (fun e => e.1.1 != c), copies := k.copies.filter (fun x => x.ctx != c) }
  let s := { s with
    teams := s.teams.filter (fun e => e.2.ctx != c), saved := s.saved.filter (fun t => match teamOf s t with | some tm => tm.ctx != c | none => false)
    gridQueue := s.gridQueue.filter (fun g => match mget s.grids g with | some gd => gd.ctx != c | none => false)
    grids := s.grids.filter (fun e => e.2.ctx != c), msgs := s.msgs.filter (fun m => m.ctx != c), entries := s.entries.filter (fun e => e.ctx != c), sends := s.sends.filter (fun x => x.ctx != c)
    touches := s.touches.filter (fun u => u.ctx != c), hostOps := s.hostOps.filter (fun o => o.ctx != c), peerReqs := s.peerReqs.filter (fun q => q.ctx != c)
    owner := s.owner.filter (fun e => e.2 != c), ctxs := mdel s.ctxs c, cores := s.cores.map (fun (e : Nat × Core) => (e.1, clean e.2)) }
  { s with outbox := s.outbox ++ failed ++ [Out.spdm session "DESTROY_CONTEXT" true [c]] }

/-- The timeline of a HALTCTX advances, as a release at .PKG: at once, or when what its group had done before has reached .PKG (R302).
[MARK DEDUCED log 110] -/
def owe (s : State) (x : HaltTl) : State :=
  if reached s 0 0 x.core 3 x.place then advanceTimeline (released s x.core x.place) x.ctx x.index 1 0
  else modCtx s x.ctx (fun q => { q with owed := q.owed ++ [x] })

/-- The timelines that a context's HALTCTX have still to advance, those that now can. [MARK DEDUCED log 110] -/
def payOwed (s : State) (c : Nat) : State :=
  match ctxOf s c with
  | none => s
  | some q => if q.owed = [] then s else q.owed.foldl owe (modCtx s c (fun q => { q with owed := [] }))

/-- Saving ends once every team of the context is saved: the timelines of HALTCTX advance, and a destruction goes on (R302,
R446). -/
def tryStopped (s : State) (c : Nat) : State :=
  match ctxOf s c with
  | none => s
  | some q =>
    if q.phase ≠ .saving ∨ s.teams.any (fun e => e.2.ctx == c && e.2.phase != .saved) = true then s
    else
      let s := modCtx s c (fun q => { q with phase := .stopped, stoppedAt := s.cycle.toNat, stoppedL2 := s.l2cycle, haltTls := [] })
      let s := q.haltTls.foldl owe s
      match q.destroying with
      | some ss => destroyCtx s c ss
      | none => s

/-- A team leaves: its handle is free, its resources return, its grid may be complete. -/
def removeTeam (s : State) (t : Nat) (tm : Team) : State :=
  let s := { s with teams := mdel s.teams t, saved := s.saved.filter (fun u => u != t) }
  let s := modCtx s tm.ctx (fun q => { q with handleFreed := q.handleFreed ++ [tm.handle] })
  let s := modGrid s tm.grid (fun gd => { gd with retired := gd.retired + 1 })
  let s := match mget s.grids tm.grid with
    | some gd => if gd.retired = gd.total ∨ (gd.aborted ∧ gridTeams s tm.grid = []) then gridDone s tm.grid else s
    | none => s
  tryStopped s tm.ctx

/-- TEAM_RETIRE (R53, R379); a generator that ends with neither GDONE nor GFAIL ends its attempt (R429). -/
def execTeamRetire (t : Nat) (s : State) : Host.Outcome State Fault Refusal :=
  match teamOf s t with
  | none => .refused .eventNotEnabled
  | some tm =>
    let finished := tm.phase = .aborting ∨ ((tm.phase = .running ∨ tm.phase = .moving) ∧ tm.groups.all (fun gr => gr.retired) = true)
    if ¬ finished ∨ teamSettled s t tm = false then .refused .eventNotEnabled
    else
      let s := match tm.gen with
        | some g => if g.acted then s else endAttempt s tm.ctx g.block tm.grid (tm.doom.getD (6, 0, true))
        | none => s
      .next (removeTeam s t tm)

/-! ### Promotion (R322) -/

/-- Has a wait of a gang ended (R50)? A wait for the scoreboard, a queue or an engine ends at the end of a cycle in which the
instruction could go on (`endCycle`). [MARK DEDUCED log 13] -/
def waitOver (s : State) (t : Nat) (tm : Team) (gr : Group) (w : WaitKind) : Bool :=
  match w with
  | .bwait off ph _ => (objAt tm off).phase != ph || (mget tm.objs (off / 16)).isNone
  | .mwait n _ => decide (gr.pending.length ≤ n)
  | .tlwait i n _ => decide (n ≤ (timelineOf s tm.ctx i).toNat)
  | .fill _ u => !touchPending s tm.ctx u
  | .refill _ _ => false
  | .gdone seq => storesHome s t tm seq
  | .smp d => decide (d ≤ s.cycle.toNat)
  | .retry => false
  | .bar _ => false
  | .regang _ _ => false
  | .sleep _ _ => false

/-- A gang that may issue: its team and context run, no other gang holds the group in the handler, and it waits on nothing (R44,
R358). [MARK DEDUCED log 13] -/
def gangReady (s : State) (t : Nat) (tm : Team) (gr : Group) (q : Gang) : Bool :=
  tm.phase == .running && ctxRuns s tm.ctx && q.members != 0 &&
  (match gr.handler with | some h => h.saved.any (fun x => q.members.getLsbD x.slice) | none => true) &&
  (match q.wait with | none => true | some w => waitOver s t tm gr w.kind)

/-- A group that has been ready for 64 cycles without issuing is to rise one level (R322). [MARK DEDUCED log 13] -/
def promotionDue (s : State) (t : Nat) (tm : Team) (gr : Group) : Bool :=
  gr.gangs.any (gangReady s t tm gr) && decide (gr.readySince + 64 ≤ s.cycle.toNat) && decide (gr.curPrio < 3)

/-- PRIORITY_PROMOTION: a ready group that has not issued for 64 cycles rises one level (R322). -/
def execPriorityPromotion (t g : Nat) (s : State) : Host.Outcome State Fault Refusal :=
  match teamOf s t, groupOf s t g with
  | some tm, some gr =>
    if promotionDue s t tm gr then
      .next (modGroup s t g (fun gr => { gr with curPrio := gr.curPrio + 1, readySince := s.cycle.toNat }))
    else .refused .eventNotEnabled
  | _, _ => .refused .eventNotEnabled

end Sys2Proof.Machine
end

