-- ==== Sys2Proof/Machine/Hosting.lean ====
section
/-! DEFINITION. The operations of the Ultra Ethernet transport (R339 to R342, R399): Send, Write, Read, and the acknowledgement of
outbound messages. -/

namespace Sys2Proof.Machine

/-- SPDM requests are answered once step 16 has passed, by main firmware or the recovery image (R349, R469). Firmware answers after the
die bridge has failed, too (R411, R465). -/
def spdmUp (s : State) : Bool := (s.boot.running || s.bridge.failed) && s.eth.up

/-- The port is up and some session protects its packets (R344, R461). [MARK DEDUCED log 106] -/
def hostReachable (s : State) : Bool :=
  s.boot.running && !s.boot.recovery && s.eth.up && s.sessions.any (fun x => x.2.stage == .established)

/-- A packet of a context's flows is a sign of life of the session it is bound to (R462). [MARK DEDUCED log 106] -/
def flowLives (s : State) (c : Nat) : State :=
  match (ctxOf s c).bind (fun q => q.endpoint) with
  | some n => { s with sessions := mmod s.sessions n (fun x => { x with last := s.cycle.toNat, authFails := 0 }) }
  | none => s

/-! ### The end of a session (R456, R462, R463) -/

/-- What the end of a session does to a context bound to it (R462): 10.4 where that ended it, 9.7; held outbound messages dropped with
9.8; interrupted Writes and Reads go no further; slots left Filling by a Send are free again, with 9.9.
[MARK DEDUCED log 113] -/
def unbind (s : State) (c : Nat) (auth : Bool) : State :=
  match ctxOf s c with
  | none => s
  | some q =>
    let s := if auth then postRecord s c { cls := 10, code := 4, detail := some 0 } else s
    let s := postRecord (modCtx s c (fun q => { q with endpoint := none, outAcks := [] })) c { cls := 9, code := 7, detail := some 0 }
    let s := q.outAcks.foldl (fun s a => postRecord s c { cls := 9, code := 8, detail := some (BitVec.ofNat 32 a.mb) }) s
    let mine := fun (m : Msg) => m.ctx == c && (match m.kind with | .host _ => true | _ => false)
    let filling := s.msgs.filter (fun m => mine m && m.slot.isSome)
    let s := { s with msgs := s.msgs.filter (fun m => !mine m), hostOps := s.hostOps.filter (fun o => o.ctx != c) }
    filling.foldl (fun s m =>
      postRecord (putSlot s c m.mb (m.slot.getD 0) none) c { cls := 9, code := 9, addr := m.slotAddr, detail := some (BitVec.ofNat 32 m.mb) }) s

/-- A session ends. -/
def endHostSession (s : State) (session : Nat) (auth : Bool) : State :=
  let bound := (s.ctxs.filter (fun e => e.2.endpoint == some session)).map Prod.fst
  bound.foldl (fun s c => unbind s c auth) { s with sessions := mdel s.sessions session }

/-- A packet of a session's flows that fails authentication is discarded before any effect; after 1,024 in a row the session ends
(R456, R463). [MARK DESIGN CHOICE log 114] -/
def packetFails (s : State) (session : Nat) : Host.Outcome State Fault Refusal :=
  match mget s.sessions session with
  | some x =>
    if !spdmUp s || x.stage != .established then .refused .eventNotEnabled
    else
      let s := { s with sessions := mmod s.sessions session (fun x => { x with authFails := x.authFails + 1 }) }
      .next (if 1024 ≤ x.authFails + 1 then endHostSession s session true else s)
  | none => .refused .eventNotEnabled

/-! ### Writes and Reads (R340, R399) -/

def modHostOp (s : State) (id : Nat) (f : HostOp → HostOp) : State := { s with hostOps := s.hostOps.map (fun o => if o.id == id then f o else o) }
def dropHostOp (s : State) (id : Nat) : State := { s with hostOps := s.hostOps.filter (fun o => o.id != id) }

/-- An operation that goes on. -/
def findHostOp (s : State) (id : Nat) : Option HostOp := s.hostOps.find? (fun o => o.id == id && !o.failed)

/-- A condition met: an error status on the flow and one record with no group; packets of a Write that are still to come store nothing
(R399, R407, R432). [MARK DEDUCED log 105] -/
def hostFails (s : State) (o : HostOp) (cls code addr detail : Nat) : State :=
  let s := if o.write && o.more then modHostOp s o.id (fun o => { o with offset := o.offset + o.bytes.length, bytes := [], failed := true, waitTouch := none })
    else dropHostOp s o.id
  let s := postRecord s o.ctx { cls := cls, code := code, addr := BitVec.ofNat 64 addr, detail := some (BitVec.ofNat 32 detail) }
  { s with outbox := s.outbox ++ [.hostDone o.id false] }

/-- Every byte of a Write has reached its home segment, or a Read has all its bytes (R340). -/
def hostDone (s : State) (o : HostOp) : State :=
  let s := dropHostOp s o.id
  if o.write then
    let s := advanceTimeline s o.ctx o.tl 1 0
    { s with outbox := s.outbox ++ [.hostDone o.id true] }
  else { s with outbox := s.outbox ++ [.hostRead o.id o.bytes] }

/-- The operation goes on, page by page, as far as it can: `n` bounds the pages. [MARK DEDUCED log 105] -/
def hostStep : (n : Nat) → State → HostOp → State
  | 0, s, _ => s
  | n + 1, s, o =>
    let w := segmentWho o.ctx
    let base := match ctxOf s o.ctx with | some q => q.dlvbase.toNat | none => 0
    let va := base + o.offset
    let left := if o.write then o.bytes.length else o.n
    if left = 0 then (if o.more || s.peerReqs.any (fun q => q.who == .host o.id) then s else hostDone s o)
    else
      let k := min left (65536 - va % 65536)
      let as := (List.range k).map (fun i => (va + i) % 2 ^ 57)
      let stop := fun (e : EStop) => match e with
        | .charge cls code a d => hostFails s o cls code a d
        | .touch b a =>
          let u := makeTouch s o.ctx b 0 (.host o.id) none 0 a
          modHostOp u.2 o.id (fun o => { o with waitTouch := some u.1 })
        | .regen b => regenerate s o.ctx b
        | .ask ls => sendPeerReads s o.ctx 0 (.host o.id) ls
        | .held => s
      if o.write then
        match engineXlatOut s w false as with
        | .error e => stop e
        | .ok xs =>
          let o' := { o with offset := o.offset + k, bytes := o.bytes.drop k }
          hostStep n (modHostOp (engineWrite s o.ctx 0 (.host o.id) (xs.zip o.bytes)) o.id (fun _ => o')) o'
      else
        match engineRead s w false o.fetched as with
        | .error e => stop e
        | .ok bs =>
          let o' := { o with offset := o.offset + k, n := o.n - k, bytes := o.bytes ++ bs, fetched := [] }
          hostStep n (modHostOp s o.id (fun _ => o')) o'

/-- May the operation go on: no touch or peer request of its own, and nothing earlier on its ROD flow (R341)?
[MARK DEDUCED log 105] -/
def hostReady (s : State) (o : HostOp) : Bool :=
  !o.failed && !(o.more && o.bytes == []) && !(match o.waitTouch with | some u => touchPending s o.ctx u | none => false) && !s.peerReqs.any (fun q => q.who == .host o.id) && !flowBusy s o.flow o.id

def pagesOf (o : HostOp) : Nat := (o.bytes.length + o.n) / 65536 + 3

/-- The first operation that may go on does so. A step of the package ends with it. [MARK DEDUCED log 105] -/
def pumpHost (s : State) : State :=
  match s.hostOps.find? (hostReady s) with
  | some o => hostStep (pagesOf o) s o
  | none => s

/-- A new operation. -/
def addHostOp (s : State) (flow : Flow) (c : Nat) (write : Bool) (offset : Nat) (bytes : List Byte) (n tl : Nat) (more : Bool) : State :=
  let o : HostOp := { id := s.nextId, flow := flow, ctx := c, write := write, offset := offset, bytes := bytes, n := n, tl := tl, more := more, failed := false, waitTouch := none, fetched := [] }
  pumpHost { s with nextId := s.nextId + 1, hostOps := s.hostOps ++ [o] }

/-- A packet of a flow: one that fails authentication comes to nothing. [MARK DESIGN CHOICE log 114] -/
def onFlow (flow : Flow) (s : State) (r : Host.Outcome State Fault Refusal) : Host.Outcome State Fault Refusal :=
  match flow with
  | .forged session => packetFails s session
  | .rod _ => r
  | .rud => r

/-- HOST_SEND: a message of 1 to 256 bytes sets out for its mailbox (R309, R340). -/
def execHostSend (flow : Flow) (c mb : Nat) (bytes : List Byte) (s : State) : Host.Outcome State Fault Refusal :=
  onFlow flow s <|
  if !hostReachable s || !decide (1 ≤ bytes.length ∧ bytes.length ≤ 256 ∧ c < 64 ∧ mb < 1024) then .refused .eventNotEnabled
  else .next (sendLocal (flowLives s c) (plainMsg s (.host flow) c mb bytes))

/-- The Write whose next packets these are: those before came in order on its flow, and reach up to `offset`.
[MARK DEDUCED log 105] -/
def unfinished (s : State) (flow : Flow) (c offset tl : Nat) : Option HostOp :=
  s.hostOps.find? (fun o => o.write && o.more && o.flow == flow && o.ctx == c && o.tl == tl && o.offset + o.bytes.length == offset)

/-- Further packets of a Write; those of one that has failed store nothing (R399). [MARK DEDUCED log 105] -/
def takePackets (s : State) (o : HostOp) (packets : Packets) : State :=
  if !o.failed then modHostOp s o.id (fun o => { o with bytes := o.bytes ++ packets.bytes, more := packets.more })
  else if packets.more then modHostOp s o.id (fun o => { o with offset := o.offset + packets.bytes.length })
  else dropHostOp s o.id

/-- HOST_WRITE: bytes stored in the delivery window, then a timeline advanced (R340). A Write comes in packets, and
completes with the last (R341, R462). [MARK DEDUCED log 105] -/
def execHostWrite (flow : Flow) (c offset tl : Nat) (packets : Packets) (s : State) : Host.Outcome State Fault Refusal :=
  onFlow flow s <|
  if !hostReachable s || (ctxOf s c).isNone || !decide (1 ≤ packets.bytes.length ∧ packets.bytes.length ≤ 2 ^ 32 ∧ offset + packets.bytes.length ≤ 2 ^ 40 ∧ tl < 4096) then
    .refused .eventNotEnabled
  else match unfinished s flow c offset tl with
    | some o => .next (pumpHost (takePackets (flowLives s c) o packets))
    | none => .next (addHostOp (flowLives s c) flow c true offset packets.bytes 0 tl packets.more)

/-- HOST_READ: bytes of the delivery window, read at the home segments (R340). -/
def execHostRead (flow : Flow) (c offset n : Nat) (s : State) : Host.Outcome State Fault Refusal :=
  onFlow flow s <|
  if !hostReachable s || (ctxOf s c).isNone || !decide (1 ≤ n ∧ n ≤ 2 ^ 32 ∧ offset + n ≤ 2 ^ 40) then .refused .eventNotEnabled
  else .next (addHostOp (flowLives s c) flow c false offset [] n 0 false)

/-- HOST_ACKNOWLEDGEMENT: an outbound message has arrived; a copy's timeline advances (R233, R342). -/
def execHostAcknowledgement (msg : Nat) (s : State) : Host.Outcome State Fault Refusal :=
  match s.ctxs.find? (fun e => e.2.outAcks.any (fun a => a.msg == msg)) with
  | none => .refused .eventNotEnabled
  | some (c, q) =>
    let s := modCtx (flowLives s c) c (fun q => { q with outAcks := q.outAcks.filter (fun a => a.msg != msg) })
    match (q.outAcks.find? (fun a => a.msg == msg)).bind (fun a => a.tl) with
    | some x => .next (advanceTimeline s x.ctx x.index 1 x.pc)
    | none => .next s

end Sys2Proof.Machine
end

