-- ==== Sys2Proof/Machine/Procedural.lean ====
section
/-! DEFINITION. Procedural ranges at work (R112 to R118, R288 to R292, R429 to R436): touches, fills and their attempts, failure of a
block and the charges it makes, GDONE, GFAIL, PRBLK and PREVICT. -/

namespace Sys2Proof.Machine

/-! ### Charges (R431, R432) -/

/-- The record, or the whole outcome, of one charged requester; its team's abort follows in `chargeAbort`. [MARK DEDUCED log 97] -/
def chargeNote (code detail : Nat) (s : State) (u : Touch) : State :=
  match u.req with
  | .gang t g k =>
    match teamOf s t, groupOf s t g with
    | some tm, some gr =>
      if tm.ending then s
      else
        let ms := match gangAt gr k with | some q => q.members | none => 0
        let from_ := u.origin.getD ((sliceOf gr k).pc, ms)
        let lead := leadOf from_.2
        postRecord s tm.ctx (teamRecord tm g { cls := 4, code := code, mask := u.lanes, addr := BitVec.ofNat 64 u.addr, detail := some (handlerDetail gr lead (BitVec.ofNat 32 detail)), pc := from_.1, rentry := (sliceOf gr lead).rentry, members := from_.2 })
    | _, _ => s
  | .copy id =>
    match findCopy s id with
    | some (core, c) =>
      if c.stopped then s else
      let s := modCopy (boundsRecord s core c) core id (fun c => { c with landed := true, stopped := true })
      let tm := copyTeam s core c
      if tm.ending then s
      else postRecord s c.ctx (teamRecord tm c.group { cls := 4, code := code, addr := BitVec.ofNat 64 (65536 * u.block), detail := some (BitVec.ofNat 32 detail), pc := c.pc })
    | none => s
  | .delivery e d => match findEntry s e with | some x => globalFails s x d 4 code | none => s
  | .host id => match findHostOp s id with | some o => hostFails s o 4 code (65536 * u.block) detail | none => s
  | .slot id => match s.msgs.find? (fun m => m.id == id) with | some m => dropSlotted s m (m.slot.getD 0) 4 code | none => s
  | .banks t =>
    match teamOf s t with
    | some tm => bankFault s t tm ((u.addr - (match gridOf s t with | some gd => pkCbase gd.packet | none => 0)) / 1024) 4 code u.addr detail
    | none => s
  | .job _ _ => s

/-- The team a charge aborts. -/
def chargedTeam (s : State) (u : Touch) : Option Nat :=
  match u.req with
  | .gang t _ _ => some t
  | .copy id => (findCopy s id).map (fun x => x.2.team)
  | _ => none

/-- The charged teams aborted with their grids, of one grid the lowest in grid order first (R380, R394). [MARK DEDUCED log 97] -/
def chargeAborts (code : Nat) (detail : W32) (s : State) (ts : List Nat) : State :=
  ts.foldl (fun s t =>
    match teamOf s t with
    | none => s
    | some tm =>
      let mates := ts.filter (fun u => match teamOf s u with | some x => x.grid == tm.grid | none => false)
      let low := mates.foldl (fun b u => if gridPlace s u < gridPlace s b then u else b) t
      abortGrid s low 4 code (code, detail, false)) s

/-- Requesters charged a class-4 code in order, in one cycle. [MARK DEDUCED log 97] -/
def chargeTouches (s : State) (us : List Touch) (code detail : Nat) : State :=
  let ts := (us.filterMap (chargedTeam s)).eraseDups
  chargeAborts code (BitVec.ofNat 32 detail) (us.foldl (chargeNote code detail) s) ts

/-! ### Fills (R114 to R116, R118, R430, R433 to R435) -/

def modBlock (s : State) (c block : Nat) (f : Block → Block) : State := modCtx s c (fun q => { q with blocks := mmod q.blocks block f })

/-- An attempt's generator team is launched as a grid of one team (R115, R430); with no core to run on, 7.10 ends it.
[MARK DEDUCED log 95] -/
def startAttempt (s : State) (c block : Nat) : State :=
  match blockOf s c block, (blockOf s c block).bind (fun b => (ctxOf s c).bind (fun q => mget q.catalogue b.range)) with
  | some b, some r =>
    let p := pkSingle (pkWithCtx r.packet c)
    if windowDead s p then
      let s := postRecord s c { cls := 7, code := 10, detail := some (BitVec.ofNat 32 (pkCore0 p + pkNcm1 p * 256)) }
      modBlock s c block (fun b => { b with grid := none, ended := some (3, BitVec.ofNat 32 (7 * 2 ^ 28 + 10), true) })
    else
      let g := newGrid s c 0 0 0 p false none (some b.gen)
      modBlock g.2 c block (fun b => { b with grid := some g.1, ended := none })
  | _, _ => s

/-- A touch of an unfilled block starts its fill, or is charged (R116, R433, R435). [MARKS DEDUCED log 93, DEDUCED log 94] -/
def startFill (s : State) (u : Touch) (range : Nat) (r : Range) : State :=
  let c := u.ctx
  let depth := match u.gen with | some g => g.depth + 1 | none => 1
  let mask := packetMask (pkSingle (pkWithCtx r.packet c))
  if r.limit < depth then chargeTouches s [u] 4 (range * 2 ^ 16 + r.limit * 2 ^ 8 + depth)
  else if mask ≠ 0 then chargeTouches s [u] 8 mask
  else match popFrame s c u.die with
    | none => chargeTouches s [u] 7 u.die
    | some (f, s) =>
      let s := cleanFrame (own s c f) f
      let gen : GenInfo := { fill := s.nextId, block := u.block, range := range, depth := depth, ancestors := (match u.gen with | some g => g.ancestors ++ [g.block] | none => []), attempt := 0, acted := false }
      let b : Block := { range := range, frame := f, die := frameDie f, gen := gen, began := s.nextId, grid := none, ended := none, queue := [u], filled := false, filledAt := 0, evict := false, held := false }
      let va := 65536 * u.block
      let s := modCtx { s with nextId := s.nextId + 1 } c (fun q => { q with blocks := mput q.blocks u.block b })
      let s := keepBudget (setLeaf s c va (withFill (leafOf s c va) 1 0)) c range
      startAttempt s c u.block

/-- PROCEDURAL_TOUCH: a touch reaches the block's home segment (R114); it waits there while its range is being deleted or its
context stopped and no fill serves it (R304, R447). [MARKS DEDUCED log 93, DEDUCED log 96] -/
def execProceduralTouch (touch : Nat) (s : State) : Host.Outcome State Fault Refusal :=
  match s.touches.find? (fun u => u.id == touch) with
  | none => .refused .eventNotEnabled
  | some u =>
    let s' := { s with touches := s.touches.filter (fun x => x.id != touch) }
    match ctxOf s u.ctx with
    | none => .next s'
    | some q =>
      match mget q.blocks u.block with
      | some b =>
        if b.filled then .next s'
        else if (match u.gen with | some g => g.ancestors.contains u.block | none => false) then
          .next (chargeTouches s' [u] 5 (b.range * 2 ^ 16 + b.gen.depth))
        else .next (modBlock s' u.ctx u.block (fun b => { b with queue := b.queue ++ [u] }))
      | none =>
        let e := leafOf s u.ctx (65536 * u.block)
        match rangeOf q u.block with
        | none => .next s'
        | some (n, r) =>
          if !isProc e || fillOf e != 0 then .next s'
          else if r.deleting || q.phase != .running then .refused .eventNotEnabled
          else .next (startFill s' u n r)

/-- The block becomes filled: its frame stands in its leaf, the fill timeline advances, its requesters go on (R114, R117).
[MARK DEDUCED log 37] -/
def fillDone (s : State) (c block : Nat) (b : Block) : State :=
  let va := 65536 * block
  let s := cleanFrame s b.frame
  let s := setLeaf s c va (withFill (leafOf s c va) 2 (b.frame / 65536))
  let s := modBlock { s with nextId := s.nextId + 1 } c block (fun b => { b with filled := true, filledAt := s.nextId, grid := none })
  match (ctxOf s c).bind (fun q => (mget q.catalogue b.range).bind (fun r => r.tl)) with
  | some i => advanceTimeline s c i 1 0
  | none => s

/-- Is a queued touch's requester still there to be charged (R432)? -/
def requesterLives (s : State) (u : Touch) : Bool :=
  match u.req with
  | .gang t g _ => (teamOf s t).any (fun tm => !tm.ending) && (groupOf s t g).isSome
  | .copy id => (findCopy s id).any (fun x => !x.2.stopped && !(copyTeam s x.1 x.2).ending)
  | .delivery e d => (findEntry s e).any (fun x => x.dests.any (fun y => y.1 == d))
  | .host id => (findHostOp s id).isSome
  | .slot id => s.msgs.any (fun m => m.id == id)
  | .banks t => (teamOf s t).any (fun tm => !tm.ending)
  | .job _ _ => false

/-- R431: the block fails, its frame returns, every queued requester is charged; with none left a record names the block. -/
def failBlock (s : State) (c block : Nat) (b : Block) (code : Nat) (detail : W32) : State :=
  let s := pushFrame (dropBlock s c block 3 (code * 2 ^ 32 + detail.toNat)) c b.frame
  let us := b.queue.filter (requesterLives s)
  if us = [] then postRecord s c { cls := 4, code := code, addr := BitVec.ofNat 64 (65536 * block), detail := some detail }
  else chargeTouches s us code detail.toNat

/-- How the attempt of a block has ended: as recorded, or every group has exited with neither GDONE nor GFAIL (R429). -/
def attemptEnd (s : State) (b : Block) : Option (Nat × W32 × Bool) :=
  match b.ended with
  | some x => some x
  | none =>
    match s.teams.find? (fun e => e.2.gen.isSome && some e.2.grid == b.grid) with
    | some (_, tm) => if tm.groups.all (fun gr => gr.retired) && !(match tm.gen with | some g => g.acted | none => false) then some (6, 0, true) else none
    | none => none

/-- GENERATOR_ATTEMPT_END: the next attempt once the last team has retired, or the block's failure (R430, R431). -/
def execGeneratorAttemptEnd (c block : Nat) (s : State) : Host.Outcome State Fault Refusal :=
  match blockOf s c block with
  | none => .refused .eventNotEnabled
  | some b =>
    if b.filled then .refused .eventNotEnabled
    else match attemptEnd s b with
      | none => .refused .eventNotEnabled
      | some (code, detail, again) =>
        let tries := match (ctxOf s c).bind (fun q => mget q.catalogue b.range) with | some r => r.retry | none => 0
        if again && decide (b.gen.attempt < tries) then
          if (b.grid.bind (mget s.grids)).isSome then .refused .eventNotEnabled
          else .next (startAttempt (modBlock s c block (fun b => { b with gen := { b.gen with attempt := b.gen.attempt + 1 } })) c block)
        else .next (failBlock s c block b code detail)

/-- BLOCK_UNPIN: nothing is in flight any more through a filled block that a PREVICT or the range's budget is to evict (R118). -/
def execBlockUnpin (c block : Nat) (s : State) : Host.Outcome State Fault Refusal :=
  match blockOf s c block with
  | some b => if b.filled && !pinned s c block && b.evict then .next (evict s c block) else .refused .eventNotEnabled
  | none => .refused .eventNotEnabled

/-- The end of a cycle for the blocks of a context: each filled block that has become unpinned while its range is over budget is to be
evicted, until those marked bring the range within its budget (R118). [MARK DEDUCED log 94] -/
def notePins (s : State) (c : Nat) : State :=
  match ctxOf s c with
  | none => s
  | some q =>
    q.blocks.foldl (fun s e =>
      match ctxOf s c with
      | none => s
      | some q =>
        let p := e.2.filled && pinned s c e.1
        let bs := rangeBlocks q e.2.range
        let crowded := match mget q.catalogue e.2.range with
          | some r => r.budget != 0 && decide (r.budget + (bs.filter (fun x => x.2.evict)).length < bs.length)
          | none => false
        if p = e.2.held then s
        else modCtx s c (fun q => { q with blocks := mmod q.blocks e.1 (fun b => { b with held := p, evict := b.evict || (!p && b.filled && crowded) }) })) s

/-! ### Instructions (R289 to R291) -/

/-- The block a generator team fills, in the attempt that team is. -/
def ownBlock (s : State) (tm : Team) : Option (Nat × Block) :=
  match tm.gen with
  | some g =>
    match blockOf s tm.ctx g.block with
    | some b => if b.grid = some tm.grid ∧ b.filled = false ∧ b.ended = none then some (g.block, b) else none
    | none => none
  | none => none

def act (s : State) (t : Nat) : State := modTeam s t (fun tm => { tm with gen := tm.gen.map (fun g => { g with acted := true }) })

/-- GDONE: 0.19 outside a generator team and after the team's first GDONE or GFAIL; otherwise it waits for the team's earlier
stores, and the block is filled (R289). -/
def execGdone (o : Operands) (s : State) : Host.Outcome State Fault Refusal :=
  issued (.gdone o) o s (fun iss s =>
    let mine := match iss.q.wait with | some w => (match w.kind with | .gdone n => some n | _ => none) | none => none
    match iss.tm.gen with
    | none => .error (flt0 iss 19, s)
    | some g =>
      if g.acted && mine.isNone then .error (flt0 iss 19, s)
      else
        let seq := mine.getD (coreOf s iss.tm.core).storeSeq
        let s := act s iss.t
        if !storesHome s iss.t iss.tm seq then .ok (.wait (.gdone seq) s)
        else match ownBlock s iss.tm with
          | some (block, b) => .ok (.adv (fillDone (released s iss.tm.core seq) iss.tm.ctx block b))
          | none => .ok (.adv s))

/-- GFAIL: the attempt ends with its code; the team runs on (R289). -/
def execGfail (o : Operands) (s : State) : Host.Outcome State Fault Refusal :=
  issued (.gfail o) o s (fun iss s =>
    match iss.tm.gen with
    | none => .error (flt0 iss 19, s)
    | some g =>
      if g.acted then .error (flt0 iss 19, s)
      else .ok (.adv (endAttempt (act s iss.t) iss.tm.ctx g.block iss.tm.grid (2, scal32 s iss iss.k o.a, true))))

/-- The 64 KiB page of a 64-bit address operand. -/
def blockArg (s : State) (iss : Iss) (a : Src) : Nat := (scal64 s iss iss.k a).toNat % 2 ^ 57 / 65536

/-- PRBLK: fill state and pinning of a block, read without a touch (R290). -/
def execPrblk (o : Operands) (s : State) : Host.Outcome State Fault Refusal :=
  issued (.prblk o) o s (fun iss s =>
    let b := blockArg s iss o.a
    let e := leafOf s iss.tm.ctx (65536 * b)
    let fill := fillOf e
    let v := if !isProc e then 4 else fill + (if fill = 2 ∧ pinned s iss.tm.ctx b then 8 else 0)
    .ok (.adv (answer32 s iss (BitVec.ofNat 32 v) (isProc e && fill == 2))))

/-- PREVICT: a filled block is evicted now, or when it becomes unpinned (R291). -/
def execPrevict (o : Operands) (s : State) : Host.Outcome State Fault Refusal :=
  issued (.previct o) o s (fun iss s =>
    let c := iss.tm.ctx
    let b := blockArg s iss o.a
    let scc := fun (s : State) (v : Bool) => modGroup s iss.t iss.g (fun gr => setScc gr iss.q.members (fun _ => v))
    match blockOf s c b with
    | some x =>
      if x.filled then .ok (.adv (scc (if pinned s c b then modBlock s c b (fun x => { x with evict := true }) else evict s c b) true))
      else .ok (.adv (scc s false))
    | none => .ok (.adv (scc s false)))

end Sys2Proof.Machine
end

