-- ==== Sys2Proof/Machine/Traffic.lean ====
section
/-! DEFINITION. Memory traffic after issue: store queues drain (R122, R111), results return (R50, R230), home segments fill lines
(R407 to R409), and requests to and from peers (R344, R412, R457). -/

namespace Sys2Proof.Machine

/-! ### Results -/

def modRet (s : State) (t g r : Nat) (f : Ret → Ret) : State :=
  modGroup s t g (fun gr => { gr with returns := gr.returns.map (fun x => if x.id == r then f x else x) })

/-- A register or bank word of a result takes a value. -/
def putKey (k : Nat) (v : W32) (ws : List (Nat × W32)) : List (Nat × W32) := ws.map (fun w => if w.1 == k then (k, v) else w)
def putWord (r : Ret) (k : Nat) (v : W32) : Ret := { r with vw := putKey k v r.vw, sw := putKey k v r.sw, cw := putKey k v r.cw }

/-- An old value of an atomic into the words its keys name: twice the register word plus which half (R225). -/
def putOld (r : Ret) (keys : List Nat) (old : W64) : Ret :=
  keys.foldl (fun r k => putWord r (k / 2) (if k % 2 = 0 then Word.lo old else Word.hi old)) { r with queued := r.queued - 1 }

/-- The words that a result writes replace damaged ones (R406). [MARK DESIGN CHOICE log 40] -/
def healRet (s : State) (t g : Nat) (r : Ret) (sw : List (Nat × W32)) : State :=
  let written := r.vw.map (fun w => (if r.shadow then 6 else 1, eccIndex g w.1)) ++
    sw.map (fun w => (if r.shadow then 6 else 2, eccIndex g (128 * (w.1 / 64) + w.1 % 64))) ++ r.cw.map (fun w => (5, w.1))
  if (teamOf s t).all (fun tm => tm.bad == []) then s else modTeam s t (fun tm => { tm with bad := tm.bad.filter (fun b => !written.contains b) })

/-- The words of a result reach the registers of the instruction's set: the program's or the shadow set's, and of scalars those of the
slices that have taken the issuing slice's since (R37, R50, R358). [MARK DEDUCED log 60] -/
def writeRet (s : State) (t g : Nat) (r : Ret) : State :=
  let sw := (r.sw.filter (fun w => decide (w.1 < 512))).flatMap (fun w => (membersOf (mergedSlices r.merges (w.1 / 64))).map (fun i => (64 * i + w.1 % 64, w.2)))
  let s := healRet s t g r sw
  let s := if r.cw = [] then s else modTeam s t (fun tm => { tm with banks := r.cw.foldl (fun m w => mputD m 0 w.1 w.2) tm.banks })
  let s := (r.sw.filter (fun w => decide (512 ≤ w.1))).foldl (fun s w =>
    modGroup s t g (fun gr => setScalar gr (BitVec.twoPow 8 (keySlice w.1)) (keyNum w.1) (fun _ => w.2))) s
  if r.shadow then
    modGroup s t g (fun gr => { gr with handler := gr.handler.map (fun h =>
      { h with vs := r.vw.foldl (fun m w => mputD m 0 w.1 w.2) h.vs
               ss := sw.foldl (fun m w => mputD m 0 w.1 w.2) h.ss }) })
  else
    modGroup s t g (fun gr =>
      { gr with vregs := r.vw.foldl (fun m w => mputD m 0 w.1 w.2) gr.vregs
                slices := gr.slices.mapIdx (fun i x => { x with sregs := (sw.filter (fun w => w.1 / 64 == i)).foldl (fun m w => mputD m 0 (w.1 % 64) w.2) x.sregs }) })

/-- Everything the result waits for has arrived. -/
def retReady (s : State) (r : Ret) : Bool := r.lines.all (fun l => (mget s.l2 l).isSome) && r.peers == [] && r.queued == 0

/-- A result without words serves a later attempt of its instruction, as long as one is to be made. -/
def stillServes (gr : Group) (r : Ret) : Bool :=
  wordless r && !gr.acqs.any (fun a => a.1 == r.id) && (membersOf r.members).any (fun i => (sliceOf gr i).pc == r.pc && !(sliceOf gr i).exited)

/-- Results that have met an error: none returns, each has its record, with the program counter and members of its instruction, and
then their teams are aborted; those of a team already aborting are recorded too (R394, R407, R413). [MARK DEDUCED log 131] -/
def chargeRets (s : State) (xs : List (Nat × Nat × Ret)) (cls code addr : Nat) (detail : W32) : State :=
  let rec_ := fun (x : Nat × Nat × Ret) =>
    let rentry := match groupOf s x.1 x.2.1 with | some gr => (sliceOf gr (leadOf x.2.2.members)).rentry | none => 0
    (x.1, x.2.1, dataRecord s x.1 x.2.1 x.2.2.members x.2.2.pc rentry cls code addr detail)
  let s' := xs.foldl (fun s x => modGroup s x.1 x.2.1 (fun gr => { gr with returns := gr.returns.filter (fun y => y.id != x.2.2.id) })) s
  faultTeams s' true (xs.map rec_)

/-- One such result. -/
def chargeRet (s : State) (t g : Nat) (r : Ret) (cls code addr : Nat) (detail : W32) : State := chargeRets s [(t, g, r)] cls code addr detail

/-- Loads of one group from one line are performed in their order: does an earlier result still wait to read a line that `x` is to
read (R125)? [MARK DEDUCED log 16] -/
def readAfter (gr : Group) (x : Ret) : Bool :=
  gr.returns.any (fun y => decide (y.seq < x.seq) && y.late.any (fun p => x.late.any (fun q => lineOf q.pa == lineOf p.pa)))

/-- The lost sector that a result's reading at the home segments meets (R408). [MARK DEDUCED log 16] -/
def lateLost (s : State) (core : Nat) (x : Ret) : Option (Nat × W32) :=
  let es := (coreQueue s core).filter (fun e => decide (e.seq < x.seq))
  x.late.findSome? (fun p => match mget s.lost (lineOf p.pa) with
    | some m => if (List.range p.n).any (fun i => heldByte es (p.pa + i) == .no && m.getLsbD ((p.pa + i) % 128 / 32)) then some (128 * lineOf p.pa, m.setWidth 32) else none
    | none => none)

/-- The words that a result still has to read: of the core's stores before it those still held, else what the home segments give now
(R122, R125, R126). [MARK DEDUCED log 16] -/
def readLate (s : State) (core ctx : Nat) (x : Ret) : Ret :=
  let es := (coreQueue s core).filter (fun e => decide (e.seq < x.seq))
  x.late.foldl (fun x p =>
    let v := wordOf p.mode p.n ((List.range p.n).map (fun i => match heldByte es (p.pa + i) with | .byte b => b | _ => homeByte s ctx (p.pa + i)))
    p.keys.foldl (fun x k => putWord x k v) x) x

/-- The local lines of a result enter L1 or the sampler cache (R105, R106). -/
def fillCaches (s : State) (w : Who) (x : Ret) : State :=
  if x.sampler then x.fill.foldl (fun s l => samplerIn s w l (homeBytes s w.ctx (128 * l) 128)) s
  else if x.fill = [] then s else fillL1 s w x.fill

/-- A result returns: the words it has still to read are read at their home segments, and a result that acquires does so now
(R126, R127); that of an aborted team is discarded (R379). [MARKS DEDUCED log 16, DEDUCED log 131] -/
def returnResult (t g r : Nat) (sampler : Bool) (s : State) : Host.Outcome State Fault Refusal :=
  match teamOf s t, groupOf s t g, retOf s t g r with
  | some tm, some gr, some x =>
    if x.sampler != sampler || !retReady s x || (stillServes gr x && !tm.ending) || readAfter gr x then .refused .eventNotEnabled
    else match lateLost s tm.core x with
    | some (a, m) => .next (chargeRet s t g x 8 2 a m)
    | none =>
      if tm.phase = .aborting then .next (modGroup s t g (fun gr => { gr with returns := gr.returns.filter (fun y => y.id != r) }))
      else
      let s := writeRet s t g (readLate s tm.core tm.ctx x)
      let s := modGroup s t g (fun gr => { gr with returns := gr.returns.filter (fun y => y.id != r), acqs := gr.acqs.filter (fun a => a.1 != r) })
      let s := match gr.acqs.find? (fun a => a.1 == r) with
        | some a => acquireAt s t g tm.core a.2 (x.seq + 1)
        | none => s
      .next (fillCaches s (whoOf tm) x)
  | _, _, _ => .refused .eventNotEnabled

/-- LOAD_RETURN (R50). [MARK DEDUCED log 19] -/
def execLoadReturn (t g r : Nat) (s : State) : Host.Outcome State Fault Refusal := returnResult t g r false s
/-- SAMPLER_RETURN (R230). -/
def execSamplerReturn (t g r : Nat) (s : State) : Host.Outcome State Fault Refusal := returnResult t g r true s

/-! ### Store queues (R122, R125, R127, R111) -/

/-- The lines of memory an entry acts on, its replicas' among them. -/
def entryLines (e : SQEntry) : List Nat :=
  match e.op with
  | .store bs => ((bs.map (fun p => lineOf p.1)) ++ (if bs = [] then [] else e.replicas.map lineOf)).eraseDups
  | .atomic _ a _ _ _ _ => [lineOf a]

/-- A store that writes a whole line needs no copy of it in L2; any other entry merges into the line (R407).
[MARK DEDUCED log 27] -/
def needsFill (s : State) (e : SQEntry) : List Nat :=
  (entryLines e).filter (fun l => !isPeer (128 * l) && (mget s.l2 l).isNone && (mget s.badLines l).isNone &&
    !(match e.op with | .store bs => decide (128 ≤ bs.length) | .atomic _ _ _ _ _ _ => false))

/-- May an entry leave as a release: everything before its place has reached the coherence point of its scope (R127 to R129)?
[MARKS DEDUCED log 18, DEDUCED log 91] -/
def releaseReady (s : State) (t g core : Nat) (e : SQEntry) : Bool := reached s t g core e.relScope e.base

/-- Loads of a core before a place of the core store order that have still to read a line (R122, R123). [MARK DEDUCED log 127] -/
def readsBefore (s : State) (core seq line : Nat) : Bool :=
  (coreReturns s core).any (fun r => decide (r.seq < seq) && (r.late.any (fun p => lineOf p.pa == line) ||
    s.peerReqs.any (fun q => r.peers.contains q.id && lineOf q.addr == line)))

/-- Is an earlier entry of the core that p holds of still to write a line of an entry's? [MARK DEDUCED log 127] -/
def lineBefore (s : State) (core : Nat) (e : SQEntry) (p : SQEntry → Bool) : Bool :=
  (coreQueue s core).any (fun x => decide (x.seq < e.seq) && p x && (entryLines x).any (fun l => (entryLines e).contains l))

/-- May the entry at position n leave its group's queue? It is the head (R122), what it follows as a release has reached its scope, and L1
takes the stores of a line in the core store order. [MARK DEDUCED log 127] -/
def mayLeave (s : State) (t g n core : Nat) (gr : Group) (e : SQEntry) : Bool :=
  (gr.queue.take n).all (fun x => x.left) && releaseReady s t g core e && !lineBefore s core e (fun x => !x.left)

/-- May an entry on its way, at position n, reach its coherence point? Entries of one line, and loads of it before them, keep the core
store order (R122); stores to a replicated page keep their group's order (R111); others may overtake on their way to other home
segments (R126). [MARKS DEDUCED log 27, DEDUCED log 127] -/
def mayArrive (s : State) (n core : Nat) (gr : Group) (e : SQEntry) : Bool :=
  needsFill s e == [] && !lineBefore s core e (fun _ => true) && !(entryLines e).any (readsBefore s core e.seq) &&
  (e.replicas == [] || (gr.queue.take n).all (fun x => x.replicas == []))

/-- Bytes of L1 lines present at the core take their new values (R105, R122). -/
def updateL1 (s : State) (c core : Nat) (ps : List (Nat × Byte)) : State :=
  let w : Who := { ctx := c, core := core, gen := none }
  modCore s core (fun k => { k with l1 := ps.foldl (fun m p => mmod m (l1Key w (lineOf p.1)) (fun bs => bs.set (p.1 % 128) p.2)) k.l1 })

/-- An entry leaves its queue: L1 takes its bytes, if it holds the line, and it is on its way (R122). [MARK DEDUCED log 127] -/
def sendOff (s : State) (t g : Nat) (tm : Team) (e : SQEntry) : State :=
  let s := if pkgWide e.relScope then released s tm.core e.base else s
  let s := match e.op with
    | .store bs => noInstall (updateL1 s tm.ctx tm.core bs) tm.core (fun l _ => (entryLines e).contains l)
    | .atomic _ _ _ _ _ _ => s
  modGroup s t g (fun gr => { gr with queue := gr.queue.map (fun x => if x.seq == e.seq then { x with left := true } else x) })

/-- An entry has reached its coherence point. -/
def popEntry (s : State) (t g seq : Nat) : State := modGroup s t g (fun gr => { gr with queue := gr.queue.filter (fun x => x.seq != seq) })

/-- An entry that will not be performed is dropped, and with it the result it was to give. -/
def discardEntry (s : State) (t g : Nat) (e : SQEntry) : State :=
  modGroup (popEntry s t g e.seq) t g (fun gr => { gr with returns := gr.returns.filter (fun r =>
    match e.op with | .atomic _ _ _ _ (some id) _ => r.id != id | _ => true) })

/-- The bytes of a store at local homes, and requests to peers, those to further replicas apart (R111, R120).
[MARK DEDUCED log 67] -/
def storeWrite (s : State) (ctx core : Nat) (pc : W64) (t g seq : Nat) (replica : Option Nat) (ws : List (EByte × Byte)) : State :=
  let first := ws.map (fun w => ({ w.1 with others := [] }, w.2))
  let further := ws.flatMap (fun w => (w.1.others.filter (fun o => o != w.1.pa)).map (fun o => (({ w.1 with pa := o, others := [] } : EByte), w.2)))
  let s := storeHome s (some (.store core seq)) ctx (localPairs ws)
  let s := sendPeerWrites s ctx pc (.store t g seq (replica.map (fun va => (va, false)))) (peerRuns first)
  sendPeerWrites s ctx pc (.store t g seq (replica.map (fun va => (va, true)))) (peerRuns further)

/-- A store at its coherence points: local homes, the peer, and every replica (R107, R111).
[MARKS DEDUCED log 29, DEDUCED log 67, DEDUCED log 127] -/
def drainStore (s : State) (t g : Nat) (tm : Team) (e : SQEntry) (bs : List (Nat × Byte)) : State :=
  let s := noInstall (updateL1 s tm.ctx tm.core bs) tm.core (fun l _ => (entryLines e).contains l)
  let ws := bs.map (fun p => (({ va := e.va, pa := p.1, others := e.replicas.map (fun o => o + p.1 % 128), block := none } : EByte), p.2))
  storeWrite s tm.ctx tm.core e.pc t g e.seq (if e.replicas = [] then none else some e.va) ws

/-- An atomic at a local home segment: the old value read, the new one written there and in L1 (R107, R224, R225). -/
def drainAtomic (s : State) (t g : Nat) (tm : Team) (seq aop addr : Nat) (c d : W64) (ret : Option Nat) (keys : List Nat) : State :=
  let n := atomBytes aop
  let old := BitVec.ofNat 64 (leNat (homeBytes s tm.ctx addr n))
  let ps := pairsAt addr (bytesOf n (atomNew aop old c d).toNat)
  let s := updateL1 (storeHome s (some (.store tm.core seq)) tm.ctx ps) tm.ctx tm.core ps
  match ret with
  | some r => modRet s t g r (fun x => putOld x keys old)
  | none => s

/-- An atomic sent to the owning device; the core's L1 copy of its line is dropped. [MARK DEDUCED log 30] -/
def sendAtomic (s : State) (t g : Nat) (tm : Team) (e : SQEntry) (aop addr : Nat) (c d : W64) (ret : Option Nat) (keys : List Nat) : State :=
  let w : Who := { ctx := tm.ctx, core := tm.core, gen := none }
  let s := noInstall (modCore s tm.core (fun k => { k with l1 := mdel k.l1 (l1Key w (lineOf addr)) })) tm.core (fun l smp => l == lineOf addr && !smp)
  sendRequest s (peerDevice addr) addr tm.ctx e.pc (.atomic t g e.seq ret keys) (2 * atomBytes aop)
    (fun id => .peerAtomic id (peerDevice addr) (addr % 2 ^ 39) aop c d ret.isSome)

/-- The consumer of an atomic charged with a data error (R407, R408). [MARK DEDUCED log 36] -/
def chargeAtomic (s : State) (t g : Nat) (e : SQEntry) (ret : Option Nat) (code addr : Nat) (detail : W32) : State :=
  match ret.bind (retOf s t g) with
  | some r => chargeRet s t g r 8 code addr detail
  | none =>
    let rentry := match groupOf s t g with | some gr => (sliceOf gr (leadOf e.members)).rentry | none => 0
    chargeData s t g e.members e.pc rentry 8 code addr detail

/-- A store-queue entry's operation at the same offsets of another frame. -/
def SQOp.inFrame (frame : Nat) : SQOp → SQOp
  | .store bs => .store (bs.map (fun p => (frame + p.1 % 65536, p.2)))
  | .atomic aop a c d ret keys => .atomic aop (frame + a % 65536) c d ret keys

/-- An entry of a queue through a block whose frame has met an error at `addr`: the block is regenerated, its touch made again, for the
lanes that made it, and the entry goes to the new frame (R409, R432); a block that has failed meanwhile charges it (R431). None while the
fill goes on. [MARK DEDUCED log 37] -/
def retouchEntry (s : State) (t g : Nat) (tm : Team) (e : SQEntry) (block addr : Nat) : Option State :=
  match blockOf s tm.ctx block with
  | some b =>
    if !b.filled then none
    else if b.frame / 65536 = addr / 65536 then some (regenerate s tm.ctx block)
    else some (modGroup s t g (fun gr => { gr with queue := gr.queue.map (fun x => if x.seq != e.seq then x else { x with op := x.op.inFrame b.frame }) }))
  | none =>
    let leaf := leafOf s tm.ctx (65536 * block)
    if isProc leaf && fillOf leaf == 3 then
      let rentry := match groupOf s t g with | some gr => (sliceOf gr (leadOf e.members)).rentry | none => 0
      some (faultTeam (discardEntry s t g e) t g { cls := 4, code := Word.field leaf 51 48, mask := e.lanes, addr := BitVec.ofNat 64 e.va, detail := some (BitVec.ofNat 32 (Word.field leaf 47 16)), pc := e.pc, rentry := rentry, members := e.members })
    else some (makeTouch s tm.ctx block (dieOf tm.core) (.gang t g (leadOf e.members)) tm.gen e.lanes e.va (some (e.pc, e.members))).2

/-- The damaged line of a filled block that a store through it would merge into (R407, R409). -/
def damagedUnder (s : State) (e : SQEntry) (bs : List (Nat × Byte)) : Option (Nat × Nat) :=
  match e.block with
  | none => none
  | some b => ((entryLines e).find? (fun l => !isPeer (128 * l) && (mget s.badLines l).isSome && (mget s.l2 l).isNone && decide (bs.length < 128))).map (fun l => (b, 128 * l))

/-- A touch of a team on a block, on its way or queued. [MARK DEDUCED log 37] -/
def touchedBy (s : State) (t g c block : Nat) : Bool :=
  let mine := fun (u : Touch) => u.block == block && (match u.req with | .gang t' g' _ => t' == t && g' == g | _ => false)
  s.touches.any mine || (match blockOf s c block with | some b => !b.filled && b.queue.any mine | none => false)

/-- STORE_QUEUE_DRAIN: the head of a group's queue leaves it, or an entry that has left reaches its coherence point (R122); the entry is
named by its position, those that have left first. [MARKS DEDUCED log 28, DEDUCED log 29, DEDUCED log 39, DEDUCED log 127] -/
def execStoreQueueDrain (t : Nat) (entry : QueuePlace) (s : State) : Host.Outcome State Fault Refusal :=
  let g := entry.group
  let n := entry.pos
  match teamOf s t, groupOf s t g with
  | some tm, some gr =>
    match gr.queue[n]? with
    | none => .refused .eventNotEnabled
    | some e =>
      if !e.left then
        if !mayLeave s t g n tm.core gr e then .refused .eventNotEnabled
        else if tm.bad.contains (7, e.seq) then
          -- an uncorrectable store-queue entry: the store is dropped (R406)
          .next (faultTeam (discardEntry s t g e) t g { cls := 8, code := 4, detail := some 7, pc := e.pc })
        else .next (sendOff s t g tm e)
      else if !mayArrive s n tm.core gr e then .refused .eventNotEnabled
      else match e.op with
        | .store bs =>
          match damagedUnder s e bs with
          | none => .next (drainStore (popEntry s t g e.seq) t g tm e bs)
          | some (b, a) =>
            if touchedBy s t g tm.ctx b then .refused .eventNotEnabled
            else match retouchEntry s t g tm e b a with
              | some s => .next s
              | none => .refused .eventNotEnabled
        | .atomic aop addr c d ret keys =>
          if isPeer addr then .next (sendAtomic (popEntry s t g e.seq) t g tm e aop addr c d ret keys)
          else match dataError s addr (atomBytes aop) with
            | none => .next (drainAtomic (popEntry s t g e.seq) t g tm e.seq aop addr c d ret keys)
            | some (code, a, m) =>
              match code, e.block with
              | 1, some b =>
                if touchedBy s t g tm.ctx b then .refused .eventNotEnabled
                else match retouchEntry s t g tm e b addr with
                  | some s => .next s
                  | none => .refused .eventNotEnabled
              | 1, none =>
                -- without a return it merges into the damaged line (R407)
                if ret.isSome then .next (chargeAtomic (popEntry s t g e.seq) t g e ret 1 a 0)
                else .next (drainAtomic (popEntry s t g e.seq) t g tm e.seq aop addr c d ret keys)
              | _, _ => .next (chargeAtomic (popEntry s t g e.seq) t g e ret code a m)
  | _, _ => .refused .eventNotEnabled

/-! ### Fills (R105, R407 to R409) -/

/-- Is an entry an atomic of a result that waits at the home of a line, not through a procedural block? -/
def atomicOn (line ret : Nat) (e : SQEntry) : Bool :=
  e.left && e.block.isNone && (match e.op with | .atomic _ a _ _ (some r) _ => r == ret && lineOf a == line | _ => false)

/-- The results that wait for a line, atomics with return among them, with their team and group (R413). -/
def waitersOf (s : State) (line : Nat) : List (Nat × Nat × Ret) :=
  s.teams.flatMap (fun e => ((List.range e.2.groups.length).map (fun g => (e.1, g))).flatMap (fun x =>
    match e.2.groups[x.2]? with
    | some gr =>
      let rs := gr.returns.filter (fun r => r.lines.contains line || gr.queue.any (atomicOn line r.id))
      (List.range 8).flatMap (fun k => (rs.filter (fun r => leadOf r.members == k)).map (fun r => (x.1, x.2, r)))
    | none => []))

/-- The filled block of the waiting result's context whose frame holds a line. -/
def blockOfLine (s : State) (t line : Nat) (r : Ret) : Option (Nat × Nat) :=
  match teamOf s t with
  | none => none
  | some tm => (r.blocks.find? (fun b => match blockOf s tm.ctx b with | some x => x.filled && x.frame / 65536 == line / 512 | none => false)).map (fun b => (tm.ctx, b))

/-- The error of a fill delivered to its consumers (R407, R409, R413): their blocks are regenerated and their touches made again, or
each receives 8.1, of one group in ascending order of lowest member slice (R372), and then their teams are aborted; a line that nothing
waits for is asked for no more. [MARK DESIGN CHOICE log 144] -/
def fillError (s : State) (line : Nat) : State :=
  let ws := waitersOf s line
  let s := (ws.filterMap (fun x => blockOfLine s x.1 line x.2.2)).eraseDups.foldl (fun s cb => regenerate s cb.1 cb.2) s
  let again := fun (x : Nat × Nat × Ret) => (blockOfLine s x.1 line x.2.2).isSome || x.2.2.prefetch || (x.2.2.blocks != [] && wordless x.2.2)
  let kept := ws.filter (fun x => again x)
  let s' := kept.foldl (fun s x => modRet s x.1 x.2.1 x.2.2.id (fun r => { r with lines := r.lines.filter (fun l => l != line), fill := r.fill.filter (fun l => l != line) })) s
  let lost := ws.filter (fun x => !kept.contains x)
  let s' := lost.foldl (fun s x => modGroup s x.1 x.2.1 (fun gr => { gr with queue := gr.queue.filter (fun e => !atomicOn line x.2.2.id e) })) s'
  chargeRets s' lost 8 1 (128 * line) 0

/-- An uncorrectable error in the SRAM of a line that L2 holds: a clean line is discarded, a dirty one enters the table of lost sectors
(R407, R408). -/
def lineFails (s : State) (line : Nat) : State :=
  if mget s.l2 line = some true then addLost s line 0xF else { s with l2 := mdel s.l2 line }

/-- A correctable error of a die's HBM is counted, and seen nowhere else (R410). [MARK DESIGN CHOICE log 10] -/
def countCorrected (t : Telemetry) (line : Nat) : Telemetry :=
  if (segmentOf line).1 = 0 then { t with corrected0 := t.corrected0 + 1 } else { t with corrected1 := t.corrected1 + 1 }

/-- A line has arrived for every result that waited for it. -/
def lineArrives (s : State) (line : Nat) : State :=
  { s with teams := s.teams.map (fun (e : Nat × Team) => (e.1, { e.2 with groups := e.2.groups.map (fun gr =>
      { gr with returns := gr.returns.map (fun r => { r with lines := r.lines.filter (fun l => l != line) }) }) })) }

/-- L2_FILL: a line not in L2 is read from HBM, in the place of a victim of its set or a free way (R1, R15, R407), a correctable error
being corrected and counted (R410); with a failure on a line that L2 holds, its SRAM has failed (R408).
[MARK DESIGN CHOICE log 26] -/
def execL2Fill (line : Nat) (victim : Option Nat) (read : FillRead) (s : State) : Host.Outcome State Fault Refusal :=
  if 2 ^ 32 ≤ line then .refused .eventNotEnabled
  else if (mget s.l2 line).isSome then (if read = .failed ∧ victim = none then .next (lineFails s line) else .refused .eventNotEnabled)
  else
    let placeOk := match victim with | some v => (setLines s line).contains v | none => wayFree s line
    if placeOk = false ∨ (read ≠ .failed ∧ (mget s.badLines line).isSome) then .refused .eventNotEnabled
    else
      let s := match victim with | some v => evictLine s v | none => s
      match read with
      | .failed => .next (fillError { s with badLines := mput s.badLines line () } line)
      | .corrected => .next (lineArrives { s with l2 := mput s.l2 line false, tele := countCorrected s.tele line } line)
      | .good => .next (lineArrives { s with l2 := mput s.l2 line false } line)

/-! ### Requests of this device (R344, R412, R457) -/

def dropReq (s : State) (id : Nat) : State := { s with peerReqs := s.peerReqs.filter (fun q => q.id != id) }
def dropReqs (s : State) (who : PeerFor) : State := { s with peerReqs := s.peerReqs.filter (fun q => q.who != who) }

/-- The bank that a team's start was reading (R313). [MARK DESIGN CHOICE log 35] -/
def bankAsked (s : State) (t : Nat) : Nat :=
  match teamOf s t, gridOf s t with
  | some tm, some gd => match readBanks s tm gd.packet (bankLoads gd.packet) with | .error (b, _) => b | .ok _ => 0
  | _, _ => 0

/-- A request that has failed, or whose answer is an error, for its consumer: class, code and detail (R412, R457). One of VPREF has no
consumer and changes nothing (R218). [MARKS DEDUCED log 29, DEDUCED log 67] -/
def reqFails (s : State) (q : PeerReq) (cls code detail : Nat) : State :=
  match q.who with
  | .load t g r _ _ => match retOf s t g r with
    | some x => if x.prefetch then modRet s t g r (fun x => { x with peers := x.peers.filter (fun p => p != q.id) }) else chargeRet s t g x cls code q.addr (BitVec.ofNat 32 detail)
    | none => s
  | .atomic t g _ ret _ =>
    let addr := if cls = 8 then q.addr - q.addr % 128 else q.addr
    match ret.bind (retOf s t g) with
    | some x => chargeRet s t g x cls code addr (BitVec.ofNat 32 detail)
    | none => faultTeam s t g { cls := cls, code := code, addr := BitVec.ofNat 64 addr, detail := some (BitVec.ofNat 32 detail), pc := q.pc }
  | .store t g _ none => faultTeam s t g { cls := cls, code := code, addr := BitVec.ofNat 64 q.addr, detail := some (BitVec.ofNat 32 detail), pc := q.pc }
  | .store t g _ (some va) => faultTeam s t g { cls := 9, code := 4, addr := BitVec.ofNat 64 va.1, detail := some (BitVec.ofNat 32 q.device), pc := q.pc }
  | .copyRead id => match findCopy s id with | some (core, c) => stopCopy s core c cls code q.addr detail | none => s
  | .copyWrite id => match findCopy s id with | some (core, c) => stopCopy s core c cls code q.addr detail | none => s
  | .copyTimeline t g => faultTeam s t g { cls := cls, code := code, detail := some (BitVec.ofNat 32 detail), pc := q.pc }
  | .delivery e d =>
    let s := dropReqs s q.who
    match findEntry s e with | some x => globalFails s x d cls code | none => s
  | .message _ _ => postRecord s q.ctx { cls := cls, code := code, detail := some (BitVec.ofNat 32 detail), pc := q.pc }
  | .slotWrite id =>
    let s := dropReqs s q.who
    match s.msgs.find? (fun m => m.id == id) with | some m => dropSlotted s m (m.slot.getD 0) cls code | none => s
  | .banks t =>
    match teamOf s t, gridOf s t with
    | some tm, some gd => bankFault s t tm (bankAsked s t) cls code (bankVa gd.packet (bankAsked s t) (bankLine s tm (lineOf q.addr))) detail
    | _, _ => s
  | .host id =>
    let s := dropReqs s q.who
    match findHostOp s id with | some o => hostFails s o cls code q.addr detail | none => s

/-- The words of a line that a load asked for; the line enters the core's L1 or sampler cache (R105, R106).
[MARK DEDUCED log 30] -/
def loadAnswered (s : State) (q : PeerReq) (t g r : Nat) (keys : List (Nat × Nat)) (install : Bool) (bytes : List Byte) : State :=
  match teamOf s t, retOf s t g r with
  | some tm, some x =>
    let key := l1Key (whoOf tm) (lineOf q.addr)
    let s := if x.fetch then modCore s tm.core (fun k => { k with code := k.code.filter (fun e => (mget s.grids e.1.1).isSome) ++ [((tm.grid, tm.ctx, lineOf q.addr), bytes)] })
      else if !install then s
      else if x.sampler then samplerIn s (whoOf tm) (lineOf q.addr) bytes
      else modCore s tm.core (fun k => { k with l1 := cacheIn s 0 l1Lines k.l1 key bytes })
    modRet s t g r (fun x => keys.foldl (fun x k => putWord x k.1 (answerWord k.2 bytes)) { x with peers := x.peers.filter (fun p => p != q.id) })
  | _, _ => s

/-- A request answered without error. -/
def reqDone (s : State) (q : PeerReq) (bytes : List Byte) : State :=
  match q.who with
  | .load t g r keys install => loadAnswered s q t g r keys install bytes
  | .atomic t g _ ret keys => match ret with | some r => modRet s t g r (fun x => putOld x keys (BitVec.ofNat 64 (leNat bytes))) | none => s
  | .store _ _ _ _ => s
  | .copyRead id => match findCopy s id with | some (core, _) => modCopy s core id (fun c => { c with fetched := mput c.fetched (lineOf q.addr) bytes }) | none => s
  | .copyWrite _ => s
  | .copyTimeline _ _ => s
  | .delivery e d =>
    if s.peerReqs.any (fun x => x.who == .delivery e d) then s
    else match findEntry s e with | some x => globalDone s x d | none => s
  | .message _ tl => match tl with | some x => advanceTimeline s x.ctx x.index 1 x.pc | none => s
  | .slotWrite _ => s
  | .banks t => modTeam s t (fun tm => { tm with bankLines := mput tm.bankLines (lineOf q.addr) bytes })
  | .host id => modHostOp s id (fun o => if o.write then o else { o with fetched := mput o.fetched (lineOf q.addr) bytes })

/-- The bytes an answer brings: a line, an atomic's old value, or none. -/
def answerSize (q : PeerReq) (s : State) : List Nat :=
  match q.who with
  | .load _ _ _ _ _ => [128]
  | .copyRead _ => [128]
  | .banks _ => [128]
  | .host id => match findHostOp s id with | some o => if o.write then [0] else [128] | none => [0, 128]
  | .atomic _ _ _ ret _ => if ret.isSome then [4, 8] else [0]
  | _ => [0]

/-- May the answer be a data error of the owning device? Reads and atomics meet 8.1 and 8.2; a message may be dropped there. -/
def errorOk (q : PeerReq) : Bool :=
  match q.who with
  | .load _ _ _ _ _ => true
  | .copyRead _ => true
  | .banks _ => true
  | .host _ => true
  | .atomic _ _ _ _ _ => true
  | .message _ _ => true
  | .copyTimeline _ _ => true
  | _ => false

/-- R457's bound has passed, or no port is left in the device's mask; nothing else fails a request.
[MARKS DEDUCED log 31, DESIGN CHOICE log 32] -/
def overdue (s : State) (q : PeerReq) : Bool :=
  decide (q.since + Config.peerBound ≤ s.cycle.toNat) || !bitsSet (mgetD s.hops 0x3C000000 q.device).toNat 17 0

/-- PEER_RESPONSE: code 0 is success with the bytes asked for, 1 and 2 are 8.1 and 8.2, the latter with the lost-sector mask. An
answer to a request that has failed is discarded (R457). [MARK DEDUCED log 31] -/
def execPeerResponse (req : Nat) (bytes : List Byte) (code : Nat) (s : State) : Host.Outcome State Fault Refusal :=
  match s.peerReqs.find? (fun q => q.id == req) with
  | none => if req < s.nextId then .next s else .refused .eventNotEnabled
  | some q =>
    -- in the cycle in which the bound elapses the response wins (R471)
    if overdue s q && q.since + Config.peerBound != s.cycle.toNat then .refused .eventNotEnabled
    else if code = 0 then (if (answerSize q s).contains bytes.length then .next (reqDone (dropReq s req) q bytes) else .refused .eventNotEnabled)
    else if !errorOk q || 2 < code then .refused .eventNotEnabled
    else match q.who with
      | .message _ _ => .next (dropReq s req)
      | .copyTimeline _ _ => .next (dropReq s req)
      | _ => .next (reqFails (dropReq s req) q 8 code (if code = 2 then leNat (bytes.take 1) else 0))

/-- PEER_REQUEST_TIMEOUT: 9.1 for the consumer (R457), 9.4 for a replica's store (R460). [MARK DEDUCED log 31] -/
def execPeerRequestTimeout (req : Nat) (s : State) : Host.Outcome State Fault Refusal :=
  match s.peerReqs.find? (fun q => q.id == req) with
  | none => .refused .eventNotEnabled
  | some q => if overdue s q then .next (reqFails (dropReq s req) q 9 1 q.device) else .refused .eventNotEnabled

/-! ### UALink ports in and out of service (R347, R455, R456, R458, R459) -/

/-- A record to every running context (R455, R456). [MARK DEDUCED log 119] -/
def postRunning (s : State) (r : RecIn) : State :=
  ((s.ctxs.filter (fun e => e.2.phase == .running)).map Prod.fst).foldl (fun s c => postRecord s c r) s

/-- Requests outstanding on a port are sent again, in their order, by those that remain, hashed afresh (R344, R459).
[MARK DESIGN CHOICE log 134] -/
def replay (s : State) (p : Nat) : State :=
  (s.peerReqs.filter (fun q => q.port == some p)).foldl (fun s q =>
    let port := portOf s q.device q.addr
    { s with nextId := s.nextId + 1, ports := sendFlits s.ports port s.nextId (Config.flitsOf q.size)
             peerReqs := s.peerReqs.map (fun x => if x.id == q.id then { x with port := port } else x) }) s

/-- A port leaves every mask, its requests going to the ports that remain; a peer whose mask becomes empty is unreachable from now on,
with 9.3 (R459). [MARK DEDUCED log 120] -/
def clearPort (s : State) (p : Nat) : State :=
  let gone := s.hops.filter (fun e => e.2.getLsbD p)
  replay (gone.foldl (fun s e =>
    let w := e.2 &&& ~~~(BitVec.ofNat 32 (2 ^ p))
    let was := hopsOf s e.1
    if bitsSet w.toNat 17 0 then { s with hops := mput s.hops e.1 w }
    else
      let s := { s with hops := mput s.hops e.1 (w ||| 0x3C000000) }
      if was = 15 then s else postRunning s { cls := 9, code := 3, detail := some (BitVec.ofNat 32 e.1) }) s) p

/-- A port narrowed or out of service: 9.2, and out of every mask with no lane left. [MARK DEDUCED log 120] -/
def setPort (s : State) (p : Nat) (bad : BitVec 4) (width : Nat) : State :=
  let s := { s with ports := lmod s.ports p (fun x => { x with bad := bad, width := width, up := width != 0 }) }
  let s := postRunning s { cls := 9, code := 2, detail := some (BitVec.ofNat 32 (p * 2 ^ 16 + width)) }
  if width = 0 then clearPort s p else s

/-- A port whose key refresh failed, or on which 16 flits in a row failed authentication: 10.3, and out of service (R456).
[MARKS DESIGN CHOICE log 114, DEDUCED log 120] -/
def portUntrusted (s : State) (port : Nat) (x : Port) : State :=
  setPort (postRunning s { cls := 10, code := 3, detail := some (BitVec.ofNat 32 (port * 2 ^ 16)) }) port x.bad 0

/-! ### Requests of peers (R412) -/

/-- The answer to a peer's request about address `addr`. -/
def answerPeer (s : State) (device id addr : Nat) (ok : Bool) (bytes : List Byte) : State :=
  sendAnswer s device addr bytes.length (.peerAnswer device id ok bytes)

/-- The error a peer's access meets: its code, and the mask of lost sectors. -/
def peerError (s : State) (device id addr code : Nat) (m : W32) : State := answerPeer s device id addr false (bytesOf 1 code ++ bytesOf 1 m.toNat)

/-- [MARK DESIGN CHOICE log 33] -/
def kindOf (k : PeerMsg) : MsgKind :=
  match k with
  | .post => .post
  | .copy => .copy
  | .report => .residency
  | .launch _ _ => .launch

/-- A peer's atomic at its home segment: the old bytes, and the new value written; without a return it merges into a damaged line
(R407, R412). -/
def peerAtomic (s : State) (addr aop : Nat) (c d : W64) : List Byte × State :=
  let n := atomBytes aop
  let old := homeBytes s 64 addr n
  (old, homeWrite s 64 (pairsAt addr (bytesOf n (atomNew aop (BitVec.ofNat 64 (leNat old)) c d).toNat)))

/-- PEER_REQUEST: a peer's access completes under this device's rules, at the home segments (R412). Flits that fail authentication have
no effect and are replayed; 16 in a row take their port out of service (R456, R463).
[MARKS DEDUCED log 25, DESIGN CHOICE log 33, DEDUCED log 34, DESIGN CHOICE log 114] -/
def execPeerRequest (r : PeerRequestIn) (s : State) : Host.Outcome State Fault Refusal :=
  if s.boot.running = false ∨ s.boot.recovery then .refused .eventNotEnabled else
  match r with
  | .read device id addr n =>
    if 2 ^ 39 < addr + n ∨ n = 0 ∨ 128 < addr % 128 + n then .refused .eventNotEnabled
    else match dataError s addr n with
      | some (code, _, m) => .next (peerError s device id addr code m)
      | none => .next (answerPeer s device id addr true (homeBytes s 64 addr n))
  | .write device id addr bytes =>
    if 2 ^ 39 < addr + bytes.length ∨ bytes = [] ∨ 128 < addr % 128 + bytes.length then .refused .eventNotEnabled
    else .next (answerPeer (homeWrite s 64 (pairsAt addr bytes)) device id addr true [])
  | .atomic device id addr aop c d ret =>
    if 2 ^ 39 ≤ addr ∨ 16 < aop ∨ addr % atomBytes aop ≠ 0 then .refused .eventNotEnabled
    else match dataError s addr (atomBytes aop) with
      | some (1, _, m) => if ret then .next (peerError s device id addr 1 m) else .next (answerPeer (peerAtomic s addr aop c d).2 device id addr true [])
      | some (code, _, m) => .next (peerError s device id addr code m)
      | none =>
        let x := peerAtomic s addr aop c d
        .next (answerPeer x.2 device id addr true (if ret then x.1 else []))
  | .message device id c mb kind bytes =>
    if bytes = [] ∨ 256 < bytes.length ∨ 1024 ≤ mb ∨ 64 ≤ c then .refused .eventNotEnabled
    else
      let m := plainMsg s (kindOf kind) c mb bytes
      let reply := match kind with | .launch (some x) _ => some (device, c, x) | _ => none
      let priv := match kind with | .launch _ p => p | _ => true
      .next (sendLocal s { m with device := device, ack := some id, reply := reply, privSender := priv })
  | .timeline device id c tl =>
    if 4096 ≤ tl then .refused .eventNotEnabled
    else .next (answerPeer (advanceTimeline s c tl 1 0) device id 0 (ctxOf s c).isSome [])
  | .forged port flits =>
    match s.ports[port]? with
    | none => .refused .eventNotEnabled
    | some x =>
      if !x.up then .refused .eventNotEnabled
      else if flits < 16 then .next s
      else .next (portUntrusted s port x)

end Sys2Proof.Machine
end

