-- ==== Sys2Proof/Machine/Preempt.lean ====
section
/-! DEFINITION. Pre-emption and full stops (R437 to R454, R477): vacates, the saving of a team, the drain of a context, its resume. -/

namespace Sys2Proof.Machine

/-- An established SPDM session of running main firmware (R346, R465). -/
def sessionOn (s : State) (session : Nat) : Bool :=
  s.boot.running && !s.boot.recovery && s.eth.up && (match mget s.sessions session with | some x => x.stage == .established | none => false)

/-- A session's packet is a sign of life (R462). [MARK DESIGN CHOICE log 114] -/
def sessionLives (s : State) (session : Nat) : State := { s with sessions := mmod s.sessions session (fun x => { x with last := s.cycle.toNat, authFails := 0 }) }

def spdmAnswer (s : State) (session : Nat) (request : String) (ok : Bool) (data : List Nat) : State :=
  { s with outbox := s.outbox ++ [.spdm session request ok data] }

/-! ### Vacating cores (R437, R438) -/

/-- The n eligible cores with the fewest resident groups, the highest number among equals. -/
def emptiest (s : State) : (n : Nat) → List Nat → List Nat
  | 0, _ => []
  | n + 1, cs =>
    match cs.foldl (fun (b : Option Nat) c => match b with
        | some x => if groupsOn s c ≤ groupsOn s x then some c else b
        | none => some c) none with
    | none => []
    | some c => c :: emptiest s n (cs.filter (fun x => x != c))

/-- The cores that a vacate makes ineligible: neither vacated already nor of a disabled octet (R437). -/
def named (s : State) (mask : BitVec 256) (count : Nat) : List Nat :=
  let free := (List.range 256).filter (fun c => octetOn s c && !(coreOf s c).vacated)
  if mask = 0 then emptiest s count free else free.filter (fun c => mask.getLsbD c)

/-- A victim stops: its groups leave their waits, and its move begins (R438, R439). A team of a context that is being stopped is
saved by that stop (R454), and an aborting one is not saved. -/
def beginMove (s : State) (t : Nat) : State :=
  match teamOf s t with
  | none => s
  | some tm =>
    if ctxRuns s tm.ctx && (tm.phase == .running || tm.phase == .placed) then modTeam (leaveWaits s t) t (fun tm => { tm with phase := .moving }) else s

/-- VACATE_CORES (R437); its response waits for the named cores to be empty. [MARK DEDUCED log 109] -/
def execVacateCores (session : Nat) (mask : BitVec 256) (count : Nat) (s : State) : Host.Outcome State Fault Refusal :=
  if !sessionOn s session then .refused .eventNotEnabled
  else
    let s := sessionLives s session
    if mask = 0 ∧ (count = 0 ∨ 255 < count) then .next (spdmAnswer s session "VACATE_CORES" false [])
    else
      let new := named s mask count
      let cs := (List.range 256).filter (fun c => new.contains c || (mask.getLsbD c && (coreOf s c).vacated))
      let victims := (s.teams.filter (fun e => cs.contains e.2.core && e.2.resident && e.2.phase != .aborting)).map Prod.fst
      let s := new.foldl (fun s c => modCore s c (fun k => { k with vacated := true })) s
      let s := victims.foldl beginMove s
      let v : Vacate := { session := session, cores := BitVec.ofNat 256 (maskNat (fun c => cs.contains c) 256), moved := 0, teams := victims }
      .next { s with vacates := s.vacates ++ [v] }

/-- RESTORE_CORES (R437). -/
def execRestoreCores (session : Nat) (mask : BitVec 256) (s : State) : Host.Outcome State Fault Refusal :=
  if !sessionOn s session then .refused .eventNotEnabled
  else
    let s := sessionLives s session
    let s := ((List.range 256).filter (fun c => mask.getLsbD c && (coreOf s c).vacated)).foldl (fun s c => modCore s c (fun k => { k with vacated := false })) s
    .next (spdmAnswer s session "RESTORE_CORES" true [])

/-! ### Saving a team (R439 to R443, R477) -/

/-- A copy that a stop suspends: it waits on a block that is not filled (R442). -/
def suspended (s : State) (c : Copy) : Bool := match c.waitTouch with | some u => touchPending s c.ctx u | none => false

/-- Requests of the team to peers, for results or banks, still unanswered. -/
def teamAsks (s : State) (t : Nat) : Bool :=
  s.peerReqs.any (fun q => match q.who with
    | .load t' g r _ _ => t' == t && !(match retOf s t' g r with | some x => x.prefetch | none => false)
    | .store t' _ _ _ => t' == t
    | .atomic t' _ _ _ _ => t' == t
    | .copyTimeline t' _ => t' == t
    | .message _ tl => (match tl with | some x => x.team == t | none => false)
    | _ => false)

/-- Is a completion that of a team's copy? -/
def completes (t : Nat) (tl : Option Completion) : Bool := match tl with | some x => x.team == t | none => false

/-- A mailbox copy of the team whose message is not complete in its slot yet, or not acknowledged by the host (R233, R439): not one that
waits on a block, which is suspended (R442), nor, in a context that is being stopped, one held for a slot (R448, R454).
[MARK DEDUCED log 110] -/
def copyMessages (s : State) (t : Nat) (q : Ctx) : Bool :=
  s.msgs.any (fun m => completes t m.tl && !messageWaits s m) || (q.phase == .running && q.overflow.any (fun x => completes t x.2.tl)) ||
  q.outAcks.any (fun a => completes t a.tl)

/-- Steps 3 to 6 of R439 are complete: stores drained and acknowledged, results written, copies complete or suspended.
[MARK DEDUCED log 110] -/
def drained (s : State) (t : Nat) (tm : Team) : Bool :=
  tm.groups.all (fun gr => gr.queue == [] && gr.returns.all (fun r => r.prefetch) && !acquiredWaiting s tm.core gr.acqSeq) && !teamAsks s t &&
  !peerStores s tm.core 4 (fun _ _ n => tm.groups.any (fun gr => decide (n < gr.acqSeq))) &&
  (tm.phase != .moving || (match ctxOf s tm.ctx with | some q => !copyMessages s t q | none => true)) &&
  !pendingSet s tm.core (fun x => x.src == t) &&
  (coreOf s tm.core).copies.all (fun c => c.team != t || (suspended s c && !copyAsks s c.id && !copyAcks s c.id))

/-- What a slice is saved as: its program counter at its region entry, its barrier passages to be replayed (R441, R443). -/
def saveSlice (x : Slice) : Slice := { x with pc := x.rentry, replay := x.barPass }

/-- [MARK DEDUCED log 51] -/
def saveGroup (gr : Group) : Group :=
  { gr with slices := gr.slices.map saveSlice, gangs := gr.gangs.map (fun q => { q with wait := none }), returns := [], acqSeq := 0, acqs := [] }

/-- The touches of a requester are withdrawn (R442). -/
def withdrawOf (s : State) (who : Requester) : State :=
  let keep := fun (u : Touch) => u.req != who
  { s with touches := s.touches.filter keep
           ctxs := s.ctxs.map (fun e => (e.1, { e.2 with blocks := e.2.blocks.map (fun b => (b.1, { b.2 with queue := b.2.queue.filter keep })) })) }

/-- The messages of a team's mailbox copies that wait on a block are suspended with it (R442). [MARK DEDUCED log 110] -/
def suspendMessages (s : State) (t : Nat) : State :=
  let stops := fun (m : Msg) => completes t m.tl && messageWaits s m
  let s' := (s.msgs.filter stops).foldl (fun s m => withdrawOf s (.slot m.id)) s
  { s' with msgs := s'.msgs.map (fun m => if stops m then { m with waitTouch := none, held := true } else m) }

/-- Step 7 of R439: the state of R443 is kept, the core's resources are released; everything that came before on the old core is done,
so no place in its store order is kept. A GDONE that has not completed runs again; an abort that waited for the move begins.
[MARKS DEDUCED log 51, DEDUCED log 109] -/
def saveTeam (s : State) (t : Nat) (tm : Team) : State :=
  let copies := (coreOf s tm.core).copies.filter (fun c => c.team == t)
  let s := suspendMessages (copies.foldl (fun s c => withdrawOf s (.copy c.id)) s) t
  let s := dropReqs (released s tm.core (coreOf s tm.core).storeSeq) (.banks t)
  let s := modCore s tm.core (fun k => { k with copies := k.copies.filter (fun c => c.team != t) })
  let open_ := (ownBlock s tm).isSome
  let s := modTeam s t (fun tm =>
    { tm with phase := .saved, resident := false, groups := tm.groups.map saveGroup, bankTouch := none, bankLines := [], bad := [], bypass := 0, doom := none
              savedCopies := copies.map (fun c => { c with waitTouch := none, after := 0 }) ++ tm.savedCopies
              gen := tm.gen.map (fun g => { g with acted := g.acted && !open_ }) })
  let s := modCtx s tm.ctx (fun q => { q with outAcks := q.outAcks.map (fun a => if a.t = t then { a with seq := 0 } else a) })
  let vs := s.vacates.map (fun v => if v.teams.contains t && v.cores.getLsbD tm.core then { v with moved := v.moved + 1 } else v)
  let s := { s with saved := s.saved ++ [t], vacates := vs }
  tryStopped (match tm.doom with | some cause => abortTeam s t cause | none => s) tm.ctx

/-- TEAM_SAVE: a victim of a vacate, or a team of a context that saves, once it is drained; a team that has not started is saved at
once; one that meets R53 retires instead (R439, R447, R477). -/
def execTeamSave (t : Nat) (s : State) : Host.Outcome State Fault Refusal :=
  match teamOf s t with
  | none => .refused .eventNotEnabled
  | some tm =>
    let phase := match ctxOf s tm.ctx with | some q => q.phase | none => .running
    let mine := tm.phase == .moving || ((tm.phase == .running || tm.phase == .placed) && phase == .saving) || (tm.phase == .placed && phase == .draining)
    let retires := tm.started && tm.groups.all (fun gr => gr.retired) && teamSettled s t tm
    if mine && !retires && (!tm.started || drained s t tm) then .next (saveTeam s t tm) else .refused .eventNotEnabled

/-! ### Full stops (R446 to R451) -/

/-- A rendezvous delivery of the context could be made, or held, now. [MARK DEDUCED log 111] -/
def deliverable (s : State) (c : Nat) : Bool :=
  s.entries.any (fun e => e.ctx == c && e.dests.any (fun d => match execRendezvousDelivery e.id d.1 s with | .next _ => true | _ => false))

/-- Requests of the context's own groups and engines to peers; what others send into it is not part of the drain (R448).
[MARK DEDUCED log 111] -/
def ctxAsks (s : State) (c : Nat) : Bool :=
  s.peerReqs.any (fun q => q.ctx == c && (match q.who with | .host _ => false | .slotWrite _ => false | _ => true))

/-- Is a message that the context's own groups or copies have sent to a local mailbox on its way? One whose slot waits for a fill is at
its home segment (R386, R448). [MARK DEDUCED log 111] -/
def messagesOut (s : State) (c : Nat) : Bool :=
  s.msgs.any (fun m => m.ctx == c && m.ack.isNone && ([MsgKind.post, .copy, .launch] : List MsgKind).contains m.kind &&
    !messageWaits s m && !messageHeld s m)

/-- Every free-slot counter of a draining context stands at its capacity (R448). [MARK DEDUCED log 111] -/
def drainOver (s : State) (c : Nat) (q : Ctx) : Bool :=
  s.teams.all (fun e => e.2.ctx != c || (e.2.groups.all (fun gr => gr.queue == [] && gr.returns.all (fun r => r.prefetch)) && (coreOf s e.2.core).jobs.all (fun j => j.team != e.1))) &&
  s.cores.all (fun k => k.2.copies.all (fun x => x.ctx != c || suspended s x)) &&
  !messagesOut s c && s.sends.all (fun x => x.ctx != c) && !deliverable s c && !ctxAsks s c && q.outAcks == []

/-- CONTEXT_DRAIN_END: saving begins, and the context's cached translations are discarded (R446, R448, R450). -/
def execContextDrainEnd (c : Nat) (s : State) : Host.Outcome State Fault Refusal :=
  match ctxOf s c with
  | none => .refused .eventNotEnabled
  | some q =>
    if q.phase ≠ .draining ∨ drainOver s c q = false then .refused .eventNotEnabled
    else
      let s := { s with cores := s.cores.map (fun e => (e.1, { e.2 with tlb := e.2.tlb.filter (fun x => x.1.1 != c) })) }
      .next (tryStopped (modCtx s c (fun q => { q with phase := .saving })) c)

/-- HALTCTX of context c for a timeline: a running context begins to stop; on one stopped already the timeline advances, once the release
allows it (R302, R446). [MARK DEDUCED log 110] -/
def haltCtx (s : State) (c : Nat) (tl : HaltTl) : State :=
  match ctxOf s c with
  | none => s
  | some q =>
    match q.phase with
    | .stopped => owe s tl
    | .running => beginStop (modCtx s c (fun q => { q with haltTls := q.haltTls ++ [tl] })) c
    | _ => modCtx s c (fun q => { q with haltTls := q.haltTls ++ [tl] })

/-- HALTCTX.RES of context c (R451): timeouts go on with what remained of them, and the grids that wait in slots are launched in
order. No effect on a context that is not stopped, or was stopped by 8.3. -/
def resumeCtx (s : State) (c : Nat) : State :=
  match ctxOf s c with
  | none => s
  | some q =>
    if q.phase ≠ .stopped ∨ q.fatal = true then s
    else
      let d := s.cycle.toNat - q.stoppedAt
      let s := modCtx s c (fun q => { q with
        phase := .running, waiting := []
        tags := q.tags.map (fun e => (e.1, { e.2 with since := e.2.since + (s.l2cycle - q.stoppedL2) })), tracked := q.tracked.map (fun x => { x with since := x.since + d }) })
      q.waiting.foldl (fun s w => launchSlot s c w.1 w.2.1 w.2.2.slotAddr w.2.2) s

end Sys2Proof.Machine
end

