-- ==== Sys2Proof/Machine/Supervisor.lean ====
section
/-! DEFINITION. The supervisor instructions and TAGPOOL (R293 to R306, R371): system registers, the return from the context handler,
leaves and translations, the allotment, stopping contexts, mailboxes, procedural ranges and the tag pool. -/

namespace Sys2Proof.Machine

/-! ### System registers (R294, R297) -/

/-- The literal that source A is. -/
def litA (iss : Iss) : Nat := match iss.o.a with | .lit n => (litVal iss.o .i32 n).toNat | _ => 0

/-- The value of a readable system register; none for the write-only ones (R294). -/
def sysRead (q : Ctx) (n : Nat) : Option W64 :=
  match n with
  | 0 => some q.xlroot
  | 1 => some q.cmptab
  | 2 => some q.rsetbase
  | 3 => some q.dlvbase
  | 4 => some q.hentry
  | 5 => some (q.errmb.setWidth 64)
  | 6 => some q.tagbase
  | 7 => some (q.tagcount.setWidth 64)
  | 8 => some q.annexbase
  | 9 => some (q.annexsize.setWidth 64)
  | 10 => some q.lostbase
  | 11 => some (q.lostsize.setWidth 64)
  | 14 => some (BitVec.ofNat 64 q.allot0.length)
  | 15 => some (BitVec.ofNat 64 q.allot1.length)
  | _ => none

/-- SYSRD: 0.18 for a write-only register. -/
def execSysrd (o : Operands) (s : State) : Host.Outcome State Fault Refusal :=
  issued (.sysrd o) o s (fun iss s =>
    match (ctxOf s iss.tm.ctx).bind (fun q => sysRead q (litA iss)) with
    | some v => .ok (.adv (modGroup s iss.t iss.g (fun gr => issueWrite64 iss gr (dstNum o.dst) v)))
    | none => .error (flt0 iss 18, s))

/-- The frames of local HBM that hold n bytes from an address become a context's; the package's own window is local HBM (R89, R109). -/
def ownRange (s : State) (c a n : Nat) : State :=
  let a := localise s a
  if 2 ^ 39 < a + n then s else (List.range ((a % 65536 + n + 65535) / 65536)).foldl (fun s i => own s c (a / 65536 * 65536 + 65536 * i)) s

/-- A writable system register without a row of its own written; none for the read-only ones. -/
def sysWrite (s : State) (c n : Nat) (v : W64) : Option State :=
  match n with
  | 0 => some (ownRange (modCtx s c (fun q => { q with xlroot := v })) c v.toNat 16384)
  | 1 => some (modCtx s c (fun q => { q with cmptab := v }))
  | 2 => some (ownRange (modCtx s c (fun q => { q with rsetbase := v })) c v.toNat 8192)
  | 3 => some (modCtx s c (fun q => { q with dlvbase := v }))
  | 5 => some (modCtx s c (fun q => { q with errmb := Word.lo v }))
  | _ => none

/-- SYSWR of xlroot, cmptab, rsetbase, dlvbase or errmb; 0.18 for a read-only register. -/
def execSyswr (o : Operands) (s : State) : Host.Outcome State Fault Refusal :=
  issued (.syswr o) o s (fun iss s =>
    match sysWrite s iss.tm.ctx (litA iss) (scal64 s iss iss.k o.b) with
    | some s => .ok (.adv s)
    | none => .error (flt0 iss 18, s))

/-- SYSWR to apush0 or apush1: the frame is 64 KiB aligned and lies in the named die's HBM, else 0.18 (R300). A part holds at most
4,194,304 frames. [MARK DESIGN CHOICE log 104] -/
def execApush (o : Operands) (s : State) : Host.Outcome State Fault Refusal :=
  issued (.apush o) o s (fun iss s =>
    let f := localise s (scal64 s iss iss.k o.b).toNat
    let die := litA iss - 12
    let c := iss.tm.ctx
    if f % 65536 ≠ 0 ∨ 2 ^ 39 ≤ f ∨ frameDie f ≠ die then .error (flt0 iss 18, s)
    else .ok (.adv (pushFrame s c f)))

/-- SYSWR to hentry: an image that fails a signature changes nothing and posts 10.1 (R294, R464); 0 names no image. An image loaded is
measured (R345). [MARKS DESIGN CHOICE log 50, DESIGN CHOICE log 122] -/
def execHentryWrite (o : Operands) (s : State) : Host.Outcome State Fault Refusal :=
  issued (.hentryWrite o) o s (fun iss s =>
    let v := scal64 s iss iss.k o.b
    let c := iss.tm.ctx
    let bad := if v = 0 then 0 else Config.imageFails c s.cycle.toNat v
    if bad = 0 then .ok (.adv (modCtx s c (fun q => { q with hentry := v, images := if v = 0 then q.images else q.images ++ [Config.sha384 (Config.handlerImage c s.cycle.toNat v)] })))
    else .ok (.adv (postRecord s c { cls := 10, code := 1, detail := some (bad.setWidth 32) })))

/-! ### The return from the handler (R301, R398) -/

/-- The handler's own results still on their way are dropped with the shadow set. [MARK DEDUCED log 49] -/
def dropShadow (gr : Group) : Group := { gr with returns := gr.returns.filter (fun r => !r.shadow) }

/-- A group in its handler, or 0.18. -/
def inHandler (i : Instr) (o : Operands) (s : State) (f : Iss → Handler → State → Res) : Host.Outcome State Fault Refusal :=
  issued i o s (fun iss s =>
    if !shadowed iss.gr iss.k then .error (flt0 iss 18, s)
    else match iss.gr.handler with
      | some h => f iss h s
      | none => .error (flt0 iss 18, s))

/-- TRET (R301, R359). [MARK DEDUCED log 49] -/
def execTret (o : Operands) (s : State) : Host.Outcome State Fault Refusal :=
  inHandler (.tret o) o s (fun iss h s => .ok (.stay (modGroup s iss.t iss.g (fun gr => leaveHandler s.cycle.toNat (dropShadow gr) h))))

/-- The members that entered the handler. -/
def handlerMembers (h : Handler) : BitVec 8 := BitVec.ofNat 8 (maskNat (fun i => h.saved.any (fun x => x.slice == i)) 8)

/-- TRET.OFF: the faulting lanes are switched off first; after an issue-kind fault the group stops with that fault (R301, R361,
R398). -/
def execTretOff (o : Operands) (s : State) : Host.Outcome State Fault Refusal :=
  inHandler (.tretOff o) o s (fun iss h s =>
    if h.issueKind then
      .ok (.stay (faultTeam s iss.t iss.g { cls := 3, code := h.code, mask := h.mask, addr := h.addr, detail := some (h.detail ||| 0x80000000), pc := h.pc, rentry := (match h.saved with | x :: _ => x.rentry | [] => 0), members := handlerMembers h }))
    else
      .ok (.stay (modGroup s iss.t iss.g (fun gr =>
        let gr := dropShadow gr
        leaveHandler s.cycle.toNat { gr with fmask := gr.fmask ||| h.mask, firstOff := gr.firstOff.or (some (h.code + 2 ^ 30, h.pc, h.addr)) } h))))

/-! ### Leaves (R298) -/

/-- The leaf of source A's address: 0.18 where its tables are missing or it is procedural. -/
def withLeaf (i : Instr) (o : Operands) (s : State) (f : Iss → Nat → Nat → State → Res) : Host.Outcome State Fault Refusal :=
  issued i o s (fun iss s =>
    let va := (scal64 s iss iss.k o.a).toNat % 2 ^ 57
    match leafAddr s iss.tm.ctx va with
    | none => .error (flt0 iss 18, s)
    | some a =>
      let e := home64 s iss.tm.ctx a
      if isProc e then .error (flt0 iss 18, s) else f iss va e s)

def withScc (s : State) (iss : Iss) (v : Bool) : State := modGroup s iss.t iss.g (fun gr => setScc gr iss.q.members (fun _ => v))

/-- The leaf PMAP writes: frame fr[51:16], v, leaf, and the attributes. -/
def mappedLeaf (fr at_ : Nat) : Nat :=
  3 + Word.field at_ 5 3 * 2 ^ 3 + Word.field fr 51 16 * 2 ^ 16 + Word.field at_ 18 18 * 2 ^ 54 + Word.field at_ 17 16 * 2 ^ 55 + Word.field at_ 19 19 * 2 ^ 57 + Word.field at_ 25 20 * 2 ^ 58

/-- PMAP: an invalid leaf is mapped, a valid one left; a release at .PKG (R298). -/
def execPmap (o : Operands) (s : State) : Host.Outcome State Fault Refusal :=
  withLeaf (.pmap o) o s (fun iss va e s =>
    if !storesReached s iss.t iss.g 3 then .ok (.wait .retry s)
    else
      let s := releaseNow s iss.t iss.g 3
      if Word.bit e 0 then .ok (.adv (withScc s iss false))
      else
      let fr := (scal64 s iss iss.k o.b).toNat
      let c := iss.tm.ctx
      let s := setLeaf s c va (mappedLeaf fr (scal32 s iss iss.k o.c).toNat)
      let f := localise s (Word.field fr 51 16 * 2 ^ 16)
      .ok (.adv (withScc (if f < 2 ^ 39 then own s c f else s) iss true)))

/-! ### Invalidation (R299) -/

/-- The pages an invalidation covers: all of a context, or n consecutive ones from a page, wrapping with the address. -/
inductive Pages where
  | all
  | from (page n : Nat)
  deriving DecidableEq, Repr

/-- Do the pages meet the `len` consecutive pages from `lo`? -/
def meets (ps : Pages) (lo len : Nat) : Bool :=
  match ps with
  | .all => true
  | .from page n => n != 0 && decide ((page + 2 ^ 41 - lo) % 2 ^ 41 < len ∨ (lo + 2 ^ 41 - page) % 2 ^ 41 < n)

/-- Does a cached entry of a level cover one of the pages (R90, R299)? [MARK DEDUCED log 22] -/
def coversPage (ps : Pages) (lv x : Nat) : Bool := if lv ≤ 3 then meets ps (x * 2 ^ (11 * lv)) (2 ^ (11 * lv)) else meets ps x 1

/-- Every core discards its cached table entries, translations and replica-set entries of a context for the covered pages, and what its L1
holds of the context, tables among it (R105, R119, R295, R299). [MARKS DEDUCED log 21, DEDUCED log 103] -/
def dropTlb (s : State) (c : Nat) (ps : Pages) : State :=
  { s with cores := s.cores.map (fun (e : Nat × Core) => (e.1, { e.2 with
      tlb := e.2.tlb.filter (fun x => !(x.1.1 == c && coversPage ps x.1.2.1 x.1.2.2)), l1 := otherLines c e.2.l1 })) }

/-- Accesses of a context, already translated, that have not been performed: stores and atomics in queues to those pages, and every
access on its way to a peer. [MARK DEDUCED log 103] -/
def inFlight (s : State) (c : Nat) (ps : Pages) : Bool :=
  s.teams.any (fun e => e.2.ctx == c && e.2.groups.any (fun gr =>
    gr.queue.any (fun x => meets ps (x.va / 65536) 1) || gr.returns.any (fun r => !performed r))) ||
  s.peerReqs.any (fun q => q.ctx == c && (match q.who with | .message _ _ => false | .copyTimeline _ _ => false | _ => true))

/-- TLBINV of some pages: the group's stores at .PKG, then the discard, then every access through a discarded entry performed.
[MARK DEDUCED log 103] -/
def tlbinvOp (i : Instr) (o : Operands) (s : State) (p : Iss → Pages) : Host.Outcome State Fault Refusal :=
  issued i o s (fun iss s =>
    if !storesReached s iss.t iss.g 3 then .ok (.wait .retry s)
    else
      let s := dropTlb s iss.tm.ctx (p iss)
      if inFlight s iss.tm.ctx (p iss) then .ok (.wait .retry s) else .ok (.adv s))

/-- The page of source A's address. -/
def pageA (s : State) (iss : Iss) : Nat := (scal64 s iss iss.k iss.o.a).toNat % 2 ^ 57 / 65536

/-- TLBINV.ALL. -/
def execTlbinvAll (o : Operands) (s : State) : Host.Outcome State Fault Refusal := tlbinvOp (.tlbinvAll o) o s (fun _ => .all)
/-- TLBINV.PAGE va. -/
def execTlbinvPage (o : Operands) (s : State) : Host.Outcome State Fault Refusal := tlbinvOp (.tlbinvPage o) o s (fun iss => .from (pageA s iss) 1)
/-- TLBINV.RANGE va, n: n consecutive pages, wrapping with the address. -/
def execTlbinvRange (o : Operands) (s : State) : Host.Outcome State Fault Refusal :=
  tlbinvOp (.tlbinvRange o) o s (fun iss => .from (pageA s iss) (scal32 s iss iss.k o.c).toNat)

/-- PUNMAP: 0 to the leaf, the page invalidated as TLBINV.PAGE does, a release at .PKG; `ret` pushes its local frame onto the allotment (R298).
[MARK DEDUCED log 103] -/
def unmap (i : Instr) (o : Operands) (s : State) (ret : Bool) : Host.Outcome State Fault Refusal :=
  withLeaf i o s (fun iss va e s =>
    let c := iss.tm.ctx
    let page := Pages.from (va / 65536) 1
    if !storesReached s iss.t iss.g 3 || inFlight s c page then .ok (.wait .retry s)
    else
      let s := dropTlb (setLeaf (releaseNow s iss.t iss.g 3) c va 0) c page
      let f := localise s (Word.field e 51 16 * 2 ^ 16)
      .ok (.adv (withScc (if ret && Word.bit e 0 && decide (f < 2 ^ 39) then pushFrame s c f else s) iss (Word.bit e 0))))

/-- PUNMAP (R298). -/
def execPunmap (o : Operands) (s : State) : Host.Outcome State Fault Refusal := unmap (.punmap o) o s false
/-- PUNMAP.RET (R298). -/
def execPunmapRet (o : Operands) (s : State) : Host.Outcome State Fault Refusal := unmap (.punmapRet o) o s true

/-! ### The allotment (R300) -/

/-- POOLGET: die 0, die 1, or the core's own die and then the other; a repeat in the same region returns the same frame. -/
def execPoolget (o : Operands) (s : State) : Host.Outcome State Fault Refusal :=
  issued (.poolget o) o s (fun iss s =>
    let n := litA iss
    let give := fun (s : State) (v : W64) (ok : Bool) => modGroup s iss.t iss.g (fun gr => issueWrite64 iss (setScc gr iss.q.members (fun _ => ok)) (dstNum o.dst) v)
    if 2 < n then .error (flt0 iss 13, s)
    else match again iss with
      | some v => .ok (.adv (give s v true))
      | none =>
        match (if n = 2 then popFrame s iss.tm.ctx (dieOf iss.tm.core) else popPart s iss.tm.ctx n) with
        | some (f, s) => .ok (.adv (remember (give s (BitVec.ofNat 64 f) true) iss (BitVec.ofNat 64 f)))
        | none => .ok (.adv (give s 0 false)))

/-! ### Stopping contexts (R302) -/

/-- HALTCTX ctx, tl: not the issuing context, and a created one (0.18). The gang does not wait. -/
def execHaltctx (o : Operands) (s : State) : Host.Outcome State Fault Refusal :=
  issued (.haltctx o) o s (fun iss s =>
    let c := (scal32 s iss iss.k o.a).toNat
    let tl := (scal32 s iss iss.k o.b).toNat
    if 63 < c ∨ 4095 < tl then .error (flt0 iss 13, s)
    else if c = iss.tm.ctx ∨ (ctxOf s c).isNone then .error (flt0 iss 18, s)
    else .ok (.adv (haltCtx s c { ctx := iss.tm.ctx, index := tl, core := iss.tm.core, place := iss.gr.acqSeq })))

/-- HALTCTX.RES ctx (R302, R451). -/
def execHaltctxRes (o : Operands) (s : State) : Host.Outcome State Fault Refusal :=
  issued (.haltctxRes o) o s (fun iss s =>
    let c := (scal32 s iss iss.k o.a).toNat
    if 63 < c then .error (flt0 iss 13, s)
    else if (ctxOf s c).isNone then .error (flt0 iss 18, s)
    else .ok (.adv (resumeCtx s c)))

/-! ### Mailboxes (R303) -/

/-- A number in a block read from scratchpad. -/
def blockNum (bs : List Byte) (a n : Nat) : Nat := leNat ((bs.drop a).take n)

/-- Held messages of a mailbox that no longer exists are dropped with 7.8 (R384). -/
def dropHeld (s : State) (c mb : Nat) : State :=
  match ctxOf s c with
  | none => s
  | some q =>
    let held := (q.overflow.filter (fun x => x.2.mb == mb)).map Prod.snd
    let s := modCtx s c (fun q => { q with overflow := q.overflow.filter (fun x => x.2.mb != mb) })
    held.foldl (fun s m => dropUnslotted s m 8) s

/-- MBREG: the registration replaces an earlier one; n = 0 withdraws it. Slots keep their states. [MARK DEDUCED log 98] -/
def execMbreg (o : Operands) (s : State) : Host.Outcome State Fault Refusal :=
  issued (.mbreg o) o s (fun iss s =>
    let mb := (scal32 s iss iss.k o.a).toNat
    let n := (scal32 s iss iss.k o.c).toNat
    let c := iss.tm.ctx
    if 1023 < mb ∨ 64 < n then .error (flt0 iss 13, s)
    else issueBytes s iss (scal32 s iss iss.k o.b).toNat 80 16 (fun bs =>
      let slots := match (ctxOf s c).bind (fun q => mget q.mailboxes mb) with | some m => m.slots | none => []
      let m : Mailbox := { n := n, base := BitVec.ofNat 64 (blockNum bs 64 8), packet := pkWithCtx (bs.take 64) c, priv := n != 0 && Word.bit (blockNum bs 72 4) 0, slots := slots }
      let s := modCtx s c (fun q => { q with mailboxes := mput q.mailboxes mb m })
      .ok (.adv (if n = 0 then dropHeld s c mb else s))))

/-! ### Procedural ranges (R287, R304) -/

/-- The range a descriptor of a context declares; its packet holds the context's number (R287, R314). -/
def rangeOfBlock (c : Nat) (bs : List Byte) : Range :=
  let d := blockNum bs 88 4
  let f := blockNum bs 96 4
  { base := blockNum bs 64 8, len := blockNum bs 72 8, packet := pkWithCtx (bs.take 64) c, param := BitVec.ofNat 64 (blockNum bs 80 8), limit := Word.field d 2 0,
    retry := Word.field d 11 8, budget := blockNum bs 92 4, tl := if Word.bit f 12 then some (Word.field f 11 0) else none,
    perms := BitVec.ofNat 3 (Word.field d 18 16), acls := BitVec.ofNat 2 (Word.field d 21 20), deleting := false }

/-- The descriptor's fields are well-formed: reserved bits 0, the recursion limit 1 to 4, base and length multiples of 64 KiB within
the address space. -/
def descriptorOk (bs : List Byte) : Bool :=
  let d := blockNum bs 88 4
  let r := rangeOfBlock 0 bs
  !bitsSet d 31 22 && !bitsSet d 19 19 && !bitsSet d 15 12 && !bitsSet d 7 3 && !bitsSet (blockNum bs 96 4) 31 13 && blockNum bs 100 28 == 0 &&
  decide (1 ≤ r.limit ∧ r.limit ≤ 4) && r.base % 65536 == 0 && r.len % 65536 == 0 && r.len != 0 && decide (r.base + r.len ≤ 2 ^ 57)

/-- Blocks of a range, by page. -/
def blocksIn (r : Range) : List Nat := (List.range (r.len / 65536)).map (fun i => r.base / 65536 + i)

/-- The leaf of an unfilled block (R112, R304). -/
def procLeaf (r : Range) : Nat := 0x43 + r.perms.toNat * 2 ^ 3 + r.acls.toNat * 2 ^ 55

/-- PRDECL g, p: the whole request is tested, then every leaf written; a release at .PKG (R304). -/
def execPrdecl (o : Operands) (s : State) : Host.Outcome State Fault Refusal :=
  issued (.prdecl o) o s (fun iss s =>
    let g := (scal32 s iss iss.k o.a).toNat
    let c := iss.tm.ctx
    if 255 < g then .error (flt0 iss 13, s)
    else if ((ctxOf s c).bind (fun q => mget q.catalogue g)).isSome then .error (flt0 iss 18, s)
    else issueBytes s iss (scal32 s iss iss.k o.b).toNat 128 16 (fun bs =>
      match ctxOf s c with
      | none => .ok (.adv s)
      | some q =>
        let r := rangeOfBlock c bs
        let overlaps := q.catalogue.any (fun e => decide (e.2.base < r.base + r.len ∧ r.base < e.2.base + e.2.len))
        let missing := (blocksIn r).any (fun b => (leafAddr s c (65536 * b)).isNone)
        if !descriptorOk bs || overlaps || missing then .error (flt0 iss 18, s)
        else if !storesReached s iss.t iss.g 3 then .ok (.wait .retry s)
        else
          let s := (blocksIn r).foldl (fun s b => setLeaf s c (65536 * b) (procLeaf r)) (releaseNow s iss.t iss.g 3)
          .ok (.adv (modCtx s c (fun q => { q with catalogue := mput q.catalogue g r })))))

/-- A requester that waited for a block's fill has still to make its access again. [MARK DEDUCED log 96] -/
def redoes (s : State) (u : Touch) : Bool :=
  match u.req with
  | .gang t g _ => (match groupOf s t g with
    | some gr => gr.gangs.any (fun q => match q.wait with | some w => w.kind == .fill u.block u.id || w.kind == .refill u.block u.id | none => false)
    | none => false)
  | .copy id => s.cores.any (fun e => e.2.copies.any (fun c => c.id == id && c.waitTouch == some u.id))
  | .delivery e d => s.entries.any (fun x => x.id == e && x.waitTouch.contains (d, u.id))
  | .host op => s.hostOps.any (fun o => o.id == op && o.waitTouch == some u.id)
  | .slot m => s.msgs.any (fun x => x.id == m && x.waitTouch == some u.id)
  | .job _ _ => false
  | .banks t => (match teamOf s t with | some tm => tm.bankTouch == some u.id | none => false)

/-- Once no block of a range is filling, each filled block is evicted when it is not pinned and the touches that joined its fill have
been made again: they find the block they joined (R304). [MARK DEDUCED log 96] -/
def evictRange (s : State) (c g : Nat) : State :=
  match ctxOf s c with
  | none => s
  | some q =>
    if (rangeBlocks q g).any (fun b => !b.2.filled) then s
    else (rangeBlocks q g).foldl (fun s b => if b.2.filled && !pinned s c b.1 && !b.2.queue.any (redoes s) then evict s c b.1 else s) s

/-- PRDECL.DEL g: no fill starts from its issue; once no block is filling or filled, the leaves are cleared, the entry is free, and
the touches that wait on the range are charged 4.1 (R304, R435). [MARK DEDUCED log 96] -/
def execPrdeclDel (o : Operands) (s : State) : Host.Outcome State Fault Refusal :=
  issued (.prdeclDel o) o s (fun iss s =>
    let g := (scal32 s iss iss.k o.a).toNat
    let c := iss.tm.ctx
    if 255 < g then .error (flt0 iss 13, s)
    else match (ctxOf s c).bind (fun q => mget q.catalogue g) with
      | none => .error (flt0 iss 18, s)
      | some r =>
        let s := evictRange (modCtx s c (fun q => { q with catalogue := mmod q.catalogue g (fun r => { r with deleting := true }) })) c g
        if (match ctxOf s c with | some q => rangeBlocks q g != [] | none => false) then .ok (.wait .retry s)
        else
          let s := (blocksIn r).foldl (fun s b => setLeaf s c (65536 * b) 0) s
          let s := modCtx s c (fun q => { q with catalogue := mdel q.catalogue g })
          let waiting := s.touches.filter (fun u => u.ctx == c && decide (r.base ≤ 65536 * u.block ∧ 65536 * u.block < r.base + r.len))
          let s := { s with touches := s.touches.filter (fun u => !waiting.contains u) }
          .ok (.adv (chargeTouches s waiting 1 g)))

/-! ### The tag pool (R305) -/

/-- A tag of the context is allocated. -/
def tagsInUse (s : State) (c : Nat) : Bool := (List.range (tagCount s c)).any (fun i => recAlloc (tagWord s c i 0))

/-- TAGPOOL: 0.18 with tags allocated or for a malformed block; the records and the control block's counts are zeroed.
[MARK DEDUCED log 88] -/
def execTagpool (o : Operands) (s : State) : Host.Outcome State Fault Refusal :=
  issued (.tagpool o) o s (fun iss s =>
    let c := iss.tm.ctx
    if tagsInUse s c then .error (flt0 iss 18, s)
    else issueBytes s iss (scal32 s iss iss.k o.a).toNat 32 32 (fun bs =>
      let tagbase := blockNum bs 0 8
      let annex := blockNum bs 8 8
      let lost := blockNum bs 16 8
      let count := blockNum bs 24 4
      let sizes := blockNum bs 28 4
      let annexsize := 65536 * (if sizes % 65536 = 0 then 16 else sizes % 65536)
      let lostsize := 65536 * (if sizes / 65536 = 0 then 1 else sizes / 65536)
      if count = 0 ∨ 16777215 < count ∨ tagbase % 4096 ≠ 0 ∨ annex % 65536 ≠ 0 ∨ lost % 65536 ≠ 0 then .error (flt0 iss 18, s)
      else
        let s := ownRange (ownRange (ownRange s c tagbase (32 * count)) c annex annexsize) c lost lostsize
        let s := modCtx s c (fun q => { q with
          tagbase := BitVec.ofNat 64 tagbase, tagcount := BitVec.ofNat 32 count, annexbase := BitVec.ofNat 64 annex, annexsize := BitVec.ofNat 32 annexsize,
          lostbase := BitVec.ofNat 64 lost, lostsize := BitVec.ofNat 32 lostsize, defaultTmo := scal32 s iss iss.k o.b,
          lostMb := if o.form = .f96c then scal32 s iss iss.k o.c else 0xFFFFFFFF, tags := [] })
        let s := (List.range count).foldl (fun s i => homeWrite s c (pairsAt (tagbase + 32 * i) (bytesOf 32 0))) s
        .ok (.adv (homeWrite s c (pairsAt lost (bytesOf 8 0))))))

end Sys2Proof.Machine
end

