-- ==== Sys2Proof/Machine/Firmware.lean ====
section
/-! DEFINITION. Device firmware and what surrounds the package (R343 to R350, R410, R411, R452, R455 to R471): SPDM sessions and their
requests, contexts created and destroyed, start-up, the Ethernet port, UALink ports and paths, the die bridge, power. -/

namespace Sys2Proof.Machine

/-! ### SPDM sessions (R346, R462) -/

def stageOf (s : State) (session : Nat) : Option SessionStage := (mget s.sessions session).map (fun x => x.stage)
def setStage (s : State) (session : Nat) (st : SessionStage) : State :=
  { s with sessions := mput s.sessions session { stage := st, keys := 0, last := s.cycle.toNat, authFails := 0 } }

/-- A request of the handshake: answered in one of the stages given, and the session moves to the next. Any request of an established
session is a sign of life (R462). [MARK PRESUMED log 112] -/
def handshake (s : State) (session : Nat) (name : String) (from_ : List (Option SessionStage)) (dest : Option SessionStage) (data : List Nat) : Host.Outcome State Fault Refusal :=
  if !spdmUp s then .refused .eventNotEnabled
  else if !from_.contains (stageOf s session) then .next (spdmAnswer (if stageOf s session = some .established then sessionLives s session else s) session name false [])
  else
    let s := match dest with | some st => setStage s session st | none => sessionLives s session
    .next (spdmAnswer s session name true data)

/-- The stages after negotiation. -/
def negotiatedOn : List (Option SessionStage) := [some .negotiated, some .exchanging, some .established]

/-- GET_VERSION begins a connection. -/
def execGetVersion (session : Nat) (s : State) : Host.Outcome State Fault Refusal :=
  handshake s session "GET_VERSION" [none, some .version, some .capabilities, some .negotiated, some .exchanging] (some .version) [0x13]
def execGetCapabilities (session : Nat) (s : State) : Host.Outcome State Fault Refusal :=
  handshake s session "GET_CAPABILITIES" [some .version] (some .capabilities) []
def execNegotiateAlgorithms (session : Nat) (s : State) : Host.Outcome State Fault Refusal :=
  handshake s session "NEGOTIATE_ALGORITHMS" [some .capabilities] (some .negotiated) []
/-- The digests of the certificate chains of the two identity keys (R345). [MARKS PRESUMED log 112, DESIGN CHOICE log 135] -/
def certDigests : List Nat := [0, 1].map (fun k => (Config.sha384 (Config.certificates k)).toNat)

def execGetDigests (session : Nat) (s : State) : Host.Outcome State Fault Refusal :=
  handshake s session "GET_DIGESTS" negotiatedOn none certDigests
/-- GET_CERTIFICATE: the two chains, each after its length. -/
def execGetCertificate (session : Nat) (s : State) : Host.Outcome State Fault Refusal :=
  handshake s session "GET_CERTIFICATE" negotiatedOn none
    ([0, 1].flatMap (fun k => (Config.certificates k).length :: (Config.certificates k).map (fun b => b.toNat)))

/-- The bytes of the boot record. -/
def bootBytes (b : Boot) : List Byte := b.entries.flatMap (fun e => bytesOf 2 e.toNat)

/-- The firmware stages in the order they ran: stage 1, then the main firmware or the recovery image (R349, R469).
[MARK DESIGN CHOICE log 122] -/
def firmwareStages (b : Boot) : List (List Byte) := [Config.bootImage 1, if b.recovery then Config.bootImage 2 else b.image]

/-- The measurements of a report: a mark of the recovery image (R469), SHA-384 of the boot ROM, of each firmware stage, of every loaded
handler image and of the boot record, and the record itself (R345, R349). [MARK DESIGN CHOICE log 122] -/
def measurements (s : State) : List Nat :=
  (if s.boot.recovery then 1 else 0) :: (Config.bootImage 0 :: firmwareStages s.boot).map (fun bs => (Config.sha384 bs).toNat) ++
  (s.ctxs.flatMap (fun e => e.2.images)).map (fun d => d.toNat) ++
  [(Config.sha384 (bootBytes s.boot)).toNat] ++ s.boot.entries.map (fun e => e.toNat)

/-- An attestation report: the measurements with a signature of each kind (R345).
[MARKS PRESUMED log 112, DESIGN CHOICE log 135] -/
def report (s : State) : List Nat := measurements s ++ [0, 1].map (fun k => Config.signature k (measurements s))

def execChallenge (session : Nat) (s : State) : Host.Outcome State Fault Refusal :=
  handshake s session "CHALLENGE" negotiatedOn none (report s)
def execGetMeasurements (session : Nat) (s : State) : Host.Outcome State Fault Refusal :=
  handshake s session "GET_MEASUREMENTS" negotiatedOn none (report s)
/-- KEY_EXCHANGE offers a heartbeat period of 10 (R462). -/
def execKeyExchange (session : Nat) (s : State) : Host.Outcome State Fault Refusal :=
  handshake s session "KEY_EXCHANGE" [some .negotiated] (some .exchanging) [10]

/-- Fresh session keys. -/
def newKeys (s : State) (session : Nat) : State :=
  { s with nextId := s.nextId + 1, sessions := mmod s.sessions session (fun x => { x with keys := s.nextId + 1, last := s.cycle.toNat, authFails := 0 }) }

def execFinish (session : Nat) (s : State) : Host.Outcome State Fault Refusal :=
  if spdmUp s && stageOf s session == some .exchanging then .next (spdmAnswer (newKeys (setStage s session .established) session) session "FINISH" true [])
  else handshake s session "FINISH" [] none []
def execKeyUpdate (session : Nat) (s : State) : Host.Outcome State Fault Refusal :=
  if spdmUp s && stageOf s session == some .established then .next (spdmAnswer (newKeys s session) session "KEY_UPDATE" true [])
  else handshake s session "KEY_UPDATE" [] none []
/-- HEARTBEAT: a sign of life (R462). -/
def execHeartbeat (session : Nat) (s : State) : Host.Outcome State Fault Refusal :=
  handshake s session "HEARTBEAT" [some .established] none []

/-- [MARK DEDUCED log 113] -/
def execEndSession (session : Nat) (s : State) : Host.Outcome State Fault Refusal :=
  if spdmUp s && stageOf s session == some .established then .next (endHostSession (spdmAnswer s session "END_SESSION" true []) session false)
  else handshake s session "END_SESSION" [] none []

/-- SESSION_HEARTBEAT_EXPIRY: 20 s without a sign of life, or 1,024 packets in a row that failed authentication (R456, R462).
[MARK DESIGN CHOICE log 114] -/
def execSessionHeartbeatExpiry (session : Nat) (s : State) : Host.Outcome State Fault Refusal :=
  match mget s.sessions session with
  | some x =>
    let auth := decide (1024 ≤ x.authFails)
    if x.stage == .established && (auth || decide (x.last + Config.heartbeatBound ≤ s.cycle.toNat)) then .next (endHostSession s session auth)
    else .refused .eventNotEnabled
  | none => .refused .eventNotEnabled

/-! ### Contexts (R87, R294, R346, R452) -/

/-- A context as CREATE_CONTEXT makes it (R294, R346). -/
def freshCtx (r : CreateRequest) (key : Nat) : Ctx :=
  { phase := .running, fatal := false, destroying := none, haltTls := [], owed := [], key := key, xlroot := r.root, cmptab := 0, rsetbase := 0, dlvbase := 0, hentry := 0,
    errmb := 0, tagbase := 0, tagcount := 0, annexbase := 0, annexsize := 0, lostbase := 0, lostsize := 0, defaultTmo := 0, lostMb := 0xFFFFFFFF,
    allot0 := [], allot1 := [], timelines := [], tlPosted := [], mailboxes := [(0, { n := r.slots, base := r.slotBase, packet := r.packet, priv := true, slots := [] })],
    overflow := [], waiting := [], stoppedAt := 0, stoppedL2 := 0, records := [], recSeq := 1, dropped := 0, tags := [], handleSkipped := [], handleNext := 0, handleFreed := [],
    catalogue := [], blocks := [], tracked := [], endpoint := some r.session, outAcks := [], images := [] }

/-- The request is one firmware can carry out: frames of local HBM, by their own addresses or through the package's own window (R89), not
withheld, the root table's among them; 1 to 64 slots. -/
def createOk (s : State) (r : CreateRequest) : Bool :=
  let fs := r.frames.map (localise s)
  fs.all (fun f => f % 65536 == 0 && decide (f < 2 ^ 39) && !isWithheld s f) &&
  fs.contains (localise s r.root.toNat / 65536 * 65536) && r.root.toNat % 16384 == 0 && r.packet.length == 64 && decide (1 ≤ r.slots ∧ r.slots ≤ 64)

/-- CREATE_CONTEXT: the lowest free number, a new key, ownership of the frames, mailbox 0 (R109, R346). -/
def execCreateContext (r : CreateRequest) (s : State) : Host.Outcome State Fault Refusal :=
  if !sessionOn s r.session then .refused .eventNotEnabled
  else
    let s := sessionLives s r.session
    match (List.range 64).find? (fun c => (ctxOf s c).isNone), createOk s r with
    | some c, true =>
      let s := { s with nextId := s.nextId + 1, ctxs := mput s.ctxs c (freshCtx r (s.nextId + 1)) }
      .next (spdmAnswer ((r.frames.map (localise s)).foldl (fun s f => own s c f) s) r.session "CREATE_CONTEXT" true [c])
    | _, _ => .next (spdmAnswer s r.session "CREATE_CONTEXT" false [])

/-- DESTROY_CONTEXT: the context is stopped first (R446, R452). -/
def execDestroyContext (session c : Nat) (s : State) : Host.Outcome State Fault Refusal :=
  if !sessionOn s session then .refused .eventNotEnabled
  else
    let s := sessionLives s session
    match ctxOf s c with
    | none => .next (spdmAnswer s session "DESTROY_CONTEXT" false [])
    | some q =>
      if q.phase = .stopped then .next (destroyCtx s c session)
      else .next (beginStop (modCtx s c (fun q => { q with destroying := some session })) c)

/-- BIND_ENDPOINT (R465). -/
def execBindEndpoint (session c : Nat) (s : State) : Host.Outcome State Fault Refusal :=
  if !sessionOn s session then .refused .eventNotEnabled
  else
    let ok := (ctxOf s c).isSome
    .next (spdmAnswer (modCtx (sessionLives s session) c (fun q => { q with endpoint := some session })) session "BIND_ENDPOINT" ok [])

/-- The sixteen dwords of the telemetry block (R350, R410). [MARK DESIGN CHOICE log 10] -/
def telemetryWords (t : Telemetry) : List Nat :=
  [t.power, t.clock, t.throttles, t.hottest, t.alerts0, t.alerts1, t.corrected0, t.corrected1].map (fun w => w.toNat) ++ List.replicate 8 0

/-- GET_TELEMETRY: the 64 bytes of R350, as dwords. [MARK DESIGN CHOICE log 10] -/
def execGetTelemetry (session : Nat) (s : State) : Host.Outcome State Fault Refusal :=
  if !sessionOn s session then .refused .eventNotEnabled
  else .next (spdmAnswer (sessionLives s session) session "GET_TELEMETRY" true (telemetryWords s.tele))

/-- I3C answers where this start has enabled it: its step 15 ran with the degradation table not turning it off (R349, R467, R468).
[MARK DEDUCED log 117] -/
def i3cOn (b : Boot) : Bool := b.running && b.i3c

/-- What a read over I3C gives: the boot record, and bytes [15:0] of the telemetry block; of a package held in reset the record alone
(R349, R350, R469). -/
def i3cRead (s : State) : Option (List (BitVec 16) × List Nat) :=
  if s.boot.held then some (s.boot.entries, [])
  else if i3cOn s.boot then some (s.boot.entries, (telemetryWords s.tele).take 4)
  else none

/-! ### The Ethernet port (R461) -/

/-- ETHERNET_LOSS_OF_LOCK: of a port in use, by firmware of any kind (R461, R469). -/
def execEthernetLossOfLock (s : State) : Host.Outcome State Fault Refusal :=
  if spdmUp s then .next { s with eth := { up := false, lostAt := some s.cycle.toNat, downPosted := false } }
  else .refused .eventNotEnabled

/-- The loss has lasted 100 ms. -/
def lostLong (s : State) : Bool := match s.eth.lostAt with | some c => !s.eth.up && decide (c + Config.linkDownBound ≤ s.cycle.toNat) | none => false

/-- ETHERNET_LINK_DOWN: 9.6 "down", once. -/
def execEthernetLinkDown (s : State) : Host.Outcome State Fault Refusal :=
  if lostLong s && !s.eth.downPosted then
    .next (postRunning { s with eth := { s.eth with downPosted := true } } { cls := 9, code := 6, detail := some 0 })
  else .refused .eventNotEnabled

/-- ETHERNET_LINK_UP: 9.6 "up" after such a loss. -/
def execEthernetLinkUp (s : State) : Host.Outcome State Fault Refusal :=
  if s.eth.up || s.eth.lostAt.isNone || (lostLong s && !s.eth.downPosted) then .refused .eventNotEnabled
  else
    let s' := { s with eth := { up := true, lostAt := none, downPosted := false } }
    .next (if s.eth.downPosted then postRunning s' { cls := 9, code := 6, detail := some 1 } else s')

/-! ### UALink ports and paths (R343, R347, R458, R459) -/

/-- Lanes in use: the widest of four, two or one that the good lanes carry. -/
def portWidth (bad : BitVec 4) : Nat :=
  let good := ((List.range 4).filter (fun l => !bad.getLsbD l)).length
  if good = 4 then 4 else if 2 ≤ good then 2 else good

/-- UALINK_LANE_FAIL (R458). -/
def execUalinkLaneFail (port lane : Nat) (s : State) : Host.Outcome State Fault Refusal :=
  match s.ports[port]? with
  | none => .refused .eventNotEnabled
  | some x =>
    if !x.up || 4 ≤ lane || x.bad.getLsbD lane then .refused .eventNotEnabled
    else
      let bad := x.bad ||| BitVec.ofNat 4 (2 ^ lane)
      if portWidth bad = x.width then .next { s with ports := lmod s.ports port (fun x => { x with bad := bad }) }
      else .next (setPort s port bad (portWidth bad))

/-- PORT_KEY_REFRESH: a failure takes the port out of service, with 10.3 (R347, R456). [MARK DEDUCED log 120] -/
def execPortKeyRefresh (port : Nat) (ok : Bool) (s : State) : Host.Outcome State Fault Refusal :=
  match s.ports[port]? with
  | none => .refused .eventNotEnabled
  | some x =>
    if !x.up then .refused .eventNotEnabled
    else if ok then .next { s with nextId := s.nextId + 1, ports := lmod s.ports port (fun x => { x with keys := s.nextId + 1, flits := 0 }) }
    else .next (portUntrusted s port x)

/-- PATH_CHANGE: firmware rewrites a peer's class and hops; 9.5 when its class is lowered, 9.3 when it becomes unreachable (R455,
R459). -/
def execPathChange (device : Nat) (pcls : BitVec 2) (hops : BitVec 4) (s : State) : Host.Outcome State Fault Refusal :=
  if !s.boot.running || 640 ≤ device || device == s.deviceId.toNat then .refused .eventNotEnabled
  else
    let old := mgetD s.hops 0x3C000000 device
    let oldCls := pclsOf s device
    let oldHops := hopsOf s device
    let new := (old &&& 0x0003FFFF) ||| BitVec.ofNat 32 (pcls.toNat * 2 ^ 30 + hops.toNat * 2 ^ 26)
    let s := { s with hops := mput s.hops device new }
    let s := if pcls.toNat < oldCls then postRunning s { cls := 9, code := 5, detail := some (BitVec.ofNat 32 (device + oldCls * 2 ^ 12 + pcls.toNat * 2 ^ 14)) } else s
    .next (if hops = 15 ∧ oldHops ≠ 15 then postRunning s { cls := 9, code := 3, detail := some (BitVec.ofNat 32 device) } else s)

/-! ### The die bridge, HBM rows, power (R350, R410, R411) -/

/-- Every context is stopped with nothing saved, and the package takes no further work until it restarts (R411). -/
def stopAll (s : State) : State :=
  { s with
    ctxs := s.ctxs.map (fun (e : Nat × Ctx) => (e.1, { e.2 with phase := .stopped, fatal := true, stoppedAt := s.cycle.toNat, stoppedL2 := s.l2cycle }))
    teams := [], saved := [], gridQueue := [], grids := [], sends := [], touches := [], hostOps := [], peerReqs := [], msgs := []
    cores := s.cores.map (fun (e : Nat × Core) => (e.1, { e.2 with jobs := [], copies := [] }))
    bridge := { s.bridge with failed := true }
    boot := { s.boot with running := false }
    outbox := s.outbox ++ (s.sessions.filter (fun x => x.2.stage == .established)).map (fun x => Out.spdm x.1 "BRIDGE_FAILURE" false []) }

/-- BRIDGE_FLIT_FAIL: a flit of direction 0 or 1 fails for the given number of times in a row: it is retransmitted, its lane is
replaced by a spare after 16, or, with the spares gone, it cannot cross: 8.8 (R411). -/
def execBridgeFlitFail (dir : Nat) (bulk : Bool) (retries : Nat) (s : State) : Host.Outcome State Fault Refusal :=
  if !s.boot.running || 1 < dir || s.bridge.failed then .refused .eventNotEnabled
  else if retries < 16 then .next s
  else
    let used := if dir = 0 then s.bridge.spares0 else s.bridge.spares1
    if used < (Config.spareLanes dir).val then
      .next { s with bridge := if dir = 0 then { s.bridge with spares0 := used + 1 } else { s.bridge with spares1 := used + 1 } }
    else
      let rec_ : RecIn := { cls := 8, code := 8, detail := some (if bulk then 1 else 0) }
      .next (stopAll ((s.ctxs.map Prod.fst).foldl (fun s c => postRecord s c rec_) s))

/-- ROW_DISTURBANCE_ALERT: counted in telemetry; it changes no data and no order (R410). -/
def execRowDisturbanceAlert (die : Nat) (s : State) : Host.Outcome State Fault Refusal :=
  if 1 < die then .refused .eventNotEnabled
  else .next { s with tele := if die = 0 then { s.tele with alerts0 := s.tele.alerts0 + 1 } else { s.tele with alerts1 := s.tele.alerts1 + 1 } }

/-- POWER_THROTTLE: package power and the hottest die sensor are measured; above 4,000 W the core clock falls by 100 MHz, to no less than 1.0 GHz (R24, R350).
[MARK DEDUCED log 121] -/
def execPowerThrottle (sensors : SensorReading) (s : State) : Host.Outcome State Fault Refusal :=
  let mw := sensors.power
  let hottest := sensors.hottest
  if 2 ^ 32 ≤ mw ∨ 2 ^ 32 ≤ hottest then .refused .eventNotEnabled
  else
    let t := { s.tele with power := BitVec.ofNat 32 mw, hottest := BitVec.ofNat 32 hottest }
    .next { s with tele := if 4000000 < mw ∧ 1000 < t.clock.toNat then { t with clock := t.clock - 100, throttles := t.throttles + 1 } else t }

/-! ### Start-up (R349, R466 to R470) -/

/-- The steps with an alternative: 6, 7, 9, 12, 13, 15. -/
def optionalStep (n : Nat) : Bool := [6, 7, 9, 12, 13, 15].contains n

/-- A stack that fails at code 4 has no alternative left: step 7 is then mandatory (R467). [MARK DEDUCED log 116] -/
def stillOptional (b : Boot) (n : Nat) (units : BitVec 72) : Bool :=
  optionalStep n && !(n == 7 && (List.range 8).any (fun j => units.getLsbD j && decide (4 ≤ b.degr.pins.getD j 0)))

/-- The detail field of a step's entry for the units that failed or changed (R467). -/
def stepDetail (n : Nat) (units : BitVec 72) : Nat :=
  let any := fun (l : List Nat) => l.any (fun i => units.getLsbD i)
  if n = 6 ∨ n = 9 then
    maskNat (fun j => any [2 * j, 2 * j + 1, 16 + 2 * j, 17 + 2 * j]) 8 + (if any (List.range 16) then 2 ^ 10 else 0) + (if any ((List.range 16).map (fun i => i + 16)) then 2 ^ 11 else 0)
  else if n = 7 then units.toNat % 256
  else if n = 12 then maskNat (fun j => any ((List.range 8).map (fun i => 8 * j + i))) 9
  else 0

/-- The alternative of a step for the units that failed, added to the degradation table (R467, R468). -/
def degrade (d : Degradation) (n : Nat) (units : BitVec 72) : Degradation :=
  match n with
  | 6 => { d with oct0 := d.oct0 ||| units.setWidth 16, oct1 := d.oct1 ||| (units >>> 16).setWidth 16 }
  | 9 => { d with oct0 := d.oct0 ||| units.setWidth 16, oct1 := d.oct1 ||| (units >>> 16).setWidth 16 }
  | 7 => { d with pins := d.pins.mapIdx (fun j p => if units.getLsbD j then min 4 (p + 1) else p) }
  | 12 => { d with lanes := d.lanes ||| units }
  | 13 => { d with alone := true }
  | 15 => { d with i3cOff := true }
  | _ => d

/-- Failures in a row of a step (R466). -/
def failCount (b : Boot) (n : Nat) : Nat := min 3 (b.counters.getD (n - 1) 0 - b.bases.getD (n - 1) 0)
def entryOf (outcome count detail : Nat) : BitVec 16 := BitVec.ofNat 16 (outcome * 2 ^ 14 + count * 2 ^ 12 + detail)
def setEntry (b : Boot) (n : Nat) (e : BitVec 16) : Boot := { b with entries := b.entries.set (n - 1) e }

/-- How one start ends: every step passed, a failure after which the TX2 starts again (true: to the recovery image at once), or a
hang. -/
inductive StartEnd where
  | passed
  | failed
  | hung
  deriving DecidableEq, Repr

/-- Lanes that fail in the same start as another step: the entry of step 12 is marked too, and its alternative stands ready (R471).
[MARK DEDUCED log 116] -/
def lanesFail (lanes : BitVec 72) (b : Boot) : Boot :=
  { setEntry b 12 (entryOf 3 (failCount b 12) (stepDetail 12 lanes)) with failing := b.failing.set 11 (some (lanes ||| (b.failing.getD 11 none).getD 0)) }

/-- One start runs steps in order; a step beyond the results given passes. `forced` makes step 5 fail (R411). What is left of the
results is returned. Each step that begins raises its counter, and writes its base on a pass (R466); step 3 of the main firmware
compares its version with the anti-rollback counter (R349).
[MARKS DESIGN CHOICE log 115, DEDUCED log 116, DESIGN CHOICE log 136] -/
def runSteps : (steps : List Nat) → (main : Bool) → (forced : Bool) → List StepResult → Boot → StartEnd × List StepResult × Boot
  | [], _, _, rs, b => (.passed, rs, b)
  | n :: more, main, forced, rs, b =>
    let limit := decide (4096 ≤ b.counters.getD (n - 1) 0)
    let b := { b with counters := b.counters.set (n - 1) (min 4096 (b.counters.getD (n - 1) 0 + 1)) }
    let alt := (b.failing.getD (n - 1) none)
    let b := match alt with | some u => { b with degr := degrade b.degr n u, failing := b.failing.set (n - 1) none } | none => b
    let fails := fun (u : BitVec 72) (b : Boot) =>
      let b := setEntry b n (entryOf 3 (failCount b n) (stepDetail n u))
      let b := if n = 7 then { b with spent := !stillOptional b 7 u } else b
      if stillOptional b n u then { b with failing := b.failing.set (n - 1) (some u) } else b
    let older := main && n == 3 && b.rollback != 0 && decide (Config.imageVersion b.image < b.rollback)
    if limit || (forced && n == 5) || older then (.failed, rs, fails 0 b)
    else match rs with
      | .fail u :: rs => (.failed, rs, fails u b)
      | .failLanes u lanes :: rs => (.failed, rs, lanesFail lanes (fails u b))
      | .hang :: rs => (.hung, rs, setEntry b n (entryOf 0 (failCount b n) 0))
      | r =>
        let b := { b with bases := b.bases.set (n - 1) (b.counters.getD (n - 1) 0), spent := b.spent && n != 7 }
        let e := match alt with | some u => entryOf 2 0 (stepDetail n u) | none => entryOf 1 0 0
        runSteps more main forced (r.drop 1) (setEntry b n e)

/-- A mandatory step whose count has reached 3, step 7 among them after a stack has failed at code 4, or a step at the counter limit: the
recovery image (R467, R469). [MARK DEDUCED log 116] -/
def needsRecovery (b : Boot) : Bool :=
  (List.range 16).any (fun i => (failCount b (i + 1) == 3 && !optionalStep (i + 1)) || decide (4096 ≤ b.counters.getD i 0)) ||
  (failCount b 7 == 3 && b.spent)

/-- The entries at the beginning of a start: nothing reached. -/
def clearEntries (b : Boot) : Boot := { b with entries := (List.range 16).map (fun i => entryOf 0 (failCount b (i + 1)) 0), starts := b.starts + 1 }

/-- Starts, one after another, until one passes, hangs, or ends in the boot ROM's hold. `n` bounds them.
[MARKS DESIGN CHOICE log 115, DEDUCED log 116] -/
def runStarts : (n : Nat) → (forced toRecovery : Bool) → List StepResult → Boot → Boot
  | 0, _, _, _, b => b
  | n + 1, forced, toRecovery, rs, b =>
    let exit_ := b.exitFlag && !toRecovery
    let b := clearEntries b
    if (needsRecovery b && !exit_) || toRecovery then
      -- the recovery image's signatures, then its steps
      match rs with
      | .fail _ :: _ => { b with held := true }
      | .failLanes _ _ :: _ => { b with held := true }
      | .hang :: _ => b
      | rs =>
        match runSteps [1, 2, 3, 4, 11, 14, 16] false false (rs.drop 1) { b with recovery := true } with
        | (.passed, _, b) => { b with running := true }
        | (.hung, _, b) => b
        | (.failed, rs, b) => runStarts n false true rs b
    else
      match runSteps ((List.range 16).map (fun i => i + 1)) true forced rs { b with exitFlag := false, recovery := false } with
      | (.passed, _, b) => { b with running := true, i3c := !b.degr.i3cOff, bases := b.counters }
      | (.hung, _, b) => b
      | (.failed, rs, b) =>
        let mandatory := (List.range 16).any (fun i => (b.entries.getD i 0).toNat / 2 ^ 14 == 3 && (b.failing.getD i none).isNone)
        runStarts n false (exit_ && mandatory) rs b

/-- The report of a port's peer is accepted: the peer attests, and both signatures of its report verify (R345, R347).
[MARK DEDUCED log 119] -/
def acceptsReport (r : PeerReport) : Bool := r.attested && r.rsaOk && r.slhOk

/-- The package after its starts: the boot record and flash, HBM's contents with the keys they were written under, and damage to HBM
are what lasts; with main firmware running, the degradation table is applied and the domain is known (R343, R468). A port whose peer
is not attested carries nothing until the next start (R347, R463). [MARKS DEDUCED log 117, DEDUCED log 119] -/
def afterStart (s : State) (b : Boot) (id : BitVec 10) (hops : List (Nat × W32)) (reports : List PeerReport) : State :=
  let main := b.running && !b.recovery
  let alone := b.degr.alone
  let lanesOff := fun (p : Nat) => BitVec.ofNat 4 (b.degr.lanes.toNat / 2 ^ (4 * p) % 16)
  let proven := fun (p : Nat) => reports.any (fun r => r.port == p && acceptsReport r)
  let port := fun (p : Nat) =>
    let up := main && portWidth (lanesOff p) != 0 && proven p
    ({ bad := lanesOff p, width := if main && !proven p then 0 else portWidth (lanesOff p), up := up
       keys := if up then s.nextId + 1 + p else 0, attested := main && proven p, flits := 0 } : Port)
  let s' : State := { State.reset with
    mem := s.mem, lineKey := s.lineKey, badLines := s.badLines
    outbox := s.outbox ++ (if b.held || i3cOn b then [.i3c b.entries] else []), nextId := s.nextId + 32
    agenda := s.agenda, boot := b, deviceId := if main && !alone then id else 0
    hops := if main && !alone then hops.foldl (fun m e => mput m e.1 e.2) [] else []
    octetOff := (b.degr.oct1 ++ b.degr.oct0), ports := (List.range 18).map port
    eth := { up := b.running, lostAt := none, downPosted := false } }
  let failed := (reports.filter (fun r => main && !acceptsReport r)).map (fun r => r.port)
  let s' := ((List.range 18).filter (fun p => !(port p).up)).foldl clearPort s'
  failed.foldl (fun s p => postRunning s { cls := 10, code := 2, detail := some (BitVec.ofNat 32 (p * 2 ^ 16)) }) s'

/-- POWER_ON_RESET: power-good and reset; the results of the steps in the order they run, and what domain discovery and the ports' peers
gave (R347, R349). [MARK DESIGN CHOICE log 115] -/
def execPowerOnReset (steps : List StepResult) (id : BitVec 10) (around : Surroundings) (s : State) : Host.Outcome State Fault Refusal :=
  if 640 ≤ id.toNat then .refused .eventNotEnabled
  else
    let b := { s.boot with running := false, recovery := false, held := false, i3c := false }
    .next (afterStart s (runStarts (steps.length + 4) s.bridge.failed false steps b) id around.hops around.reports)

/-! ### Requests about start-up (R465) -/

/-- A request that main firmware and the recovery image both take. -/
def anySession (s : State) (session : Nat) : Bool := spdmUp s && stageOf s session == some .established

/-- RESET_DEGRADATION: effective at the next start. -/
def execResetDegradation (session : Nat) (s : State) : Host.Outcome State Fault Refusal :=
  if !anySession s session then .refused .eventNotEnabled
  else .next (spdmAnswer { sessionLives s session with boot := { s.boot with degr := Degradation.clear } } session "RESET_DEGRADATION" true [])

/-- RESTART: the package stands before step 1 again; from the recovery image the recovery-exit flag is set (R470).
[MARK DEDUCED log 118] -/
def execRestart (session : Nat) (s : State) : Host.Outcome State Fault Refusal :=
  if !anySession s session then .refused .eventNotEnabled
  else
    let b := { s.boot with running := false, recovery := false, i3c := false, exitFlag := s.boot.exitFlag || s.boot.recovery }
    let s := spdmAnswer s session "RESTART" true []
    .next { afterStart s b 0 [] [] with bridge := { State.reset.bridge with failed := s.bridge.failed } }

/-- UPDATE_FIRMWARE: by the recovery image alone; the image is written once both signatures verify. Main firmware does not do it; the
request is a sign of life there too (R462). -/
def execUpdateFirmware (session : Nat) (image : List Byte) (rsaOk slhOk : Bool) (s : State) : Host.Outcome State Fault Refusal :=
  if !anySession s session then .refused .eventNotEnabled
  else if !s.boot.recovery then .next (spdmAnswer (sessionLives s session) session "UPDATE_FIRMWARE" false [])
  else
    let ok := rsaOk && slhOk
    .next (spdmAnswer { sessionLives s session with boot := if ok then { s.boot with image := image } else s.boot } session "UPDATE_FIRMWARE" ok [])

end Sys2Proof.Machine
end

