-- ==== Sys2Proof/Machine/Fetch.lean ====
section
/-! DEFINITION. Instruction fetch (R142 to R146, R354, R400, R407), and the words that are no instructions: fillers and pool headers
(R143, R144). -/

namespace Sys2Proof.Machine

/-- What a fetch comes to: an instruction; a class-0 code of its words; or a state in which the gang has stopped or waits. -/
inductive Fetched where
  | word (i : Instr)
  | bad (code : Nat)
  | stop (s : State)
  deriving DecidableEq, Repr

/-- The bytes of an aligned 32-byte block from the program counter on, as one number, and the class-0 order of R354: 0.3 first. -/
def readWords (pc : Nat) (bytes : List Byte) : Fetched :=
  let w := BitVec.ofNat 128 (leNat bytes)
  if w.extractLsb' 0 2 ≠ 0#2 ∧ 32 < pc % 32 + 4 * wordCount w then .bad 3
  else match decode w with
    | .ok i => .word i
    | .error c => .bad c

/-- A fetch that has to ask a peer for its line. [MARK DEDUCED log 65] -/
def askCode (s : State) (t g k : Nat) (tm : Team) (q : Gang) (pc : W64) (line : Nat) : State :=
  let waits := match groupOf s t g with | some gr => gr.returns.any (fun r => r.fetch && r.pc == pc && r.peers != []) | none => false
  if waits then setWait s t g k .retry
  else
    let id := s.nextId
    let a := askPeers { s with nextId := id + 1 } t g id tm.ctx pc [(line, [])]
    let r : Ret := { id := id, seq := (coreOf s tm.core).storeSeq, pc := pc, members := q.members, sampler := false, fetch := true, shadow := false, vw := [], sw := [], cw := [], lines := [], peers := a.1, queued := 0, blocks := [], late := [], fill := [], prefetch := false, merges := [] }
    setWait (modGroup a.2 t g (fun gr => { gr with returns := gr.returns ++ [r] })) t g k .retry

/-- Is a store one that a grid does not fetch: not released, or released or made by an engine since the grid's launch (R146)?
[MARK DEDUCED log 65] -/
def OldBlock.hidden (grid : Nat) (j : OldBlock) : Bool := j.by_.isSome || decide (grid < j.stamp)

/-- A block with those of the changes made to it, each the block before and after, that a grid fetches. [MARK DEDUCED log 65] -/
def withSeen (grid : Nat) (old : List Byte) (changes : List (OldBlock × List Byte)) : List Byte :=
  changes.foldl (fun v x => if x.1.hidden grid then v
    else (List.range 32).map (fun i => if x.1.bytes[i]? = x.2[i]? then v.getD i 0 else x.2.getD i 0)) old

/-- Bytes of a 32-byte block of local code as a grid fetches them: as its home segment holds it, without the stores whose release does
not come before the grid's launch (R146). [MARK DEDUCED log 65] -/
def codeBytes (s : State) (ctx grid pa n : Nat) : List Byte :=
  let js := s.journal.filter (fun j => j.block == pa / 32)
  match js, js.find? (OldBlock.hidden grid) with
  | first :: rest, some j =>
    let line := lineOf pa
    let now := (List.range 32).map (fun i => readByte s.mem (32 * (pa / 32) + i))
    let block := withSeen grid first.bytes (js.zip (rest.map (fun x => x.bytes) ++ [now]))
    (List.range n).map (fun i => if readsUnder s ctx line j.key then block.getD (pa % 32 + i) 0
      else Config.foreignByte ctx (match j.key with | some x => 128 * x.1 + x.2 | none => 0) (pa + i))
  | _, _ => homeBytes s ctx pa n

/-- The fetch of gang k of group g of team t at its program counter: execute permission, the block at its home segment, not coherent
with the store path (R146); a class-3 condition is taken at the target address, in one lane, with access kind 3 (R400).
[MARKS DEDUCED log 65, DEDUCED log 66] -/
def fetch (s : State) (t g k : Nat) (tm : Team) (gr : Group) (q : Gang) : Fetched :=
  let x := sliceOf gr k
  let pc := x.pc.toNat % 2 ^ 57
  let w := whoOf tm
  let lane := maskOf (fun l => l == 4 * k)
  match translate s w .fetch false 0 pc with
  | .fault c d =>
    .stop (deliver s t g k x.pc true { cls := 3, code := c, mask := lane, addr := BitVec.ofNat 64 pc, detail := some (BitVec.ofNat 32 d), acc := [(4 * k, BitVec.ofNat 64 pc, Access.fetch.num)] })
  | .err a l => .stop (chargeData s t g q.members x.pc x.rentry 8 6 a (BitVec.ofNat 32 l))
  | .held => .stop (setWait s t g k .retry)
  | .charged _ c d => .stop (deliver s t g k x.pc true { cls := 4, code := c, mask := lane, addr := BitVec.ofNat 64 pc, detail := some (BitVec.ofNat 32 d) })
  | .touch b =>
    let u := makeTouch s tm.ctx b (dieOf tm.core) (.gang t g k) tm.gen lane pc
    .stop (setWait u.2 t g k (.fill b u.1))
  | .ok pa _ block =>
    let n := 32 - pc % 32
    let s' := tlbNote s w pc
    if isPeer pa then
      match ((coreOf s tm.core).code.find? (fun e => e.1 == (tm.grid, tm.ctx, lineOf pa))).map Prod.snd with
      | some bs => readWords pc ((bs.drop (pa % 128)).take n)
      | none => .stop (askCode s' t g k tm q x.pc (lineOf pa))
    else match dataError s (pa - pa % 32) 32 with
      | some (code, a, m) =>
        match code, block with
        | 1, some b => .stop (regenerate s tm.ctx b)
        | _, _ => .stop (chargeData s t g q.members x.pc x.rentry 8 code a m)
      | none => readWords pc (codeBytes s tm.ctx tm.grid pa n)

/-- The issuing gang goes on at an address. [MARK DESIGN CHOICE log 14] -/
def skipTo (s : State) (f : Nat → Nat) : Host.Outcome State Fault Refusal :=
  match s.cur with
  | none => .refused .noIssuer
  | some c =>
    match (groupOf s c.t c.g).bind (fun gr => (gangAt gr c.k).map (fun q => (gr, q))) with
    | none => .refused .noIssuer
    | some (gr, q) =>
      let pc := pcBits (BitVec.ofNat 64 (f (sliceOf gr c.k).pc.toNat))
      .next (modGroup s c.t c.g (fun gr => modGang (modMembers gr q.members (fun _ x => { x with pc := pc })) c.k (fun q => { q with wait := none })))

/-- FILLER: on to the next 32-byte boundary (R143). [MARK DESIGN CHOICE log 14] -/
def execFiller (s : State) : Host.Outcome State Fault Refusal := skipTo s (fun a => (a / 32 + 1) * 32)

/-- POOL_HEADER: past the pool, 8 bytes for each unit of its length (R144). [MARK DESIGN CHOICE log 14] -/
def execPoolHeader (w : BitVec 30) (s : State) : Host.Outcome State Fault Refusal := skipTo s (fun a => a + 8 * (w.toNat % 65536))

end Sys2Proof.Machine
end

