-- ==== Sys2Proof/Machine/Watch.lean ====
section
/-! DEFINITION. The watchdogs (R376 to R378, R390). -/

namespace Sys2Proof.Machine

/-- Wait kind and object of R377; none for the waits that are never reported. -/
def watchKind (k : Nat) (w : WaitKind) : Option (Nat × Nat) :=
  match w with
  | .bwait o _ _ => some (1, o)
  | .mwait _ _ => some (2, 0)
  | .tlwait i _ _ => some (3, i)
  | .bar n => some (4, n)
  | .regang tags _ => some (5, (tags.getD k 0).toNat)
  | .fill b _ => some (6, 65536 * b)
  | .refill _ _ => none
  | .sleep _ _ => none
  | .gdone _ => none
  | .smp _ => none
  | .retry => none

/-- WAIT_WATCHDOG: a wait of a full interval posts one 7.3 record, without member slices, and goes on; a release in that cycle wins
(R355, R377, R394). -/
def execWaitWatchdog (t g k : Nat) (s : State) : Host.Outcome State Fault Refusal :=
  match teamOf s t, groupOf s t g with
  | some tm, some gr =>
    match gangAt gr k with
    | none => .refused .eventNotEnabled
    | some q =>
      match q.wait with
      | none => .refused .eventNotEnabled
      | some w =>
        match watchKind k w.kind with
        | none => .refused .eventNotEnabled
        | some (kind, obj) =>
          if w.posted || waitOver s t tm gr w.kind || decide (s.cycle.toNat < w.since + Config.watchdog) then .refused .eventNotEnabled
          else
            let s := postRecord s tm.ctx (teamRecord tm g { cls := 7, code := 3, mask := gangExec gr q.members, addr := BitVec.ofNat 64 obj, detail := some (BitVec.ofNat 32 kind), pc := (sliceOf gr k).pc, rentry := (sliceOf gr k).rentry })
            .next (modGroup s t g (fun gr => modGang gr k (fun q => { q with wait := some { w with posted := true } })))
  | _, _ => .refused .eventNotEnabled

/-- The cycle from which a lane has been outside active(exec) at every issue of its gang. [MARK DEDUCED log 124] -/
def idleSince (q : Gang) (l : Nat) : Nat := q.seen.foldl (fun c e => if laneIn e.2 l then max c e.1 else c) q.spinSince

/-- The cycle of a gang's last issue. [MARK DEDUCED log 124] -/
def lastIssued (q : Gang) : Nat := q.seen.foldl (fun c e => max c e.1) 0

/-- The starved lanes of a gang: its issues reach a full interval beyond the last one at which they were active (R378).
[MARK DEDUCED log 124] -/
def starvedLanes (gr : Group) (q : Gang) : W32 :=
  maskOf (fun l => q.members.getLsbD (l / 4) && !(sliceOf gr (l / 4)).exited && !laneIn gr.fmask l && decide (idleSince q l + Config.watchdog ≤ lastIssued q))

/-- STARVED_LANES: one 7.4 record, without member slices, when lanes of a gang that has not waited first become starved (R355, R378). -/
def execStarvedLanes (t g k : Nat) (s : State) : Host.Outcome State Fault Refusal :=
  match teamOf s t, groupOf s t g with
  | some tm, some gr =>
    match gangAt gr k with
    | none => .refused .eventNotEnabled
    | some q =>
      let m := starvedLanes gr q
      if m = 0 ∨ q.wait.isSome ∨ q.starved ≠ 0 ∨ tm.phase ≠ .running then .refused .eventNotEnabled
      else
        let s := postRecord s tm.ctx (teamRecord tm g { cls := 7, code := 4, mask := m, detail := some 0, pc := (sliceOf gr k).pc, rentry := (sliceOf gr k).rentry })
        .next (modGroup s t g (fun gr => modGang gr k (fun q => { q with starved := m })))
  | _, _ => .refused .eventNotEnabled

/-- RESIDENCY_REPORT_OVERDUE: no report of a tracked LAUNCH within a watchdog interval, which does not run while the context is
stopped (R390, R450). [MARK DEDUCED log 99] -/
def execResidencyReportOverdue (c launch : Nat) (s : State) : Host.Outcome State Fault Refusal :=
  match ctxOf s c with
  | none => .refused .eventNotEnabled
  | some q =>
    match q.tracked.find? (fun x => x.id == launch) with
    | none => .refused .eventNotEnabled
    | some x =>
      if !launchOverdue s q x then .refused .eventNotEnabled
      else
        let dev := match targetOf s x.target with | .local _ => s.deviceId.toNat | .peer d _ => d | .host _ => 1023
        let s := modCtx s c (fun q => { q with tracked := q.tracked.filter (fun y => y.id != launch) })
        .next (postRecord s c { cls := 7, code := 12, addr := BitVec.ofNat 64 dev, detail := some x.target })

end Sys2Proof.Machine
end

