-- ==== Sys2Proof/Machine/Schedule.lean ====
section
/-! DEFINITION. What happens next (R44, R322): the events of engines, segments, links and watchdogs that may come due in a state, the
gang a port issues from, and the marks an issue leaves. An agenda overrides the choice: any order the spec allows can be run. -/

namespace Sys2Proof.Machine

/-! ### Events that may come due -/

/-- Of one gang: the end of a SLEEP, and the watchdogs. -/
def gangEvents (t g : Nat) (q : Gang) : List Instr :=
  let k := leadOf q.members
  match q.wait with
  | some w =>
    match w.kind with
    | .sleep _ _ => [.sleepExpiry t g k]
    | _ => [.waitWatchdog t g k]
  | none => [.starvedLanes t g k]

/-- Lines that a group's results and store queue need in L2. -/
def fillsOf (s : State) (gr : Group) : List Nat :=
  ((gr.returns.flatMap (fun r => r.lines.filter (fun l => (mget s.l2 l).isNone))) ++ (gr.queue.filter (fun e => e.left)).flatMap (needsFill s)).eraseDups

/-- Of one group: its store queue, its results, the fills they wait for, its promotion. -/
def groupEvents (s : State) (t g : Nat) (gr : Group) : List Instr :=
  (List.range gr.queue.length).map (fun n => Instr.storeQueueDrain t { group := g, pos := n }) ++
  gr.returns.map (fun r => if r.sampler then .samplerReturn t g r.id else .loadReturn t g r.id) ++
  (fillsOf s gr).map (fun l => .l2Fill l (victimOf s l) (if (mget s.badLines l).isSome then .failed else .good)) ++
  gr.gangs.flatMap (gangEvents t g) ++ [.priorityPromotion t g]

def teamEvents (s : State) (t : Nat) (tm : Team) : List Instr :=
  (tm.groups.mapIdx (fun g gr => groupEvents s t g gr)).flatten ++ [.teamStart t, .teamRetire t, .teamSave t]

def coreEvents (c : Nat) (k : Core) : List Instr :=
  k.copies.flatMap (fun x => [.copyBytesLand x.id, .copyComplete x.id]) ++ (if k.jobs = [] then [] else [.jobStepCommit c])

/-- The mailboxes for which a record or held message waits. -/
def waitedMailboxes (q : Ctx) : List Nat := (q.records.map (recordMailbox q) ++ q.overflow.map (fun x => x.2.mb)).eraseDups

def ctxEvents (c : Nat) (q : Ctx) : List Instr :=
  (waitedMailboxes q).map (fun mb => .recordDelivery c mb) ++
  (q.tags.filter (fun e => e.2.queue != [])).map (fun e => .rendezvousTimeout c e.1) ++
  q.blocks.flatMap (fun e => [.generatorAttemptEnd c e.1, .blockUnpin c e.1]) ++
  q.tracked.map (fun x => .residencyReportOverdue c x.id) ++ [.contextDrainEnd c]

/-- Every event that the package itself could bring about now; each still tests whether it can happen.
[MARK DESIGN CHOICE log 3] -/
def dueEvents (s : State) : List Instr :=
  s.teams.flatMap (fun e => teamEvents s e.1 e.2) ++ s.cores.flatMap (fun e => coreEvents e.1 e.2) ++
  s.sends.map (fun x => .rendezvousArrival x.id) ++ s.entries.flatMap (fun e => e.dests.map (fun d => .rendezvousDelivery e.id d.1)) ++
  s.touches.map (fun u => .proceduralTouch u.id) ++ s.msgs.map (fun m => .mailboxMessage m.id) ++
  s.ctxs.flatMap (fun e => ctxEvents e.1 e.2) ++ (if s.saved = [] ∧ s.gridQueue = [] then [] else [Instr.teamPlacement]) ++
  s.peerReqs.map (fun q => .peerRequestTimeout q.id) ++ s.sessions.map (fun e => .sessionHeartbeatExpiry e.1) ++
  (if s.eth.lostAt.isSome then [.ethernetLinkDown] else [])

/-! ### The issue (R44, R322) -/

/-- A group with the lowest members of its ready gangs. -/
structure Ready where
  t : Nat
  g : Nat
  tm : Team
  gr : Group
  ks : List Nat
  deriving DecidableEq, Repr

/-- Groups with a ready gang. -/
def readyGroups (s : State) : List Ready :=
  s.teams.flatMap (fun e => (e.2.groups.mapIdx (fun g gr =>
    let ks := (gr.gangs.filter (gangReady s e.1 e.2 gr)).map (fun q => leadOf q.members)
    if ks = [] then [] else [({ t := e.1, g := g, tm := e.2, gr := gr, ks := ks } : Ready)])).flatten)

/-- Does the last issue of y lie further back than that of x, ties going to one that has not yielded, then to the older (R322)?
[MARK DEDUCED log 12] -/
def furtherBack (y x : Ready) : Bool :=
  let last := fun (r : Ready) => match r.gr.lastIssue with | some c => c + 1 | none => 0
  if last y ≠ last x then decide (last y < last x)
  else if y.gr.yielded ≠ x.gr.yielded then x.gr.yielded
  else decide (y.tm.age < x.tm.age ∨ (y.tm.age = x.tm.age ∧ y.g < x.g))

/-- On one port, y goes before x (R322). [MARK DEDUCED log 12] -/
def goesBefore (y x : Ready) : Bool :=
  y.tm.core == x.tm.core && y.gr.port == x.gr.port &&
  (decide (x.gr.curPrio < y.gr.curPrio) || (decide (x.gr.curPrio = y.gr.curPrio) && furtherBack y x))

/-- The group each port takes, one for each port with a ready gang. [MARK DESIGN CHOICE log 11] -/
def portChoices (rs : List Ready) : List Ready := rs.filter (fun x => !rs.any (fun y => goesBefore y x))

/-- The ready gang that follows the one that issued last, in order of lowest member and wrapping round.
[MARK DESIGN CHOICE log 11] -/
def nextGang (r : Ready) : Nat :=
  ((List.range 8).map (fun i => (r.gr.lastGang + 1 + i) % 8)).find? (fun k => r.ks.contains k) |>.getD 0

/-- The engine whose queue an instruction enters: the matrix engine or the copy engine (R13, R14). -/
def engineOf (i : Instr) : Option Nat :=
  match i with
  | .mjob _ => some 0
  | .tcopy _ => some 1
  | .tcopyx _ => some 1
  | .tpeer _ => some 1
  | _ => none

/-- The engine that the gang a group would issue from next makes a request to. -/
def wantsEngine (s : State) (r : Ready) : Option Nat :=
  match gangAt r.gr (nextGang r) with
  | some q => (match fetch s r.t r.g (nextGang r) r.tm r.gr q with | .word i => engineOf i | _ => none)
  | none => none

/-- Of the requests that a core's ports would make to one engine in a cycle, that of the lowest group slot is accepted first: does y's
come before x's (R13, R14)? [MARK DESIGN CHOICE log 11] -/
def slotFirst (s : State) (y x : Ready) : Bool :=
  y.tm.core == x.tm.core && decide (12 * y.gr.port + y.gr.slot < 12 * x.gr.port + x.gr.slot) &&
  (match wantsEngine s x with | some e => wantsEngine s y == some e | none => false)

/-- The groups that may issue now, with their gangs (R13, R14, R322). [MARK DESIGN CHOICE log 11] -/
def choices (s : State) : List Ready :=
  let cs := portChoices (readyGroups s)
  cs.filter (fun x => !cs.any (fun y => slotFirst s y x))

/-- The gang that issues in this step: of the ports' choices the one whose last issue lies furthest back.
[MARK DESIGN CHOICE log 11] -/
def pickIssue (s : State) : Option Issuer :=
  ((choices s).foldl (fun (b : Option Ready) x => match b with
      | some y => if furtherBack x y then some x else b
      | none => some x) none).map (fun r => { t := r.t, g := r.g, k := nextGang r })

/-- The marks of an issue on its group: step 4 and the order of R322. [MARK DEDUCED log 12] -/
def markGroup (now k : Nat) (gr : Group) : Group :=
  { gr with lastIssue := some now, lastGang := k, curPrio := gr.basePrio, yielded := false, readySince := now + 1 }

/-- The marks on the gang: which lanes were active, for the starved-lane watchdog, whose count a wait restarts (R378).
[MARK DEDUCED log 124] -/
def markGang (now : Nat) (m : W32) (q : Gang) : Gang :=
  let seen := if q.wait.isSome then [] else (q.seen.map (fun e => (e.1, e.2 &&& ~~~m))).filter (fun e => e.2 != 0)
  { q with seen := seen ++ [(now, m)], spinSince := if q.wait.isSome then now else q.spinSince, starved := q.starved &&& ~~~m }

/-- A gang issues: the state its instruction acts on. -/
def markIssue (s : State) (t g k : Nat) : State :=
  let now := s.cycle.toNat
  let s := modGroup s t g (fun gr => modGang (markGroup now k gr) k (fun q => markGang now (gangExec gr q.members) q))
  { s with cur := some { t := t, g := g, k := k } }

/-- A wait after which the instruction is issued again: its gang has taken no issue slot. One that waits at BWAIT, MWAIT, TLWAIT, BAR, REGANG
or SLEEP has issued it (R50). [MARK DEDUCED log 13] -/
def polled (w : WaitKind) : Bool :=
  match w with
  | .bwait _ _ _ => false
  | .mwait _ _ => false
  | .tlwait _ _ _ => false
  | .fill _ _ => true
  | .refill _ _ => true
  | .gdone _ => true
  | .smp _ => true
  | .retry => true
  | .bar _ => false
  | .regang _ _ => false
  | .sleep _ _ => false

/-- A gang whose instruction has to wait has not issued: the port's order is as before. [MARK DEDUCED log 13] -/
def unmark (old : Group) (s : State) (t g k : Nat) : State :=
  modGroup s t g (fun gr =>
    match (gangAt gr k).bind (fun q => q.wait) with
    | some w =>
      if polled w.kind then { gr with lastIssue := old.lastIssue, lastGang := old.lastGang, curPrio := old.curPrio, yielded := old.yielded, readySince := old.readySince }
      else gr
    | none => gr)

/-! ### The cycle -/

/-- Rule 6 of R322: a group with no ready gang does not count towards its promotion. -/
def pauseCount (s : State) (t : Nat) (tm : Team) (gr : Group) : Group :=
  { gr with readySince := if gr.gangs.any (gangReady s t tm gr) then gr.readySince else gr.readySince + 1 }

/-- Is a constructor of `Instr` an event, not a word that a gang issues? [MARK DESIGN CHOICE log 3] -/
def isEvent (i : Instr) : Bool :=
  match i with
  | .filler => false
  | .poolHeader _ => false
  | i => (operands i).isNone

/-! ### One step, given the meanings of instructions and events -/

/-- The meanings: `exec` of Dispatch.lean. -/
abbrev Meaning := Instr → State → Host.Outcome State Fault Refusal

/-- A gang fetches at its program counter and issues what it reads (R142, R146); the class-0 conditions of the words themselves stop it as
an instruction of issue kind. Fillers and pool headers take no issue slot (R143, R144). -/
def attempt (run : Meaning) (s : State) (c : Issuer) (tm : Team) (gr : Group) (q : Gang) : Host.Outcome State Fault Refusal :=
  let pc := (sliceOf gr c.k).pc
  match fetch s c.t c.g c.k tm gr q with
  | .stop s' => .next s'
  | .bad code => .next (deliver s c.t c.g c.k pc true { cls := 0, code := code, mask := gangExec gr q.members })
  | .word i =>
    let s' := tlbNote s (whoOf tm) (pc.toNat % 2 ^ 57)
    match run i (if (operands i).isSome then markIssue s' c.t c.g c.k else { s' with cur := some c }) with
    | .next s' => .next (unmark gr s' c.t c.g c.k)
    | x => x

/-- A gang that may issue does so (R44). [MARK DESIGN CHOICE log 14] -/
def issueWith (run : Meaning) (s : State) (c : Issuer) : Host.Outcome State Fault Refusal :=
  match teamOf s c.t, groupOf s c.t c.g with
  | some tm, some gr =>
    match gangAt gr c.k with
    | none => .refused .noIssuer
    | some q => if gangReady s c.t tm gr q then attempt run s c tm gr q else .refused .eventNotEnabled
  | _, _ => .refused .noIssuer

/-! ### Waits that end (R50) -/

/-- The kind of a gang's wait. -/
def waitKind (s : State) (t g k : Nat) : Option WaitKind :=
  ((groupOf s t g).bind (fun gr => gangAt gr k)).bind (fun q => q.wait.map (fun w => w.kind))

/-- A gang has completed the instruction it waited at. [MARK DEDUCED log 13] -/
def passWait (s : State) (t g k : Nat) (next : W64) : State :=
  modGroup s t g (fun gr =>
    match gangAt gr k with
    | some q => modGang (modMembers gr q.members (fun _ x => { x with pc := next })) k (woken s.cycle.toNat)
    | none => gr)

/-- A gang leaves its wait and issues its instruction again. -/
def endWait (s : State) (t g k : Nat) : State := modGroup s t g (fun gr => modGang gr k (woken s.cycle.toNat))

/-- What a gang that the scoreboard, a queue or an engine holds back waits at: a touch whose fill is over has still to be made again
(R113). [MARK DEDUCED log 13] -/
def heldKind (q : Gang) : WaitKind :=
  match q.wait with
  | some w => (match w.kind with
    | .fill b u => .refill b u
    | .refill b u => .refill b u
    | _ => .retry)
  | none => .retry

/-- A gang that could issue is not ready where its instruction would have to wait for the scoreboard, a queue or an engine (R44, R322).
[MARK DEDUCED log 13] -/
def probeGang (run : Meaning) (s : State) (t g k : Nat) : State :=
  match teamOf s t, groupOf s t g with
  | some tm, some gr =>
    match gangAt gr k with
    | none => s
    | some q =>
      let blocked := gangReady s t tm gr q && (match attempt run s { t := t, g := g, k := k } tm gr q with
          | .next s' => waitKind s' t g k == some .retry
          | _ => false)
      modGroup s t g (fun gr => modGang gr k (fun q => { q with wait := if blocked then some { kind := heldKind q, since := s.cycle.toNat, posted := false } else q.wait }))
  | _, _ => s

/-- An instruction that the scoreboard, a queue or an engine has held back is tried: it goes on as far as it can, and once nothing holds it
back its gang is ready, by `free`. [MARK DEDUCED log 13] -/
def retryGang (run : Meaning) (s : State) (t g k : Nat) (tm : Team) (gr : Group) (q : Gang) (free : State → State) : State :=
  if !(match gr.handler with | some h => h.saved.any (fun x => q.members.getLsbD x.slice) | none => true) then s
  else match attempt run s { t := t, g := g, k := k } tm gr q with
  | .next s' => if waitKind s' t g k = some .retry then { modGroup s' t g (fun gr => modGang gr k (fun x => { x with wait := q.wait })) with cur := none } else free s
  | _ => free s

/-- The wait of a gang at the end of a cycle. A BWAIT, MWAIT or TLWAIT whose condition holds completes; one whose object is no more is
tried again. An instruction that the scoreboard, a queue or an engine holds back is tried; a gang whose next instruction would wait so is
not ready (R44). [MARKS DESIGN CHOICE log 11, DEDUCED log 13] -/
def pollGang (run : Meaning) (s : State) (t g k : Nat) : State :=
  match teamOf s t, groupOf s t g with
  | some tm, some gr =>
    match gangAt gr k with
    | none => s
    | some q =>
      match q.wait with
      | none => probeGang run s t g k
      | some w =>
        let pass := fun (next : W64) (scope : Nat) =>
          if waitOver s t tm gr w.kind then probeGang run (acquire (passWait s t g k next) t g tm.core scope) t g k else s
        if tm.phase != .running || !ctxRuns s tm.ctx then s
        else match w.kind with
        | .bwait off _ next => if (mget tm.objs (off / 16)).isNone then endWait s t g k else pass next 1
        | .mwait _ next => pass next 1
        | .tlwait _ _ next => pass next 4
        | .fill _ _ => probeGang run s t g k
        | .refill b u => retryGang run s t g k tm gr q (fun s => setWait s t g k (.fill b u))
        | .retry => retryGang run s t g k tm gr q (fun s => endWait s t g k)
        | _ => s
  | _, _ => s

/-- Every gang, by team, group and lowest member. [MARK DEDUCED log 13] -/
def allGangs (s : State) : List (Nat × Nat × Nat) :=
  s.teams.flatMap (fun e => (e.2.groups.mapIdx (fun g gr => (gr.gangs.filter (fun q => q.members != 0)).map (fun q => (e.1, g, leadOf q.members)))).flatten)

/-- The waits that end in a cycle end (R50). [MARK DEDUCED log 13] -/
def pollWaits (run : Meaning) (s : State) : State := (allGangs s).foldl (fun s x => pollGang run s x.1 x.2.1 x.2.2) s

/-! ### The end of a cycle -/

/-- A core cycle counts, and the L2 cycles that pass with it: 2.0 GHz against the core clock (R1, R24, R350).
[MARK DESIGN CHOICE log 5] -/
def tick (s : State) : State :=
  let p := s.l2part + 2000
  let f := s.tele.clock.toNat
  { s with cycle := s.cycle + 1, l2cycle := s.l2cycle + p / f, l2part := p % f }

/-- The promotions that are due are made (R322). -/
def promoteAll (s : State) : State :=
  { s with teams := s.teams.map (fun (e : Nat × Team) => (e.1, { e.2 with groups := e.2.groups.map (fun gr =>
      let due := promotionDue s e.1 e.2 gr
      { gr with curPrio := if due then gr.curPrio + 1 else gr.curPrio, readySince := if due then s.cycle.toNat else gr.readySince }) })) }

/-- The requests to peers whose bound has elapsed fail (R457). [MARK DESIGN CHOICE log 32] -/
def failOverdue (s : State) : State :=
  (s.peerReqs.filter (overdue s)).foldl (fun s q =>
    match execPeerRequestTimeout q.id s with
    | .next s' => s'
    | _ => s) s

/-- An event that is due happens, if it can. [MARK DEDUCED log 167] -/
def ifDue (s : State) (r : Host.Outcome State Fault Refusal) : State :=
  match r with
  | .next s' => s'
  | _ => s

/-- What is due at the end of a cycle, whatever the agenda has chosen: the watchdogs of waits, of starved lanes and of tracked LAUNCHes
(R377, R378, R390), sessions without a sign of life (R462), an Ethernet link lost for long (R461). [MARK DEDUCED log 167] -/
def deadlines (s : State) : State :=
  let s := (allGangs s).foldl (fun s x => let s := ifDue s (execWaitWatchdog x.1 x.2.1 x.2.2 s); ifDue s (execStarvedLanes x.1 x.2.1 x.2.2 s)) s
  let s := (s.ctxs.flatMap (fun e => e.2.tracked.map (fun x => (e.1, x.id)))).foldl (fun s x => ifDue s (execResidencyReportOverdue x.1 x.2 s)) s
  let s := (s.sessions.map Prod.fst).foldl (fun s n => ifDue s (execSessionHeartbeatExpiry n s)) s
  ifDue s (execEthernetLinkDown s)

/-- The gangs that wait at SLEEP. -/
def sleeping (s : State) : List (Nat × Nat × Nat) :=
  (allGangs s).filter (fun x => match waitKind s x.1 x.2.1 x.2.2 with | some (.sleep _ _) => true | _ => false)

/-- The gangs, of those given, whose SLEEP ends with the new value of the cycle counter (R178). [MARK DEDUCED log 167] -/
def wakeAll (run : Meaning) (gs : List (Nat × Nat × Nat)) (s : State) : State :=
  gs.foldl (fun s x => match execSleepExpiry x.1 x.2.1 x.2.2 s with
    | .next s' => probeGang run s' x.1 x.2.1 x.2.2
    | _ => s) s

/-- The end of a step: a host operation goes on, what has completed is released, suspended copies enter their engines, blocks that have become unpinned are noted, what is
due happens, waits end, and the cycle counts. [MARKS DESIGN CHOICE log 5, DEDUCED log 167] -/
def endCycle (run : Meaning) (s : State) : State :=
  let s := endedWrites (answerVacates (pumpHost s))
  let s := (s.teams.map Prod.fst).foldl enterCopy (failOverdue s)
  let s := (s.ctxs.map Prod.fst).foldl notePins ((s.ctxs.map Prod.fst).foldl payOwed s)
  let s := deadlines s
  let sleepers := sleeping s
  let s := pollWaits run s
  let s := tick { s with
    cur := none
    teams := s.teams.map (fun (e : Nat × Team) => (e.1, { e.2 with groups := e.2.groups.map (pauseCount s e.1 e.2) })) }
  promoteAll (wakeAll run sleepers s)

/-- With no agenda: the first event that can happen, else an issue, else an idle cycle.
[MARKS DESIGN CHOICE log 3, DESIGN CHOICE log 11] -/
def autoWith (run : Meaning) (s : State) : Host.Outcome State Fault Refusal :=
  match (dueEvents s).findSome? (fun i => match run i s with | .next s' => some s' | _ => none) with
  | some s' => .next s'
  | none => match pickIssue s with
    | some c => issueWith run s c
    | none => .next s

/-- Issues of several gangs in one cycle, none a second of its port's: conditions that two teams meet are both recorded before either team
aborts (R322, R394). [MARK DESIGN CHOICE log 144] -/
def issueAll (run : Meaning) (s : State) (gs : List Issuer) : Host.Outcome State Fault Refusal :=
  if gs = [] ∨ !(gs.eraseDups == gs && gs.all (fun c => (choices s).any (fun r => r.t == c.t && r.g == c.g && nextGang r == c.k))) then .refused .eventNotEnabled
  else
    match gs.foldl (fun (x : Host.Outcome State Fault Refusal) c => match x with | .next s => issueWith run s c | x => x) (.next { s with putOff := some [] }) with
    | .next s => .next (takeAborts s)
    | x => x

/-- One item of the agenda: an event, or issues of gangs that their ports may take now (R322). [MARK DESIGN CHOICE log 3] -/
def actWith (run : Meaning) (s : State) (a : Act) : Host.Outcome State Fault Refusal :=
  match a with
  | .event i => if isEvent i then run i s else .refused .notAnEvent
  | .issue t g k =>
    if (choices s).any (fun r => r.t == t && r.g == g && nextGang r == k) then issueWith run s { t := t, g := g, k := k }
    else .refused .eventNotEnabled
  | .issues gs => issueAll run s gs

/-- Does the agenda begin with power-good and reset? -/
def powersOn (s : State) : Bool :=
  match s.agenda with
  | .event (.powerOnReset _ _ _) :: _ => true
  | _ => false

/-- One step: an item of the agenda, or the package's own choice; a package that the boot ROM holds in reset runs nothing (R469).
[MARK DESIGN CHOICE log 3] -/
def stepWith (run : Meaning) (s : State) : Host.Outcome State Fault Refusal :=
  if s.boot.held && !powersOn s then .fault .heldInReset
  else
    match (match s.agenda with
      | [] => autoWith run s
      | a :: r => actWith run { s with agenda := r } a) with
    | .next s' => .next (endCycle run s')
    | x => x

/-! ### A program in place -/

/-- The group that `placedState` runs: one gang of eight slices at an address, all lanes active. [MARK DESIGN CHOICE log 2] -/
def placedGroup (pc : W64) : Group :=
  { role := 0, roleIndex := 0, budget := 8, port := 0, slot := 0,
    slices := List.replicate 8 { pc := pc, rentry := pc, exec := 0xF, vcc := 0, scc := false, sregs := [], fmt := 0, exited := false, barPass := 0, replay := 0 },
    gangs := [{ members := 0xFF, wait := none, spinSince := 0, seen := [], starved := 0 }], vregs := [], queue := [], fmask := 0, firstOff := none,
    basePrio := 0, curPrio := 0, lastIssue := none, yielded := false, readySince := 0, lastGang := 7, cg := 0, openJobs := [], pending := [], doneCg := 0,
    lastJob := none, lastProgress := 0, handler := none, returns := [], allocs := [], hallocs := [], acqSeq := 0, relFence := 0, acqs := [], retired := false }

/-- Page tables at 0x10000, 0x14000 and 0x18000 map virtual addresses below 2^27 to the same physical ones, with every permission.
[MARK DESIGN CHOICE log 2] -/
def placedTables : List (Nat × Nat) := [(0x10000, 0x14001), (0x14000, 0x18001), (0x18000, 0x3B)]

/-- A running package with context 0, a privileged grid of one team of one group on core 0, and `code` at address 0x20000, which the
next step issues from: what firmware, the host and a launch would have brought about (R346, R308, R318).
[MARK DESIGN CHOICE log 2] -/
def placedState (s : State) (code : List Byte) : State :=
  let ctx : Ctx := { freshCtx { session := 0, frames := [0x10000], root := 0x10000, packet := List.replicate 64 0, slotBase := 0, slots := 1 } 1 with endpoint := none }
  let tm : Team := { Team.blank with phase := .running, started := true, groups := [placedGroup 0x20000], scratchBytes := 4096, tiles := [{ zeroed := false, nonce := 0, cells := [] }], priv := true }
  let gd : Grid := { ctx := 0, mb := 0, slot := 0, slotAddr := 0, packet := List.replicate 64 0, priv := true, next := 1, retired := 0, total := 1, bypass := 0, blocking := false, aborted := false, reply := none, firstTeam := some 0, reported := true, gen := none }
  let mem := placedTables.foldl (fun m e => writeBytes m e.1 (bytesOf 8 e.2)) s.mem
  let boot := { s.boot with running := true, recovery := false, held := false }
  { s with boot := boot, mem := writeBytes mem 0x20000 code, ctxs := mput s.ctxs 0 ctx, grids := mput s.grids 0 gd, teams := mput s.teams 0 tm, nextId := max 1 s.nextId, agenda := [.issue 0 0 0] }

end Sys2Proof.Machine
end

