-- ==== Sys2Proof/Machine/Dispatch.lean ====
section
/-! DEFINITION. The one map from instructions and events to their meanings. -/

namespace Sys2Proof.Machine

/-- The meaning of every instruction and event. -/
def exec (i : Instr) (s : State) : Host.Outcome State Fault Refusal :=
  match i with
  | .nop o => Sys2Proof.Machine.execNop o s
  | .br o => Sys2Proof.Machine.execBr o s
  | .brc o => Sys2Proof.Machine.execBrc o s
  | .bexecz o => Sys2Proof.Machine.execBexecz o s
  | .bexecnz o => Sys2Proof.Machine.execBexecnz o s
  | .brany o => Sys2Proof.Machine.execBrany o s
  | .brall o => Sys2Proof.Machine.execBrall o s
  | .call o => Sys2Proof.Machine.execCall o s
  | .ret o => Sys2Proof.Machine.execRet o s
  | .jmpi o => Sys2Proof.Machine.execJmpi o s
  | .regang o => Sys2Proof.Machine.execRegang o s
  | .region o => Sys2Proof.Machine.execRegion o s
  | .yield o => Sys2Proof.Machine.execYield o s
  | .sleep o => Sys2Proof.Machine.execSleep o s
  | .sleepExpiry t g k => Sys2Proof.Machine.execSleepExpiry t g k s
  | .exit o => Sys2Proof.Machine.execExit o s
  | .trap o => Sys2Proof.Machine.execTrap o s
  | .bar o => Sys2Proof.Machine.execBar o s
  | .getid o => Sys2Proof.Machine.execGetid o s
  | .sfmt o => Sys2Proof.Machine.execSfmt o s
  | .smov o => Sys2Proof.Machine.execSmov o s
  | .sadd o => Sys2Proof.Machine.execSadd o s
  | .ssub o => Sys2Proof.Machine.execSsub o s
  | .smul o => Sys2Proof.Machine.execSmul o s
  | .smulhi o => Sys2Proof.Machine.execSmulhi o s
  | .smulhu o => Sys2Proof.Machine.execSmulhu o s
  | .sand o => Sys2Proof.Machine.execSand o s
  | .sor o => Sys2Proof.Machine.execSor o s
  | .sxor o => Sys2Proof.Machine.execSxor o s
  | .sandn o => Sys2Proof.Machine.execSandn o s
  | .sshl o => Sys2Proof.Machine.execSshl o s
  | .sshr o => Sys2Proof.Machine.execSshr o s
  | .ssra o => Sys2Proof.Machine.execSsra o s
  | .smin o => Sys2Proof.Machine.execSmin o s
  | .smax o => Sys2Proof.Machine.execSmax o s
  | .sminu o => Sys2Proof.Machine.execSminu o s
  | .smaxu o => Sys2Proof.Machine.execSmaxu o s
  | .scmp o => Sys2Proof.Machine.execScmp o s
  | .ssel o => Sys2Proof.Machine.execSsel o s
  | .sbfe o => Sys2Proof.Machine.execSbfe o s
  | .sbfi o => Sys2Proof.Machine.execSbfi o s
  | .sclz o => Sys2Proof.Machine.execSclz o s
  | .spopc o => Sys2Proof.Machine.execSpopc o s
  | .sff1 o => Sys2Proof.Machine.execSff1 o s
  | .sdivu o => Sys2Proof.Machine.execSdivu o s
  | .sremu o => Sys2Proof.Machine.execSremu o s
  | .sbrev o => Sys2Proof.Machine.execSbrev o s
  | .sadd64 o => Sys2Proof.Machine.execSadd64 o s
  | .ssub64 o => Sys2Proof.Machine.execSsub64 o s
  | .smul64 o => Sys2Proof.Machine.execSmul64 o s
  | .sshl64 o => Sys2Proof.Machine.execSshl64 o s
  | .sshr64 o => Sys2Proof.Machine.execSshr64 o s
  | .scmp64 o => Sys2Proof.Machine.execScmp64 o s
  | .smov64 o => Sys2Proof.Machine.execSmov64 o s
  | .msave o => Sys2Proof.Machine.execMsave o s
  | .mset o => Sys2Proof.Machine.execMset o s
  | .mnot o => Sys2Proof.Machine.execMnot o s
  | .mcount o => Sys2Proof.Machine.execMcount o s
  | .vmov o => Sys2Proof.Machine.execVmov o s
  | .vadd o => Sys2Proof.Machine.execVadd o s
  | .vsub o => Sys2Proof.Machine.execVsub o s
  | .vmul o => Sys2Proof.Machine.execVmul o s
  | .vmulhi o => Sys2Proof.Machine.execVmulhi o s
  | .vmad o => Sys2Proof.Machine.execVmad o s
  | .vand o => Sys2Proof.Machine.execVand o s
  | .vor o => Sys2Proof.Machine.execVor o s
  | .vxor o => Sys2Proof.Machine.execVxor o s
  | .vshl o => Sys2Proof.Machine.execVshl o s
  | .vshr o => Sys2Proof.Machine.execVshr o s
  | .vsra o => Sys2Proof.Machine.execVsra o s
  | .vmin o => Sys2Proof.Machine.execVmin o s
  | .vmax o => Sys2Proof.Machine.execVmax o s
  | .vcmp o => Sys2Proof.Machine.execVcmp o s
  | .vsel o => Sys2Proof.Machine.execVsel o s
  | .vbfe o => Sys2Proof.Machine.execVbfe o s
  | .vbfi o => Sys2Proof.Machine.execVbfi o s
  | .vpopc o => Sys2Proof.Machine.execVpopc o s
  | .vclz o => Sys2Proof.Machine.execVclz o s
  | .vaddc o => Sys2Proof.Machine.execVaddc o s
  | .vfadd o => Sys2Proof.Machine.execVfadd o s
  | .vfsub o => Sys2Proof.Machine.execVfsub o s
  | .vfmul o => Sys2Proof.Machine.execVfmul o s
  | .vfma o => Sys2Proof.Machine.execVfma o s
  | .vfmin o => Sys2Proof.Machine.execVfmin o s
  | .vfmax o => Sys2Proof.Machine.execVfmax o s
  | .vfcmp o => Sys2Proof.Machine.execVfcmp o s
  | .vfract o => Sys2Proof.Machine.execVfract o s
  | .vfloor o => Sys2Proof.Machine.execVfloor o s
  | .vfceil o => Sys2Proof.Machine.execVfceil o s
  | .vfrnde o => Sys2Proof.Machine.execVfrnde o s
  | .vftrunc o => Sys2Proof.Machine.execVftrunc o s
  | .vfdot2 o => Sys2Proof.Machine.execVfdot2 o s
  | .vfclass o => Sys2Proof.Machine.execVfclass o s
  | .vrcp o => Sys2Proof.Machine.execVrcp o s
  | .vrsq o => Sys2Proof.Machine.execVrsq o s
  | .vsqrt o => Sys2Proof.Machine.execVsqrt o s
  | .vexp2 o => Sys2Proof.Machine.execVexp2 o s
  | .vlog2 o => Sys2Proof.Machine.execVlog2 o s
  | .vsin o => Sys2Proof.Machine.execVsin o s
  | .vcos o => Sys2Proof.Machine.execVcos o s
  | .vdiv o => Sys2Proof.Machine.execVdiv o s
  | .vcvt o => Sys2Proof.Machine.execVcvt o s
  | .vpack o => Sys2Proof.Machine.execVpack o s
  | .vunpack o => Sys2Proof.Machine.execVunpack o s
  | .vquant o => Sys2Proof.Machine.execVquant o s
  | .vdeq o => Sys2Proof.Machine.execVdeq o s
  | .vscale o => Sys2Proof.Machine.execVscale o s
  | .qrange o => Sys2Proof.Machine.execQrange o s
  | .vlane o => Sys2Proof.Machine.execVlane o s
  | .vbcast o => Sys2Proof.Machine.execVbcast o s
  | .vshuf o => Sys2Proof.Machine.execVshuf o s
  | .vrot o => Sys2Proof.Machine.execVrot o s
  | .vswz o => Sys2Proof.Machine.execVswz o s
  | .vreduce o => Sys2Proof.Machine.execVreduce o s
  | .vscan o => Sys2Proof.Machine.execVscan o s
  | .vfirst o => Sys2Proof.Machine.execVfirst o s
  | .vballot o => Sys2Proof.Machine.execVballot o s
  | .vreadl o => Sys2Proof.Machine.execVreadl o s
  | .vwritel o => Sys2Proof.Machine.execVwritel o s
  | .vunif o => Sys2Proof.Machine.execVunif o s
  | .vld o => Sys2Proof.Machine.execVld o s
  | .vst o => Sys2Proof.Machine.execVst o s
  | .vstSequential o => Sys2Proof.Machine.execVstSequential o s
  | .vldx o => Sys2Proof.Machine.execVldx o s
  | .vstx o => Sys2Proof.Machine.execVstx o s
  | .sld o => Sys2Proof.Machine.execSld o s
  | .sst o => Sys2Proof.Machine.execSst o s
  | .vpref o => Sys2Proof.Machine.execVpref o s
  | .ldrec o => Sys2Proof.Machine.execLdrec o s
  | .vlds o => Sys2Proof.Machine.execVlds o s
  | .vsts o => Sys2Proof.Machine.execVsts o s
  | .slds o => Sys2Proof.Machine.execSlds o s
  | .ssts o => Sys2Proof.Machine.execSsts o s
  | .acczero o => Sys2Proof.Machine.execAcczero o s
  | .accrd o => Sys2Proof.Machine.execAccrd o s
  | .accwr o => Sys2Proof.Machine.execAccwr o s
  | .accst o => Sys2Proof.Machine.execAccst o s
  | .accld o => Sys2Proof.Machine.execAccld o s
  | .cbld o => Sys2Proof.Machine.execCbld o s
  | .vatom o => Sys2Proof.Machine.execVatom o s
  | .vatoms o => Sys2Proof.Machine.execVatoms o s
  | .satom o => Sys2Proof.Machine.execSatom o s
  | .fence o => Sys2Proof.Machine.execFence o s
  | .fenceSmp o => Sys2Proof.Machine.execFenceSmp o s
  | .vsample o => Sys2Proof.Machine.execVsample o s
  | .vgather4 o => Sys2Proof.Machine.execVgather4 o s
  | .vsamplel o => Sys2Proof.Machine.execVsamplel o s
  | .samplerReturn t g r => Sys2Proof.Machine.execSamplerReturn t g r s
  | .tcopy o => Sys2Proof.Machine.execTcopy o s
  | .tcopyx o => Sys2Proof.Machine.execTcopyx o s
  | .tpeer o => Sys2Proof.Machine.execTpeer o s
  | .copyBytesLand copy => Sys2Proof.Machine.execCopyBytesLand copy s
  | .copyComplete copy => Sys2Proof.Machine.execCopyComplete copy s
  | .barinit o => Sys2Proof.Machine.execBarinit o s
  | .barexp o => Sys2Proof.Machine.execBarexp o s
  | .bararv o => Sys2Proof.Machine.execBararv o s
  | .bwait o => Sys2Proof.Machine.execBwait o s
  | .btest o => Sys2Proof.Machine.execBtest o s
  | .tlwait o => Sys2Proof.Machine.execTlwait o s
  | .tlsig o => Sys2Proof.Machine.execTlsig o s
  | .tlrd o => Sys2Proof.Machine.execTlrd o s
  | .mbpost o => Sys2Proof.Machine.execMbpost o s
  | .launch o => Sys2Proof.Machine.execLaunch o s
  | .satrd o => Sys2Proof.Machine.execSatrd o s
  | .mjob o => Sys2Proof.Machine.execMjob o s
  | .commit o => Sys2Proof.Machine.execCommit o s
  | .mwait o => Sys2Proof.Machine.execMwait o s
  | .mquery o => Sys2Proof.Machine.execMquery o s
  | .jobStepCommit core => Sys2Proof.Machine.execJobStepCommit core s
  | .tagalloc o => Sys2Proof.Machine.execTagalloc o s
  | .tagset o => Sys2Proof.Machine.execTagset o s
  | .tagfree o => Sys2Proof.Machine.execTagfree o s
  | .rvsend o => Sys2Proof.Machine.execRvsend o s
  | .rvsendg o => Sys2Proof.Machine.execRvsendg o s
  | .rendezvousArrival send => Sys2Proof.Machine.execRendezvousArrival send s
  | .rendezvousTimeout ctx index => Sys2Proof.Machine.execRendezvousTimeout ctx index s
  | .rendezvousDelivery entry dest => Sys2Proof.Machine.execRendezvousDelivery entry dest s
  | .gdone o => Sys2Proof.Machine.execGdone o s
  | .gfail o => Sys2Proof.Machine.execGfail o s
  | .prblk o => Sys2Proof.Machine.execPrblk o s
  | .previct o => Sys2Proof.Machine.execPrevict o s
  | .proceduralTouch touch => Sys2Proof.Machine.execProceduralTouch touch s
  | .blockUnpin ctx block => Sys2Proof.Machine.execBlockUnpin ctx block s
  | .generatorAttemptEnd ctx block => Sys2Proof.Machine.execGeneratorAttemptEnd ctx block s
  | .sysrd o => Sys2Proof.Machine.execSysrd o s
  | .syswr o => Sys2Proof.Machine.execSyswr o s
  | .apush o => Sys2Proof.Machine.execApush o s
  | .hentryWrite o => Sys2Proof.Machine.execHentryWrite o s
  | .tret o => Sys2Proof.Machine.execTret o s
  | .tretOff o => Sys2Proof.Machine.execTretOff o s
  | .pmap o => Sys2Proof.Machine.execPmap o s
  | .punmap o => Sys2Proof.Machine.execPunmap o s
  | .punmapRet o => Sys2Proof.Machine.execPunmapRet o s
  | .tlbinvAll o => Sys2Proof.Machine.execTlbinvAll o s
  | .tlbinvPage o => Sys2Proof.Machine.execTlbinvPage o s
  | .tlbinvRange o => Sys2Proof.Machine.execTlbinvRange o s
  | .poolget o => Sys2Proof.Machine.execPoolget o s
  | .haltctx o => Sys2Proof.Machine.execHaltctx o s
  | .haltctxRes o => Sys2Proof.Machine.execHaltctxRes o s
  | .mbreg o => Sys2Proof.Machine.execMbreg o s
  | .prdecl o => Sys2Proof.Machine.execPrdecl o s
  | .prdeclDel o => Sys2Proof.Machine.execPrdeclDel o s
  | .tagpool o => Sys2Proof.Machine.execTagpool o s
  | .poolHeader w => Sys2Proof.Machine.execPoolHeader w s
  | .storeQueueDrain t g => Sys2Proof.Machine.execStoreQueueDrain t g s
  | .loadReturn t g r => Sys2Proof.Machine.execLoadReturn t g r s
  | .l2Fill line victim read => Sys2Proof.Machine.execL2Fill line victim read s
  | .mailboxMessage msg => Sys2Proof.Machine.execMailboxMessage msg s
  | .recordDelivery ctx mb => Sys2Proof.Machine.execRecordDelivery ctx mb s
  | .teamStart t => Sys2Proof.Machine.execTeamStart t s
  | .teamRetire t => Sys2Proof.Machine.execTeamRetire t s
  | .priorityPromotion t g => Sys2Proof.Machine.execPriorityPromotion t g s
  | .waitWatchdog t g k => Sys2Proof.Machine.execWaitWatchdog t g k s
  | .starvedLanes t g k => Sys2Proof.Machine.execStarvedLanes t g k s
  | .residencyReportOverdue ctx launch => Sys2Proof.Machine.execResidencyReportOverdue ctx launch s
  | .hostSend flow ctx mb bytes => Sys2Proof.Machine.execHostSend flow ctx mb bytes s
  | .hostWrite flow ctx offset tl packets => Sys2Proof.Machine.execHostWrite flow ctx offset tl packets s
  | .hostRead flow ctx offset n => Sys2Proof.Machine.execHostRead flow ctx offset n s
  | .hostAcknowledgement msg => Sys2Proof.Machine.execHostAcknowledgement msg s
  | .getVersion session => Sys2Proof.Machine.execGetVersion session s
  | .getCapabilities session => Sys2Proof.Machine.execGetCapabilities session s
  | .negotiateAlgorithms session => Sys2Proof.Machine.execNegotiateAlgorithms session s
  | .keyExchange session => Sys2Proof.Machine.execKeyExchange session s
  | .finish session => Sys2Proof.Machine.execFinish session s
  | .keyUpdate session => Sys2Proof.Machine.execKeyUpdate session s
  | .endSession session => Sys2Proof.Machine.execEndSession session s
  | .createContext r => Sys2Proof.Machine.execCreateContext r s
  | .destroyContext session ctx => Sys2Proof.Machine.execDestroyContext session ctx s
  | .getTelemetry session => Sys2Proof.Machine.execGetTelemetry session s
  | .vacateCores session mask count => Sys2Proof.Machine.execVacateCores session mask count s
  | .restoreCores session mask => Sys2Proof.Machine.execRestoreCores session mask s
  | .bindEndpoint session ctx => Sys2Proof.Machine.execBindEndpoint session ctx s
  | .restart session => Sys2Proof.Machine.execRestart session s
  | .updateFirmware session image rsaOk slhOk => Sys2Proof.Machine.execUpdateFirmware session image rsaOk slhOk s
  | .sessionHeartbeatExpiry session => Sys2Proof.Machine.execSessionHeartbeatExpiry session s
  | .peerRequest r => Sys2Proof.Machine.execPeerRequest r s
  | .peerResponse req bytes code => Sys2Proof.Machine.execPeerResponse req bytes code s
  | .peerRequestTimeout req => Sys2Proof.Machine.execPeerRequestTimeout req s
  | .ualinkLaneFail port lane => Sys2Proof.Machine.execUalinkLaneFail port lane s
  | .bridgeFlitFail dir bulk retries => Sys2Proof.Machine.execBridgeFlitFail dir bulk retries s
  | .powerThrottle mw => Sys2Proof.Machine.execPowerThrottle mw s
  | .powerOnReset steps id hops => Sys2Proof.Machine.execPowerOnReset steps id hops s
  | .teamSave t => Sys2Proof.Machine.execTeamSave t s
  | .contextDrainEnd ctx => Sys2Proof.Machine.execContextDrainEnd ctx s
  | .pathChange device pcls hops => Sys2Proof.Machine.execPathChange device pcls hops s
  | .getDigests session => Sys2Proof.Machine.execGetDigests session s
  | .getCertificate session => Sys2Proof.Machine.execGetCertificate session s
  | .challenge session => Sys2Proof.Machine.execChallenge session s
  | .getMeasurements session => Sys2Proof.Machine.execGetMeasurements session s
  | .heartbeat session => Sys2Proof.Machine.execHeartbeat session s
  | .resetDegradation session => Sys2Proof.Machine.execResetDegradation session s
  | .portKeyRefresh port ok => Sys2Proof.Machine.execPortKeyRefresh port ok s
  | .rowDisturbanceAlert die => Sys2Proof.Machine.execRowDisturbanceAlert die s
  | .filler => Sys2Proof.Machine.execFiller s
  | .teamPlacement => Sys2Proof.Machine.execTeamPlacement s
  | .ethernetLinkDown => Sys2Proof.Machine.execEthernetLinkDown s
  | .ethernetLinkUp => Sys2Proof.Machine.execEthernetLinkUp s
  | .ethernetLossOfLock => Sys2Proof.Machine.execEthernetLossOfLock s

end Sys2Proof.Machine
end

