-- ==== Sys2Proof/Machine/Step.lean ====
section
/-! DEFINITION. One step of the package (Schedule.lean says what it is), and a state whose next step runs a given word. -/

namespace Sys2Proof.Machine

/-- One step. -/
def step (s : State) : Host.Outcome State Fault Refusal := stepWith exec s

/-- `s` with a program in place of which the next step runs the instruction of `nbits` bits `w`, every bit above them 0; words are
little-endian, the first at the lowest address (R5, R142). [MARK DESIGN CHOICE log 2] -/
def State.withFetchWord (s : State) (nbits w : Nat) : State := placedState s (bytesOf 16 (w % 2 ^ nbits))

end Sys2Proof.Machine
end

