-- ==== Sys2Proof/Safety.lean ====
section
/-! DEFINITION. The terms claims are stated in: when a gang issues an instruction undisturbed, what an instruction leaves as it
was, what it does to slices, registers and the rest of the package, and what every step keeps. -/

namespace Sys2Proof.Safety

open Sys2Proof.Machine

/-! ### Issue -/

/-- The gang that `cur` names issues `i` with operands `o`: no result it waits for, no acquire of its group or of another group of its
core that holds it back, none of the conditions of R352 and R354 that every instruction shares, and no damaged word among its sources
(R50, R127, R128, R406). -/
abbrev Issues (s : State) (i : Instr) (o : Operands) (iss : Iss) : Prop :=
  issOf s i o = some iss ∧ pendingReg iss = false ∧ heldByAcquire iss = false ∧ heldByMate s iss = false ∧ sharedTest s iss = none ∧
  badSource s iss = none

/-! ### What stays as it was -/

/-- Nothing of the package but team `iss.t` has changed, and of that team nothing but group `iss.g`, which is now `gr`, and the
list of its damaged words. -/
abbrev OnlyGroup (s t : State) (iss : Iss) (gr : Group) : Prop :=
  t = { s with teams := t.teams } ∧ (∀ a, readByte t.mem a = readByte s.mem a) ∧ (∀ u, u ≠ iss.t → teamOf t u = teamOf s u) ∧
  ∃ bad, teamOf t iss.t = some { iss.tm with groups := lmod iss.tm.groups iss.g (fun _ => gr), bad := bad }

/-- Of the group nothing has changed but its slices, its gangs' waits, its registers, and, after an instruction that closes a
region, the results kept for a replay, those of a handler apart (R283). -/
abbrev GroupKept (iss : Iss) (gr : Group) : Prop :=
  gr = { iss.gr with slices := gr.slices, gangs := gr.gangs, vregs := gr.vregs, handler := gr.handler, allocs := gr.allocs, hallocs := gr.hallocs } ∧
  gr.allocs = (if iss.sg.closes && !shadowed iss.gr iss.k then [] else iss.gr.allocs) ∧
  gr.hallocs = (if iss.sg.closes then [] else iss.gr.hallocs) ∧ gr.slices.length = iss.gr.slices.length ∧
  gr.gangs.map (fun q => q.members) = iss.gr.gangs.map (fun q => q.members) ∧
  gr.handler.map (fun h => { h with ss := [], vs := [] }) = iss.gr.handler.map (fun h => { h with ss := [], vs := [] })

/-- A slice once its gang has gone on at `pc`; an instruction that closes a region makes it the region entry (R40, R41). -/
def movedTo (closes : Bool) (pc : W64) (x : Slice) : Slice :=
  if closes then { x with pc := pc, rentry := pc, barPass := 0, replay := 0 } else { x with pc := pc }

/-- Every member slice is what `f` makes of it, gone on to the next instruction; every other slice is as it was. Scalar
registers apart. -/
abbrev SlicesDone (iss : Iss) (gr : Group) (f : Nat → Slice → Slice) : Prop :=
  ∀ j, j < iss.gr.slices.length →
    { sliceOf gr j with sregs := [] } =
      { (if iss.q.members.getLsbD j then movedTo iss.sg.closes (nextPc iss) (f j (sliceOf iss.gr j)) else sliceOf iss.gr j) with sregs := [] }

/-- Scalar register `n` of slice `j` holds `w j n` where that is some value, and what it held before where it is none. -/
abbrev SregsDone (iss : Iss) (gr : Group) (w : Nat → Nat → Option W32) : Prop :=
  ∀ j n, j < iss.gr.slices.length → n < 64 → sreg gr j n = (w j n).getD (sreg iss.gr j n)

/-- The same of lane `l` of vector register `r`. -/
abbrev VregsDone (iss : Iss) (gr : Group) (w : Nat → Nat → Option W32) : Prop :=
  ∀ r l, l < 32 → vreg gr r l = (w r l).getD (vreg iss.gr r l)

/-- `exec i s` answers a next state in which only the issuing group has changed, and that as `f`, `sw` and `vw` say. -/
abbrev Done (i : Instr) (s : State) (iss : Iss) (f : Nat → Slice → Slice) (sw vw : Nat → Nat → Option W32) : Prop :=
  ∃ t gr, exec i s = .next t ∧ OnlyGroup s t iss gr ∧ GroupKept iss gr ∧ SlicesDone iss gr f ∧ SregsDone iss gr sw ∧ VregsDone iss gr vw

/-! ### The shapes of results -/

/-- No register is written. -/
def noRegs : Nat → Nat → Option W32 := fun _ _ => none

/-- A member slice after a 32-bit scalar result: exec and vcc as destinations take the slice's four bits, exec without the lanes
switched off; scc as a destination takes bit 0, and otherwise what the instruction does to it (R171). -/
def scalarSlice (iss : Iss) (r : Nat → W32 × Option Bool) (j : Nat) (x : Slice) : Slice :=
  let d := dstNum iss.o.dst
  { x with
    exec := if d = 64 then nibble ((r j).1 &&& ~~~iss.gr.fmask) j else x.exec
    vcc := if d = 65 then nibble (r j).1 j else x.vcc
    scc := if d = 66 then (r j).1.getLsbD 0 else (r j).2.getD x.scc }

/-- s0 to s63 of the members take a 32-bit result. -/
def scalarRegs (iss : Iss) (r : Nat → W32 × Option Bool) (j n : Nat) : Option W32 :=
  if iss.q.members.getLsbD j && n == dstNum iss.o.dst then some (r j).1 else none

/-- A 32-bit scalar result: per slice the value, and scc where it is written. -/
abbrev ScalarDone (i : Instr) (s : State) (iss : Iss) (r : Nat → W32 × Option Bool) : Prop :=
  Done i s iss (scalarSlice iss r) (scalarRegs iss r) noRegs

/-- A 64-bit scalar result in a register pair, low word first. -/
abbrev PairDone (i : Instr) (s : State) (iss : Iss) (r : Nat → W64 × Option Bool) : Prop :=
  Done i s iss (fun j x => { x with scc := (r j).2.getD x.scc })
    (fun j n => if iss.q.members.getLsbD j && n == dstNum iss.o.dst then some ((r j).1.extractLsb' 0 32)
      else if iss.q.members.getLsbD j && n == dstNum iss.o.dst + 1 then some ((r j).1.extractLsb' 32 32) else none) noRegs

/-- Only scc of the members is written. -/
abbrev SccDone (i : Instr) (s : State) (iss : Iss) (r : Nat → Bool) : Prop :=
  Done i s iss (fun j x => { x with scc := r j }) noRegs noRegs

/-- The active lanes of one vector register are written. -/
abbrev LaneDone (i : Instr) (s : State) (iss : Iss) (v : Nat → W32) : Prop :=
  Done i s iss (fun _ x => x) noRegs (fun r l => if r == dstNum iss.o.dst && laneIn iss.act l then some (v l) else none)

/-- The mask of the active lanes for which `p` holds. -/
def activeMask (iss : Iss) (p : Nat → Bool) : W32 := maskOf (fun l => laneIn iss.act l && p l)

/-- A lane mask is written to exec, to vcc, or whole to a scalar register of every member slice (R189). -/
abbrev MaskDone (i : Instr) (s : State) (iss : Iss) (p : Nat → Bool) : Prop :=
  ScalarDone i s iss (fun _ => (activeMask iss p, none))

/-! ### What an issue comes to -/

/-- The gang once its instruction is done: the destination's damaged words are whole again (R406), and the next instruction stands. -/
def goneOn (s : State) (iss : Iss) : State := moveOn (healDest s iss) iss (nextPc iss)

/-- The instruction is done, its effect having left `s'`. -/
abbrev GoesOn (i : Instr) (s : State) (iss : Iss) (s' : State) : Prop := exec i s = .next (goneOn s' iss)

/-- The gang waits at `k`, and nothing else changes (R50). -/
abbrev Waits (i : Instr) (s : State) (iss : Iss) (k : WaitKind) : Prop := exec i s = .next (setWait s iss.t iss.g iss.k k)

/-- The instruction stops with a condition, without any effect of its own (R356). -/
abbrev Stops (i : Instr) (s : State) (iss : Iss) (f : Flt) : Prop :=
  exec i s = .next (deliver s iss.t iss.g iss.k iss.pc (iss.sg.kind != .lane) f)

/-- Of the group only vector registers have changed: lane `l` of register `r` to `vw r l` where that is some value. -/
abbrev LanesTo (iss : Iss) (gr : Group) (vw : Nat → Nat → Option W32) : Prop :=
  gr = { iss.gr with vregs := gr.vregs, handler := gr.handler } ∧
  gr.handler.map (fun h => { h with vs := [] }) = iss.gr.handler.map (fun h => { h with vs := [] }) ∧ VregsDone iss gr vw

/-- Of the group only scalar registers have changed: register `n` of slice `j` to `w j n` where that is some value. -/
abbrev ScalarsTo (iss : Iss) (gr : Group) (w : Nat → Nat → Option W32) : Prop :=
  gr = { iss.gr with slices := gr.slices, handler := gr.handler } ∧ gr.slices.map (fun x => { x with sregs := [] }) = iss.gr.slices.map (fun x => { x with sregs := [] }) ∧
  gr.handler.map (fun h => { h with ss := [] }) = iss.gr.handler.map (fun h => { h with ss := [] }) ∧ SregsDone iss gr w

/-- The package with the issuing group replaced. -/
abbrev withGroup (s : State) (iss : Iss) (gr : Group) : State := modGroup s iss.t iss.g (fun _ => gr)

/-! ### What every step keeps -/

/-- HBM keeps its canonical form. -/
abbrev Inv (s : State) : Prop := Memory.wf s.mem = true

/-- A safe step: it answers a next state. -/
abbrev Goes (s : State) : Prop := ∃ t, step s = .next t

end Sys2Proof.Safety
end

