-- ==== Sys2Proof/Certificates/Slice0/Obligations.lean ====
section
/-! DEFINITION. The statements for the provers. -/

open Sys2Proof Sys2Proof.Machine Sys2Proof.Safety

/-! ### Scalar and mask instructions -/

/-- R183: every 32-bit scalar instruction, undisturbed, completes with the value and the scc of the table, written as R171 says;
nothing else of the package changes but the gang going on.
R183, R185: what the bit functions of the scalar and vector classes compute, bit by bit. -/
def Obligations.ScalarResults : Prop :=
  (∀ (s : State) (o : Operands) (iss : Iss),
    let a := fun j => scal32 s iss j o.a
    let b := fun j => scal32 s iss j o.b
    let c := fun j => scal32 s iss j o.c
    (Issues s (.smov o) o iss → ScalarDone (.smov o) s iss (fun j => (a j, none))) ∧
    (Issues s (.sadd o) o iss → ScalarDone (.sadd o) s iss (fun j => (a j + b j, some (decide (2 ^ 32 ≤ (a j).toNat + (b j).toNat))))) ∧
    (Issues s (.ssub o) o iss → ScalarDone (.ssub o) s iss (fun j => (a j - b j, some (decide ((a j).toNat < (b j).toNat))))) ∧
    (Issues s (.smul o) o iss → ScalarDone (.smul o) s iss (fun j => (BitVec.ofNat 32 ((a j).toNat * (b j).toNat), none))) ∧
    (Issues s (.smulhi o) o iss → ScalarDone (.smulhi o) s iss (fun j => (BitVec.ofInt 32 ((a j).toInt * (b j).toInt / 2 ^ 32), none))) ∧
    (Issues s (.smulhu o) o iss → ScalarDone (.smulhu o) s iss (fun j => (BitVec.ofNat 32 ((a j).toNat * (b j).toNat / 2 ^ 32), none))) ∧
    (Issues s (.sand o) o iss → ScalarDone (.sand o) s iss (fun j => (a j &&& b j, some (a j &&& b j != 0)))) ∧
    (Issues s (.sor o) o iss → ScalarDone (.sor o) s iss (fun j => (a j ||| b j, some (a j ||| b j != 0)))) ∧
    (Issues s (.sxor o) o iss → ScalarDone (.sxor o) s iss (fun j => (a j ^^^ b j, some (a j ^^^ b j != 0)))) ∧
    (Issues s (.sandn o) o iss → ScalarDone (.sandn o) s iss (fun j => (a j &&& ~~~(b j), some (a j &&& ~~~(b j) != 0)))) ∧
    (Issues s (.sshl o) o iss → ScalarDone (.sshl o) s iss (fun j => (a j <<< ((b j).toNat % 32), some (a j <<< ((b j).toNat % 32) != 0)))) ∧
    (Issues s (.sshr o) o iss → ScalarDone (.sshr o) s iss (fun j => (a j >>> ((b j).toNat % 32), some (a j >>> ((b j).toNat % 32) != 0)))) ∧
    (Issues s (.ssra o) o iss → ScalarDone (.ssra o) s iss (fun j =>
      ((a j).sshiftRight ((b j).toNat % 32), some ((a j).sshiftRight ((b j).toNat % 32) != 0)))) ∧
    (Issues s (.smin o) o iss → ScalarDone (.smin o) s iss (fun j => (if (a j).toInt < (b j).toInt then a j else b j, none))) ∧
    (Issues s (.smax o) o iss → ScalarDone (.smax o) s iss (fun j => (if (a j).toInt < (b j).toInt then b j else a j, none))) ∧
    (Issues s (.sminu o) o iss → ScalarDone (.sminu o) s iss (fun j => (if (a j).toNat < (b j).toNat then a j else b j, none))) ∧
    (Issues s (.smaxu o) o iss → ScalarDone (.smaxu o) s iss (fun j => (if (a j).toNat < (b j).toNat then b j else a j, none))) ∧
    (Issues s (.ssel o) o iss → ScalarDone (.ssel o) s iss (fun j => (if c j = 0 then b j else a j, none))) ∧
    (Issues s (.sbfe o) o iss → ScalarDone (.sbfe o) s iss (fun j => (bitExtract (mf o 50 50 == 1) (a j) (b j) (c j), none))) ∧
    (Issues s (.sbfi o) o iss → ScalarDone (.sbfi o) s iss (fun j => (bitInsert (a j) (b j) (c j), none))) ∧
    (Issues s (.sclz o) o iss → ScalarDone (.sclz o) s iss (fun j => (leadingZeros (a j), none))) ∧
    (Issues s (.spopc o) o iss → ScalarDone (.spopc o) s iss (fun j => (popCount (a j), some (popCount (a j) != 0)))) ∧
    (Issues s (.sff1 o) o iss → ScalarDone (.sff1 o) s iss (fun j => (firstSet (a j), some (a j != 0)))) ∧
    (Issues s (.sdivu o) o iss → ScalarDone (.sdivu o) s iss (fun j =>
      (if b j = 0 then 0xFFFFFFFF else BitVec.ofNat 32 ((a j).toNat / (b j).toNat), some (b j != 0)))) ∧
    (Issues s (.sremu o) o iss → ScalarDone (.sremu o) s iss (fun j =>
      (if b j = 0 then a j else BitVec.ofNat 32 ((a j).toNat % (b j).toNat), some (b j != 0)))) ∧
    (Issues s (.sbrev o) o iss → ScalarDone (.sbrev o) s iss (fun j => (bitReverse (a j), none)))) ∧
  (∀ (a b c : W32),
    (∀ n, n < 32 → (leadingZeros a).toNat = n → a.getLsbD (31 - n) = true ∧ ∀ m, 31 - n < m → a.getLsbD m = false) ∧
    ((leadingZeros a).toNat = 32 ↔ a = 0) ∧
    (popCount a).toNat = ((List.range 32).filter (fun l => a.getLsbD l)).length ∧
    (a = 0 → firstSet a = 0xFFFFFFFF) ∧
    (a ≠ 0 → a.getLsbD (firstSet a).toNat = true ∧ ∀ m, m < (firstSet a).toNat → a.getLsbD m = false) ∧
    (∀ l, l < 32 → (bitReverse a).getLsbD l = a.getLsbD (31 - l)) ∧
    (let off := b.toNat % 32
     let w := min (c.toNat % 64) (32 - off)
     let f := a.toNat / 2 ^ off % 2 ^ w
     (bitExtract false a b c).toNat = f ∧
     (bitExtract true a b c = BitVec.ofInt 32 (if 0 < w ∧ f.testBit (w - 1) = true then (f : Int) - 2 ^ w else f))) ∧
    (let off := c.toNat % 32
     let w := min (c.toNat / 256 % 64) (32 - off)
     ∀ l, l < 32 → (bitInsert a b c).getLsbD l = (if off ≤ l ∧ l < off + w then b.getLsbD (l - off) else a.getLsbD l)))

/-- R186: the 64-bit instructions write a register pair, low word first, and scc as their table says; a shift count is a 32-bit
operand.
R184: SCMP and SCMP64 write only scc, by the condition in mod [60:57]; ty 0 compares as two's complement. -/
def Obligations.PairAndCompareResults : Prop :=
  (∀ (s : State) (o : Operands) (iss : Iss),
    let a := fun j => scal64 s iss j o.a
    let b := fun j => scal64 s iss j o.b
    let n := fun j => (scal32 s iss j o.b).toNat % 64
    (Issues s (.sadd64 o) o iss → PairDone (.sadd64 o) s iss (fun j => (a j + b j, some (decide (2 ^ 64 ≤ (a j).toNat + (b j).toNat))))) ∧
    (Issues s (.ssub64 o) o iss → PairDone (.ssub64 o) s iss (fun j => (a j - b j, some (decide ((a j).toNat < (b j).toNat))))) ∧
    (Issues s (.smul64 o) o iss → PairDone (.smul64 o) s iss (fun j => (BitVec.ofNat 64 ((a j).toNat * (b j).toNat), none))) ∧
    (Issues s (.sshl64 o) o iss → PairDone (.sshl64 o) s iss (fun j => (a j <<< n j, some (a j <<< n j != 0)))) ∧
    (Issues s (.sshr64 o) o iss → PairDone (.sshr64 o) s iss (fun j => (a j >>> n j, some (a j >>> n j != 0)))) ∧
    (Issues s (.smov64 o) o iss → PairDone (.smov64 o) s iss (fun j => (a j, none)))) ∧
  (∀ (s : State) (o : Operands) (iss : Iss),
    let cond := fun (x y : Int) => match mf o 60 57 with
      | 0 => decide (x = y) | 1 => decide (x ≠ y) | 2 => decide (x < y) | 3 => decide (x ≤ y) | 4 => decide (y < x) | 5 => decide (y ≤ x) | _ => false
    let v := fun {w : Nat} (x : BitVec w) => if mf o 52 50 = 0 then x.toInt else (x.toNat : Int)
    (Issues s (.scmp o) o iss → SccDone (.scmp o) s iss (fun j => cond (v (scal32 s iss j o.a)) (v (scal32 s iss j o.b)))) ∧
    (Issues s (.scmp64 o) o iss → SccDone (.scmp64 o) s iss (fun j => cond (v (scal64 s iss j o.a)) (v (scal64 s iss j o.b)))))

/-- R187: the mask instructions read the gang's exec first, write it to d, then read source A and set each member's exec from the member's
own value without the lanes switched off, and scc to whether the gang's new exec is not zero; a destination scc keeps d (R171). A source
that names d therefore gives the old exec, and of scc its bit 0. MCOUNT counts. -/
def Obligations.MaskResults : Prop :=
  ∀ (s : State) (o : Operands) (iss : Iss),
    let old := gangExec iss.gr iss.q.members
    let d := dstNum o.dst
    let a := fun j => scal32 s iss j o.a
    let a' := fun j => match o.a with
      | .scal n => if n.toNat = d then (if d = 66 then (if old.getLsbD 0 then 1 else 0) else old) else a j
      | _ => a j
    let new := fun (v : Nat → W32) j => nibble (v j &&& ~~~iss.gr.fmask) j
    let some1 := fun (v : Nat → W32) => (membersOf iss.q.members).any (fun j => decide (j < iss.gr.slices.length) && new v j != 0)
    let saves := fun (i : Instr) (v : Nat → W32) =>
      Done i s iss (fun j x => { x with exec := new v j, vcc := if d = 65 then nibble old j else x.vcc, scc := if d = 66 then old.getLsbD 0 else some1 v })
        (fun j n => if iss.q.members.getLsbD j && n == d then some old else none) noRegs
    (Issues s (.msave o) o iss → saves (.msave o) (fun j => old &&& a' j)) ∧
    (Issues s (.mnot o) o iss → saves (.mnot o) (fun j => a' j &&& ~~~old)) ∧
    (Issues s (.mset o) o iss → Done (.mset o) s iss (fun j x => { x with exec := new a j, scc := some1 a }) noRegs noRegs) ∧
    (Issues s (.mcount o) o iss → ScalarDone (.mcount o) s iss (fun j => (popCount (a j &&& old), some (popCount (a j &&& old) != 0))))

/-! ### Vector instructions -/

/-- R192, R194: every integer vector instruction completes; the active lanes of its destination take the value of the table,
element by element, and nothing else changes.
R192, R65: an operation on packed elements acts on each element by itself.
R194: VADDC adds with each active lane's vcc bit as carry in, and leaves the carry out there; vcc bits of other lanes stay. -/
def Obligations.VectorIntegerResults : Prop :=
  (∀ (s : State) (o : Operands) (iss : Iss),
    let w := intWidth (tyOf o)
    let sg := intSigned (tyOf o)
    let x := fun (a : Src) l => lane32 s iss (intTy (tyOf o)) l a
    let r := fun (a : Src) l => lane32 s iss .i32 l a
    let elems := fun (f : BitVec w → BitVec w → BitVec w → BitVec w) l => packed w f (x o.a l) (x o.b l) (x o.c l)
    let less := fun (a b : BitVec w) => if sg then decide (a.toInt < b.toInt) else decide (a.toNat < b.toNat)
    (Issues s (.vmov o) o iss → LaneDone (.vmov o) s iss (fun l => r o.a l)) ∧
    (Issues s (.vadd o) o iss → LaneDone (.vadd o) s iss (elems (fun a b _ => a + b))) ∧
    (Issues s (.vsub o) o iss → LaneDone (.vsub o) s iss (elems (fun a b _ => a - b))) ∧
    (Issues s (.vmul o) o iss → LaneDone (.vmul o) s iss (elems (fun a b _ => BitVec.ofNat w (a.toNat * b.toNat)))) ∧
    (Issues s (.vmulhi o) o iss → LaneDone (.vmulhi o) s iss (elems (fun a b _ =>
      if sg then BitVec.ofInt w (a.toInt * b.toInt / 2 ^ w) else BitVec.ofNat w (a.toNat * b.toNat / 2 ^ w)))) ∧
    (Issues s (.vmad o) o iss → LaneDone (.vmad o) s iss (elems (fun a b c => BitVec.ofNat w (a.toNat * b.toNat + c.toNat)))) ∧
    (Issues s (.vand o) o iss → LaneDone (.vand o) s iss (fun l => r o.a l &&& r o.b l)) ∧
    (Issues s (.vor o) o iss → LaneDone (.vor o) s iss (fun l => r o.a l ||| r o.b l)) ∧
    (Issues s (.vxor o) o iss → LaneDone (.vxor o) s iss (fun l => r o.a l ^^^ r o.b l)) ∧
    (Issues s (.vshl o) o iss → LaneDone (.vshl o) s iss (elems (fun a b _ => a <<< (b.toNat % w)))) ∧
    (Issues s (.vshr o) o iss → LaneDone (.vshr o) s iss (elems (fun a b _ => a >>> (b.toNat % w)))) ∧
    (Issues s (.vsra o) o iss → LaneDone (.vsra o) s iss (elems (fun a b _ => a.sshiftRight (b.toNat % w)))) ∧
    (Issues s (.vmin o) o iss → LaneDone (.vmin o) s iss (elems (fun a b _ => if less a b then a else b))) ∧
    (Issues s (.vmax o) o iss → LaneDone (.vmax o) s iss (elems (fun a b _ => if less a b then b else a))) ∧
    (Issues s (.vsel o) o iss → LaneDone (.vsel o) s iss (fun l =>
      if (match o.c with | .vec _ => r o.c l != 0 | c => (scal32 s iss (l / 4) c).getLsbD l) then r o.a l else r o.b l)) ∧
    (Issues s (.vbfe o) o iss → LaneDone (.vbfe o) s iss (fun l => bitExtract sg (r o.a l) (r o.b l) (r o.c l))) ∧
    (Issues s (.vbfi o) o iss → LaneDone (.vbfi o) s iss (fun l => bitInsert (r o.a l) (r o.b l) (r o.c l))) ∧
    (Issues s (.vpopc o) o iss → LaneDone (.vpopc o) s iss (fun l => popCount (r o.a l))) ∧
    (Issues s (.vclz o) o iss → LaneDone (.vclz o) s iss (fun l => leadingZeros (r o.a l)))) ∧
  (∀ (ty : Nat) (f : BitVec (intWidth ty) → BitVec (intWidth ty) → BitVec (intWidth ty) → BitVec (intWidth ty)) (a b c : W32) (e : Nat),
    e < 32 / intWidth ty →
      elemOf (intWidth ty) (packed (intWidth ty) f a b c) e = f (elemOf (intWidth ty) a e) (elemOf (intWidth ty) b e) (elemOf (intWidth ty) c e)) ∧
  (∀ (s : State) (o : Operands) (iss : Iss),
    let cin := fun l => if laneIn (gangVcc iss.gr iss.q.members) l then 1 else 0
    let sum := fun l => (lane32 s iss .i32 l o.a).toNat + (lane32 s iss .i32 l o.b).toNat + cin l
    Issues s (.vaddc o) o iss →
      Done (.vaddc o) s iss
        (fun j x => { x with vcc := BitVec.ofNat 4 (maskNat (fun i => if laneIn iss.act (4 * j + i) then decide (2 ^ 32 ≤ sum (4 * j + i)) else x.vcc.getLsbD i) 4) })
        noRegs (fun r l => if r == dstNum o.dst && laneIn iss.act l then some (BitVec.ofNat 32 (sum l)) else none))

/-- R193, R198, R199, R209: the instructions whose result is a lane mask: VCMP and VFCMP compare by cond in mod [60:57],
VFCLASS tests the class of each active lane against b, VBALLOT tells the active lanes whose value is not 0, VFIRST the first
active lane of a mask, of the group or of each slice; a lane that is not active gives 0. -/
def Obligations.LaneMaskResults : Prop :=
  ∀ (s : State) (o : Operands) (iss : Iss),
    let r := fun (a : Src) l => lane32 s iss .i32 l a
    let fa := fun l => smodVal (absA o) (negA o) (ofF32 (lane32 s iss .f32 l o.a))
    let fb := fun l => smodVal (absB o) (negB o) (ofF32 (lane32 s iss .f32 l o.b))
    let set := fun j => laneIn iss.act j && (scal32 s iss (j / 4) o.a).getLsbD j
    let value := fun (x : W32) => if intSigned (tyOf o) then x.toInt else (x.toNat : Int)
    (Issues s (.vcmp o) o iss → MaskDone (.vcmp o) s iss (fun l =>
      let x := value (r o.a l)
      let y := value (r o.b l)
      match mf o 60 57 with
      | 0 => decide (x = y) | 1 => decide (x ≠ y) | 2 => decide (x < y) | 3 => decide (x ≤ y) | 4 => decide (y < x) | 5 => decide (y ≤ x) | _ => false)) ∧
    (Issues s (.vfcmp o) o iss → MaskDone (.vfcmp o) s iss (fun l =>
      let un := (fa l).isNan || (fb l).isNan
      match mf o 60 57 with
      | 0 => !un && FVal.eq (fa l) (fb l) | 1 => un || !FVal.eq (fa l) (fb l) | 2 => !un && FVal.lt (fa l) (fb l) | 3 => !un && FVal.le (fa l) (fb l)
      | 4 => !un && FVal.lt (fb l) (fa l) | 5 => !un && FVal.le (fb l) (fa l) | 6 => un | 7 => !un | _ => false)) ∧
    (Issues s (.vfclass o) o iss → MaskDone (.vfclass o) s iss (fun l =>
      (r o.b l).getLsbD (classBit (smodBits (absA o) (negA o) (lane32 s iss .f32 l o.a))))) ∧
    (Issues s (.vballot o) o iss → MaskDone (.vballot o) s iss (fun l => srcLane iss o.a l != 0)) ∧
    (Issues s (.vfirst o) o iss → MaskDone (.vfirst o) s iss (fun l =>
      set l && (List.range 32).all (fun j => !(set j && decide (j < l) && (mf o 50 50 != 1 || decide (j / 4 = l / 4))))))

/-- R195, R196: a class-0x4 instruction computes each element exactly from the modified sources and rounds once, to nearest even. -/
def Obligations.VectorFloatResults : Prop :=
  ∀ (s : State) (o : Operands) (iss : Iss),
    let f := floatOf (tyOf o)
    let x := fun (a : Src) l => lane32 s iss (floatTy (tyOf o)) l a
    let va := fun l e => smodVal (absA o) (negA o) (elemVal f (x o.a l) e)
    let vb := fun l e => smodVal (absB o) (negB o) (elemVal f (x o.b l) e)
    let vc := fun l e => smodVal (absC o) (negC o) (elemVal f (x o.c l) e)
    let rounds := fun (g : FVal → FVal → FVal → FVal) l =>
      BitVec.ofNat 32 ((List.range (32 / f.width)).map (fun e => encodeF f .rne (g (va l e) (vb l e) (vc l e)) * 2 ^ (f.width * e))).sum
    (Issues s (.vfadd o) o iss → LaneDone (.vfadd o) s iss (rounds (fun a b _ => a.add b))) ∧
    (Issues s (.vfsub o) o iss → LaneDone (.vfsub o) s iss (rounds (fun a b _ => a.add b.neg))) ∧
    (Issues s (.vfmul o) o iss → LaneDone (.vfmul o) s iss (rounds (fun a b _ => a.mul b))) ∧
    (Issues s (.vfma o) o iss → LaneDone (.vfma o) s iss (rounds (fun a b c => (a.mul b).add c))) ∧
    (Issues s (.vfmin o) o iss → LaneDone (.vfmin o) s iss (rounds (fun a b _ => a.minNum b))) ∧
    (Issues s (.vfmax o) o iss → LaneDone (.vfmax o) s iss (rounds (fun a b _ => a.maxNum b))) ∧
    (Issues s (.vfract o) o iss → LaneDone (.vfract o) s iss (rounds (fun a _ _ => fractOf f a))) ∧
    (Issues s (.vfloor o) o iss → LaneDone (.vfloor o) s iss (rounds (fun a _ _ => a.integral FVal.floorMag))) ∧
    (Issues s (.vfceil o) o iss → LaneDone (.vfceil o) s iss (rounds (fun a _ _ => a.integral FVal.ceilMag))) ∧
    (Issues s (.vfrnde o) o iss → LaneDone (.vfrnde o) s iss (rounds (fun a _ _ => a.integral (fun _ n d => rdiv .rne n d)))) ∧
    (Issues s (.vftrunc o) o iss → LaneDone (.vftrunc o) s iss (rounds (fun a _ _ => a.integral (fun _ n d => rdiv .rtz n d)))) ∧
    (Issues s (.vfdot2 o) o iss → LaneDone (.vfdot2 o) s iss (fun l =>
      f32 ((((va l 0).mul (vb l 0)).add ((va l 1).mul (vb l 1))).add (smodVal (absC o) (negC o) (ofF32 (lane32 s iss .f32 l o.c))))))

/-- R200: the transcendental instructions complete with the values rcpF32, rsqF32, sqrtF32, exp2F32, log2F32 and trigF32 give for the modified
FP32 source (R200's bounds on them are not stated here); VDIV rounds the exact quotient once.
R201, R200: what those functions give for the special inputs, and sine and cosine for every whole number k of quarter turns.
Model's choices: log 54. -/
def Obligations.FunctionResults : Prop :=
  (∀ (s : State) (o : Operands) (iss : Iss),
    let x := fun l => smodBits (absA o) (negA o) (lane32 s iss .f32 l o.a)
    (Issues s (.vrcp o) o iss → LaneDone (.vrcp o) s iss (fun l => rcpF32 (x l))) ∧
    (Issues s (.vrsq o) o iss → LaneDone (.vrsq o) s iss (fun l => rsqF32 (x l))) ∧
    (Issues s (.vsqrt o) o iss → LaneDone (.vsqrt o) s iss (fun l => sqrtF32 (x l))) ∧
    (Issues s (.vexp2 o) o iss → LaneDone (.vexp2 o) s iss (fun l => exp2F32 (x l))) ∧
    (Issues s (.vlog2 o) o iss → LaneDone (.vlog2 o) s iss (fun l => log2F32 (x l))) ∧
    (Issues s (.vsin o) o iss → LaneDone (.vsin o) s iss (fun l => trigF32 false (x l))) ∧
    (Issues s (.vcos o) o iss → LaneDone (.vcos o) s iss (fun l => trigF32 true (x l))) ∧
    (Issues s (.vdiv o) o iss → LaneDone (.vdiv o) s iss (fun l => f32 (FVal.div
      (smodVal (absA o) (negA o) (ofF32 (lane32 s iss .f32 l o.a))) (smodVal (absB o) (negB o) (ofF32 (lane32 s iss .f32 l o.b)))))) ∧
    (∀ v : W32, smodBits true false v = v &&& 0x7FFFFFFF ∧ smodBits false true v = v ^^^ 0x80000000 ∧ smodBits true true v = v ||| 0x80000000 ∧
      smodBits false false v = v)) ∧
  (let nan : W32 := 0x7FC00000
  (∀ a : W32, a.toNat / 2 ^ 23 % 256 = 255 → a.toNat % 2 ^ 23 ≠ 0 →
    rcpF32 a = nan ∧ rsqF32 a = nan ∧ sqrtF32 a = nan ∧ exp2F32 a = nan ∧ log2F32 a = nan ∧ trigF32 false a = nan ∧ trigF32 true a = nan) ∧
  (∀ a : W32, 0x80000000 < a.toNat → a.toNat < 0xFF800000 → rsqF32 a = nan ∧ sqrtF32 a = nan ∧ log2F32 a = nan) ∧
  (rcpF32 0xFF800000 = 0x80000000 ∧ rcpF32 0x80000000 = 0xFF800000 ∧ rcpF32 0 = 0x7F800000 ∧ rcpF32 0x7F800000 = 0) ∧
  (rsqF32 0xFF800000 = nan ∧ rsqF32 0x80000000 = 0xFF800000 ∧ rsqF32 0 = 0x7F800000 ∧ rsqF32 0x7F800000 = 0) ∧
  (sqrtF32 0xFF800000 = nan ∧ sqrtF32 0x80000000 = 0x80000000 ∧ sqrtF32 0 = 0 ∧ sqrtF32 0x7F800000 = 0x7F800000) ∧
  (exp2F32 0xFF800000 = 0 ∧ exp2F32 0x80000000 = 0x3F800000 ∧ exp2F32 0 = 0x3F800000 ∧ exp2F32 0x7F800000 = 0x7F800000) ∧
  (log2F32 0xFF800000 = nan ∧ log2F32 0x80000000 = 0xFF800000 ∧ log2F32 0 = 0xFF800000 ∧ log2F32 0x7F800000 = 0x7F800000) ∧
  (∀ cos, trigF32 cos 0xFF800000 = nan ∧ trigF32 cos 0x7F800000 = nan) ∧
  (∀ (a : W32) (s : Bool) (n d : Nat) (k : Int), ofF32 a = .fin s n d → (if s then -(4 * n : Int) else 4 * n) = k * d →
    trigF32 false a = (match k % 4 with | 1 => 0x3F800000 | 3 => 0xBF800000 | _ => if s then 0x80000000 else 0) ∧
    trigF32 true a = (match k % 4 with | 0 => 0x3F800000 | 2 => 0xBF800000 | _ => 0)))

/-- R203 to R208, R57, R70: conversion, packing and quantisation, each lane under the fmt of its own slice. VCVT and VQUANT also count their
clamps; the conditions under which an instruction completes are those of R352 and R208 on the fmts and operands. Lanes whose slices hold
one fmt make one block of VQUANT.
Model's choices: log 46, 55, 138, 139, 140, 141, 150 and 168. -/
def Obligations.ConversionResults : Prop :=
  ∀ (s : State) (o : Operands) (iss : Iss),
    let fmt := fun (j : Nat) => (sliceOf iss.gr j).fmt
    let member := fun (j : Nat) => iss.q.members.getLsbD j = true
    let d := dstNum o.dst
    let on := fun (n l : Nat) (r : Nat) => r == n && laneIn iss.act l
    let f := fun (a : Src) l => ofF32 (lane32 s iss .f32 l a)
    let counts := fun (i : Instr) (vw : Nat → Nat → Option W32) (cs : List (Nat × Nat)) =>
      ∃ gr, LanesTo iss gr vw ∧ GoesOn i s iss (cs.foldl (fun s c => countFor s iss.t c.1 c.2) (withGroup s iss gr))
    let clamps := fun (r : Nat → Nat × Bool) (p : Nat → Bool) => ((lanes iss.act).filter (fun l => p l && (r l).2)).length
    (Issues s (.vcvt o) o iss → (∀ j, member j → rndOf (fmt j) ≠ 3) →
      let src := mf o 54 50
      let dst := mf o 59 55
      let w := vcvtWidth src
      let r := fun l => narrow dst 8 (rndOf (fmt (l / 4))) (satOf (fmt (l / 4)) && !widens src dst) (isIntCode src)
        (valueOf src 8 ((lane32 s iss (if src = 1 then .f32 else .i32) l o.a).toNat / 2 ^ (w * mf o 62 60) % 2 ^ w))
      counts (.vcvt o) (fun q l => if on d l q then some (BitVec.ofNat 32 (r l).1) else none) [(dst, clamps r (fun _ => true))]) ∧
    (Issues s (.vquant o) o iss →
      (∀ j, member j → rndOf (fmt j) ≠ 3 ∧ noPlanes (fmt j) (ofmtOf (fmt j)) = false ∧ 2 ≤ ofmtOf (fmt j) ∧ ofmtOf (fmt j) ≤ 23 ∧ ofmtOf (fmt j) ∉ [15, 21] ∧ (isMx (ofmtOf (fmt j)) = true → d + 1 < budgetOf iss)) →
      let own := fun (f : W32) (l : Nat) => fmt (l / 4) == f
      let r := fun l => narrow (ofmtOf (fmt (l / 4))) (planesOf (fmt (l / 4))) (rndOf (fmt (l / 4))) (satOf (fmt (l / 4))) false (((f o.a l).div (f o.b l)).sub (f o.c l))
      let block := fun (g : W32) => mxQuant (ofmtOf g) (rndOf g) (satOf g) ((List.range 32).map (fun l => if laneIn iss.act l && own g l then f o.a l else .fin false 0 1))
      counts (.vquant o) (fun q l =>
          let g := fmt (l / 4)
          if on d l q then some (BitVec.ofNat 32 (if isMx (ofmtOf g) then (block g).2.1.getD l 0 else (r l).1))
          else if on (d + 1) l q && isMx (ofmtOf g) then some (BitVec.ofNat 32 (block g).1) else none)
        ((((membersOf iss.q.members).map fmt).eraseDups).map (fun g => (ofmtOf g, if isMx (ofmtOf g) then (block g).2.2 else clamps r (own g))))) ∧
    (Issues s (.vpack o) o iss → LaneDone (.vpack o) s iss (fun l =>
      BitVec.ofNat 32 ((List.range (packCount o)).map (fun j => (vecSrc iss o.a j l).toNat % 2 ^ packWidth o * 2 ^ (packWidth o * j))).sum)) ∧
    (Issues s (.vunpack o) o iss → Done (.vunpack o) s iss (fun _ x => x) noRegs (fun q l =>
      let x := (vecSrc iss o.a 0 l).toNat / 2 ^ (packWidth o * (q - d)) % 2 ^ packWidth o
      if d ≤ q ∧ q < d + packCount o ∧ laneIn iss.act l = true then
        some (if mf o 53 53 = 1 then BitVec.ofInt 32 (sext (packWidth o) x) else BitVec.ofNat 32 x) else none)) ∧
    (Issues s (.vdeq o) o iss → (∀ j, member j → noPlanes (fmt j) (afmtOf (fmt j)) = false ∧ 2 ≤ afmtOf (fmt j) ∧ afmtOf (fmt j) ≤ 23 ∧ afmtOf (fmt j) ∉ [15, 21]) →
      LaneDone (.vdeq o) s iss (fun l =>
        let g := fmt (l / 4)
        let q := valueOf (afmtOf g) (planesOf g) (lane32 s iss .i32 l o.a).toNat
        if isMx (afmtOf g) then f32 (applyScale ((lane32 s iss .f32 l o.b).toNat % 256) q) else f32 ((f o.b l).mul (q.add (f o.c l))))) ∧
    (Issues s (.vscale o) o iss → LaneDone (.vscale o) s iss (fun l => f32 ((f o.a l).scale (max (-400) (min 400 (lane32 s iss .i32 l o.b).toInt))))) ∧
    (Issues s (.qrange o) o iss →
      let code := fun j => (scal32 s iss j o.c).toNat
      let rg := fun j => if code j = 17 then intRange 8 false else intRange (if code j = 16 then 8 else planesOf (fmt j)) true
      let r := fun l => qrange (lane32 s iss .f32 l o.a) (lane32 s iss .f32 l o.b) (rg (l / 4)).1 (rg (l / 4)).2
      (∀ j, iss.q.members.getLsbD j = true → code j = 16 ∨ code j = 17 ∨ code j = 20 ∧ planesOf (fmt j) ≠ 1) →
      (∀ l, laneIn iss.act l = true → (f o.a l).isFinite = true ∧ (f o.b l).isFinite = true ∧ FVal.lt (f o.b l) (f o.a l) = false) →
      Done (.qrange o) s iss
        (fun j x => { x with
          vcc := BitVec.ofNat 4 (maskNat (fun i => if laneIn iss.act (4 * j + i) then (r (4 * j + i)).2.2 else x.vcc.getLsbD i) 4)
          scc := (List.range 4).all (fun i => !laneIn iss.act (4 * j + i) || (r (4 * j + i)).2.2) })
        noRegs (fun q l => if on (d + 1) l q then some (r l).2.1 else if on d l q then some (r l).1 else none)) ∧
    (∀ lo hi qmin qmax, let r := qrange lo hi qmin qmax
      FVal.eq (ofF32 lo) (ofF32 hi) = true → r = (0x3F800000, lo, false))

/-- R70, R71: a team's saturation counter rises by the clamps made and stays at 2^32 - 1; when a team with eve set takes a counter
from below its limit to the limit or beyond, its message to the event mailbox is sent, once. -/
def Obligations.SaturationCounters : Prop :=
  ∀ (s : State) (t c n : Nat) (tm : Team), teamOf s t = some tm → c < tm.sat.length → c < tm.spent.length →
    let old := (tm.sat.getD c 0).toNat
    let new := min (2 ^ 32 - 1) (old + n)
    let lim := (tm.lim.getD c 0).toNat
    let s' := countClamps s t c n
    (teamOf s' t).map (fun x => x.sat) = some (tm.sat.set c (BitVec.ofNat 32 new)) ∧ s'.mem = s.mem ∧ s'.ctxs = s.ctxs ∧
    (∀ u, u ≠ t → teamOf s' u = teamOf s u) ∧
    (tm.eve = true → lim ≠ 0 → tm.spent.getD c false = false → old < lim → lim ≤ new →
      s'.msgs = s.msgs ++ [{ plainMsg s .calibration tm.ctx tm.evmb (calibrationBytes tm c new lim) with id := s.nextId }] ∧
      (teamOf s' t).map (fun x => x.spent.getD c false) = some true) ∧
    (tm.eve = false ∨ lim = 0 ∨ tm.spent.getD c false = true ∨ lim ≤ old ∨ new < lim → s'.msgs = s.msgs)

/-- R209 to R211: lane exchanges read a lane whether or not it is active; reductions and scans combine the active lanes only; VREADL,
VWRITEL and VUNIF act on single lanes.
Model's choices: log 46. -/
def Obligations.LaneExchangeResults : Prop :=
  ∀ (s : State) (o : Operands) (iss : Iss),
    let b := fun l => (lane32 s iss .i32 l o.b).toNat
    let lane := fun l => srcLane iss o.a l
    let base := fun l => if mf o 55 55 = 1 then 4 * (l / 4) else 0
    let fold := fun (ls : List Nat) => (ls.filter (fun j => laneIn iss.act j)).foldl (fun x j => ropApply (mf o 53 50) x (lane j)) (ropIdentity (mf o 53 50))
    (Issues s (.vlane o) o iss → LaneDone (.vlane o) s iss (fun l => lane (4 * (l / 4) + b l % 4))) ∧
    (Issues s (.vbcast o) o iss → LaneDone (.vbcast o) s iss (fun l => lane (b l % 32))) ∧
    (Issues s (.vshuf o) o iss → LaneDone (.vshuf o) s iss (fun l => lane (b l % 32))) ∧
    (Issues s (.vrot o) o iss → LaneDone (.vrot o) s iss (fun l => lane ((l + b l % 32) % 32))) ∧
    (Issues s (.vswz o) o iss → LaneDone (.vswz o) s iss (fun l => lane (l ^^^ (b l % 32)))) ∧
    (Issues s (.vreduce o) o iss → LaneDone (.vreduce o) s iss (fun l =>
      treeFold (ropApply (mf o 53 50)) (fun j => if laneIn iss.act j then lane j else ropIdentity (mf o 53 50)) (base l) (if mf o 55 55 = 1 then 2 else 5))) ∧
    (Issues s (.vreduce o) o iss → mf o 53 50 < 8 → LaneDone (.vreduce o) s iss (fun l =>
      fold ((List.range (if mf o 55 55 = 1 then 4 else 32)).map (fun i => base l + i)))) ∧
    (Issues s (.vscan o) o iss → LaneDone (.vscan o) s iss (fun l =>
      fold ((List.range (l - base l + (if mf o 54 54 = 1 then 0 else 1))).map (fun i => base l + i)))) ∧
    (Issues s (.vreadl o) o iss → ScalarDone (.vreadl o) s iss (fun j => (lane (scal32 s iss j o.b).toNat, none))) ∧
    (Issues s (.vwritel o) o iss → Done (.vwritel o) s iss (fun _ x => x) noRegs (fun r l =>
      if r == dstNum o.dst && l == (scal32 s iss (l / 4) o.b).toNat % 32 && iss.q.members.getLsbD (l / 4) && !laneIn iss.gr.fmask l then
        some (scal32 s iss (l / 4) o.a) else none)) ∧
    (Issues s (.vunif o) o iss → ScalarDone (.vunif o) s iss (fun _ =>
      let v := match lowest iss.act with | some l => lane l | none => 0
      (v, some ((lanes iss.act).all (fun l => lane l == v))))) ∧
    (∀ r l, l < 32 → o.a = .vec r → lane l = vreg iss.gr r.toNat l)

/-! ### Control -/

/-- R176, R40, R322, R181, R182: NOP changes nothing, REGION makes the region entry its own address, YIELD returns its group to the base
level behind the others, GETID gives the identifiers of R181, and SFMT writes fmt, or raises 0.5 for the slices whose value has a
reserved bit.
R143, R144: a slice that meets a filler goes on at the next 32-byte boundary above it, one that meets a pool header past the pool;
nothing else changes, the region entry included.
Model's choices: log 12, 14, 43 and 149. -/
def Obligations.QuietControl : Prop :=
  (∀ (s : State) (o : Operands) (iss : Iss),
    let v := fun j => scal32 s iss j o.a
    let sel := match o.a with | .lit n => n.toNat | _ => 0
    let dims := match mget s.grids iss.tm.grid with | some gd => gd.packet | none => []
    let dim := fun a n => if iss.tm.gen.isSome then 1 else leNat ((dims.drop a).take n)
    let id := fun (j : Nat) => BitVec.ofNat 32 (match sel with
      | 1 => j | 2 => iss.g | 3 => iss.gr.role | 4 => iss.gr.roleIndex | 5 => iss.tm.x | 6 => iss.tm.y | 7 => iss.tm.z
      | 8 => dim 16 4 | 9 => dim 20 2 | 10 => dim 22 2 | 11 => iss.tm.core | 12 => iss.tm.core / 128 | 13 => s.deviceId.toNat | _ => 0)
    let bad := maskOf (fun l => iss.q.members.getLsbD (l / 4) && (v (l / 4)).extractLsb' 24 8 != 0)
    (Issues s (.nop o) o iss → Done (.nop o) s iss (fun _ x => x) noRegs noRegs) ∧
    (Issues s (.region o) o iss → Done (.region o) s iss (fun _ x => { x with rentry := iss.pc, barPass := 0, replay := 0 }) noRegs noRegs) ∧
    (Issues s (.yield o) o iss → GoesOn (.yield o) s iss (withGroup s iss { iss.gr with curPrio := iss.gr.basePrio, yielded := true })) ∧
    (Issues s (.getid o) o iss → dstScalar o.dst = true → ScalarDone (.getid o) s iss (fun j => (id j, none))) ∧
    (Issues s (.getid o) o iss → dstScalar o.dst = false → LaneDone (.getid o) s iss (fun l => if sel = 0 then BitVec.ofNat 32 l else id (l / 4))) ∧
    (Issues s (.sfmt o) o iss → bad = 0 → Done (.sfmt o) s iss (fun j x => { x with fmt := v j }) noRegs noRegs) ∧
    (Issues s (.sfmt o) o iss → bad ≠ 0 → Stops (.sfmt o) s iss { cls := 0, code := 5, mask := bad })) ∧
  (∀ (s : State) (c : Issuer) (gr : Group) (q : Gang), s.cur = some c → groupOf s c.t c.g = some gr → gangAt gr c.k = some q →
    let pc := (sliceOf gr c.k).pc.toNat
    let goesTo := fun (i : Instr) (a : Nat) => ∃ gr', exec i s = .next (modGroup s c.t c.g (fun _ => gr')) ∧ gr' = { gr with slices := gr'.slices, gangs := gr'.gangs } ∧ gr'.slices.length = gr.slices.length ∧
      (∀ j, j < gr.slices.length → sliceOf gr' j = if q.members.getLsbD j then { sliceOf gr j with pc := BitVec.ofNat 64 (a % 2 ^ 57) } else sliceOf gr j) ∧
      gr'.gangs = gr.gangs.map (fun x => if x.members ≠ 0 ∧ leadOf x.members = c.k then { x with wait := none } else x)
    goesTo .filler ((pc / 32 + 1) * 32) ∧ ∀ w : BitVec 30, goesTo (.poolHeader w) (pc + 8 * (w.toNat % 2 ^ 16)))

/-- R33, R35, R174, R175: a branch moves each member slice to its target or to the next instruction; members that go to one address stay
one gang, others make gangs of their own; CALL also writes the return address. A target that is no multiple of 4 or lies beyond the
57-bit space raises 0.17 in the slices that would take it.
Model's choices: log 42, 44, 149 and 157. -/
def Obligations.BranchResults : Prop :=
  ∀ (s : State) (o : Operands) (iss : Iss),
    let m := iss.q.members
    let next := ((iss.pc + BitVec.ofNat 64 (4 * formWords iss.o.form)).extractLsb' 0 57).setWidth 64
    let rel := fun (_ : Nat) => match o.a with | .lit n => iss.pc + (litVal o .i32 n).signExtend 64 * 4 | _ => iss.pc
    let reg := fun j => scal64 s iss j o.a
    let goes := fun (i : Instr) (take : Nat → Bool) (target : Nat → W64) (sw : Nat → Nat → Option W32) =>
      let bad := maskOf (fun l => m.getLsbD (l / 4) && take (l / 4) && ((target (l / 4)).extractLsb' 0 2 != 0 || (target (l / 4)).extractLsb' 57 7 != 0))
      let npc := fun j => if take j then target j else next
      (bad ≠ 0 → Stops i s iss { cls := 0, code := 17, mask := bad }) ∧
      (bad = 0 → ∃ gr, exec i s = .next (withGroup s iss gr) ∧
        gr = { iss.gr with slices := gr.slices, gangs := gr.gangs, handler := gr.handler } ∧
        gr.handler.map (fun h => { h with ss := [] }) = iss.gr.handler.map (fun h => { h with ss := [] }) ∧
        (∀ j, j < iss.gr.slices.length → { sliceOf gr j with sregs := [] } =
          { (if m.getLsbD j then { sliceOf iss.gr j with pc := npc j } else sliceOf iss.gr j) with sregs := [] }) ∧ SregsDone iss gr sw ∧
        ((∀ i j, m.getLsbD i = true → m.getLsbD j = true → npc i = npc j) →
          gr.gangs.map (fun q => q.members) = iss.gr.gangs.map (fun q => q.members) ∧ ∀ q ∈ gr.gangs, leadOf q.members = iss.k → q.members ≠ 0 → q.wait = none) ∧
        ((∃ i j, m.getLsbD i = true ∧ m.getLsbD j = true ∧ npc i ≠ npc j) →
          ∃ ps : List (BitVec 8), (∀ p ∈ ps, p ≠ 0 ∧ ∀ i j, p.getLsbD i = true → (p.getLsbD j = true ↔ m.getLsbD j = true ∧ npc j = npc i)) ∧
            (∀ i, m.getLsbD i = true → ∃ p ∈ ps, p.getLsbD i = true) ∧
            gr.gangs = iss.gr.gangs.flatMap (fun q => if q.members ≠ 0 ∧ leadOf q.members = iss.k then ps.map (newGang s) else [q])))
    let all := fun (_ : Nat) => true
    let act4 := fun (j : Nat) => nibble iss.act j
    let vcc4 := fun (j : Nat) => nibble (gangVcc iss.gr m) j
    (Issues s (.br o) o iss → goes (.br o) all rel noRegs) ∧
    (Issues s (.brc o) o iss → goes (.brc o) (fun j => (sliceOf iss.gr j).scc == (mf o 50 50 == 0)) rel noRegs) ∧
    (Issues s (.bexecz o) o iss → goes (.bexecz o) (fun _ => iss.act == 0) rel noRegs) ∧
    (Issues s (.bexecnz o) o iss → goes (.bexecnz o) (fun _ => iss.act != 0) rel noRegs) ∧
    (Issues s (.brany o) o iss → goes (.brany o) (fun j => act4 j &&& vcc4 j != 0) rel noRegs) ∧
    (Issues s (.brall o) o iss → goes (.brall o) (fun j => act4 j &&& ~~~(vcc4 j) == 0) rel noRegs) ∧
    (Issues s (.call o) o iss → goes (.call o) all rel (fun j n =>
      if m.getLsbD j && n == dstNum o.dst then some (next.extractLsb' 0 32) else if m.getLsbD j && n == dstNum o.dst + 1 then some (next.extractLsb' 32 32) else none)) ∧
    (Issues s (.ret o) o iss → goes (.ret o) all reg noRegs) ∧
    (Issues s (.jmpi o) o iss → goes (.jmpi o) all reg noRegs)

/-- R178, R50: SLEEP 0 goes on at once, SLEEP n waits until the cycle counter has reached its deadline; then the gang goes on, and not
before.
R36, R37: when every live slice of a group waits at REGANG, slices with one program counter, one tag and one fmt form a gang, which
goes on after the REGANG of its lowest slice; scc says whether all are one gang. Slices of several gangs take the scalar registers of
the lowest, slices of one gang keep theirs. While one live slice does not wait there, nothing is resolved. A REGANG at which every other
live slice of the group waits resolves at once; one at which some other does not wait, and not at BAR either, waits; where the others
wait, some of them at BAR, 7.2 is raised (R374).
Model's choices: log 5, 53 and 167. -/
def Obligations.SleepAndRejoin : Prop :=
  ((∀ (s : State) (o : Operands) (iss : Iss), Issues s (.sleep o) o iss →
    let n := (scal32 s iss iss.k o.a).toNat
    (n = 0 → GoesOn (.sleep o) s iss s) ∧ (n ≠ 0 → Waits (.sleep o) s iss (.sleep (s.cycle.toNat + n) (nextPc iss)))) ∧
  (∀ (s : State) (t g k : Nat) (gr : Group) (q : Gang) (w : Wait) (d : Nat) (next : W64),
    groupOf s t g = some gr → gangAt gr k = some q → q.wait = some w → w.kind = .sleep d next →
    (s.cycle.toNat < d → exec (.sleepExpiry t g k) s = .refused .eventNotEnabled) ∧
    (d ≤ s.cycle.toNat → ∃ u gr', exec (.sleepExpiry t g k) s = .next u ∧ groupOf u t g = some gr' ∧ u = { s with teams := u.teams } ∧
      (∀ x, x ≠ t → teamOf u x = teamOf s x) ∧ (∀ j, j < gr.slices.length → sliceOf gr' j = if q.members.getLsbD j then { sliceOf gr j with pc := next } else sliceOf gr j) ∧
      gr'.gangs.map (fun x => x.members) = gr.gangs.map (fun x => x.members) ∧ ∀ q', gangAt gr' k = some q' → q'.wait = none))) ∧
  ((∀ (s : State) (gr : Group),
    let live := membersOf (liveSlices gr)
    let tag := fun i => (regangOf gr i).map Prod.fst
    let alike := fun i j => (sliceOf gr i).pc = (sliceOf gr j).pc ∧ tag i = tag j ∧ (sliceOf gr i).fmt = (sliceOf gr j).fmt
    let lead := fun i => (live.find? (fun j => decide (alike j i))).getD 0
    let gr' := resolveRegang s gr
    (live.any (fun i => (regangOf gr i).isNone) = true → gr' = gr) ∧
    (live ≠ [] → (∀ i ∈ live, (regangOf gr i).isSome = true) → gr.slices.length = 8 →
      gr' = { gr with slices := gr'.slices, gangs := gr'.gangs, returns := gr'.returns, handler := gr'.handler } ∧
      gr'.handler.map (fun h => { h with ss := [] }) = gr.handler.map (fun h => { h with ss := [] }) ∧
      gr'.returns.map (fun r => { r with merges := [] }) = gr.returns.map (fun r => { r with merges := [] }) ∧
      (gr.handler = none → ∀ i ∈ live, ∀ n,
        ((∃ q ∈ gr.gangs, ∀ j ∈ live, alike i j → q.members.getLsbD j = true) → sreg gr' i n = sreg gr i n) ∧
        ((∀ q ∈ gr.gangs, ∃ j ∈ live, alike i j ∧ q.members.getLsbD j = false) → sreg gr' i n = sreg gr (lead i) n)) ∧
      (∀ i ∈ live, { sliceOf gr' i with sregs := [] } = { sliceOf gr i with
        scc := decide (∀ j ∈ live, alike i j), pc := (match regangOf gr (lead i) with | some x => x.2 | none => 0), rentry := (match regangOf gr (lead i) with | some x => x.2 | none => 0), barPass := 0, replay := 0, sregs := [] }) ∧
      (∀ i ∈ live, ∃ q ∈ gr'.gangs, q.wait = none ∧ q.members.getLsbD i = true ∧ ∀ j, q.members.getLsbD j = true ↔ j ∈ live ∧ alike i j) ∧
      (∀ j, (sliceOf gr j).exited = true → j < 8 → sliceOf gr' j = sliceOf gr j))) ∧
  (∀ (s : State) (o : Operands) (iss : Iss), Issues s (.regang o) o iss →
    (∀ q ∈ iss.gr.gangs, q ≠ iss.q → q.members &&& iss.q.members = 0) →
    let others := (membersOf (liveSlices iss.gr)).filter (fun i => !iss.q.members.getLsbD i)
    let waiting := modGang iss.gr iss.k (fun q => { q with wait := some { kind := .regang ((List.range 8).map (fun i => scal32 s iss i o.a)) (nextPc iss), since := s.cycle.toNat, posted := false } })
    -- every other live slice waits at REGANG: the slices are regrouped, in this very step
    ((∀ i ∈ others, (regangOf iss.gr i).isSome = true) → exec (.regang o) s = .next (withGroup s iss (resolveRegang s waiting))) ∧
    -- some other live slice waits at neither REGANG nor BAR: the gang waits
    ((∃ i ∈ others, regangOf iss.gr i = none ∧ barOf iss.gr i = none) → exec (.regang o) s = .next (withGroup s iss waiting)) ∧
    -- the others wait, some of them at BAR
    ((∀ i ∈ others, (regangOf iss.gr i).isSome = true ∨ (barOf iss.gr i).isSome = true) → (∃ i ∈ others, regangOf iss.gr i = none) →
      (sliceOf iss.gr iss.k).exited = false →
      ∃ r, r.cls = 7 ∧ r.code = 2 ∧ exec (.regang o) s = .next (faultTeam (withGroup s iss waiting) iss.t iss.g r))))

/-- R40, R41: what going on at the next instruction leaves: the member slices stand there, in a new region after an instruction that
closes one; the gang waits no more; damaged words of the destination are whole again. The instructions that close a region are those
of R41's list.
Model's choices: log 149. -/
def Obligations.GoingOn : Prop :=
  (∀ (s : State) (iss : Iss) (tm : Team) (gr : Group), teamOf s iss.t = some tm → tm.groups[iss.g]? = some gr →
    let u := goneOn s iss
    u = { s with teams := u.teams } ∧ (∀ x, x ≠ iss.t → teamOf u x = teamOf s x) ∧
    ∃ gr' bad, teamOf u iss.t = some { tm with groups := lmod tm.groups iss.g (fun _ => gr'), bad := bad } ∧ (∀ b ∈ bad, b ∈ tm.bad) ∧
      gr' = { gr with slices := gr'.slices, gangs := gr'.gangs, allocs := if iss.sg.closes ∧ shadowed gr iss.k = false then [] else gr.allocs, hallocs := if iss.sg.closes then [] else gr.hallocs } ∧ gr'.slices.length = gr.slices.length ∧
      (∀ j, j < gr.slices.length → sliceOf gr' j = if iss.q.members.getLsbD j then movedTo iss.sg.closes (nextPc iss) (sliceOf gr j) else sliceOf gr j) ∧
      gr'.gangs = gr.gangs.map (fun q => if q.members ≠ 0 ∧ leadOf q.members = iss.k then { q with wait := none } else q)) ∧
  (∀ (i : Instr) (g : Sig), sig i = some g → (g.closes = true ↔
    -- TCOPY, TCOPYX, TPEER, MJOB, COMMIT, RVSEND, RVSENDG, MBPOST, LAUNCH, TLSIG, BARARV, BAREXP, GDONE, GFAIL, VATOM, VATOMS, SATOM, FENCE
    g.op ∈ [0x283, 0x284, 0x285, 0x300, 0x301, 0x343, 0x344, 0x2C8, 0x2C9, 0x2C6, 0x2C2, 0x2C1, 0x345, 0x346, 0x240, 0x241, 0x242, 0x243,
      -- SYSWR, PMAP, PUNMAP, HALTCTX, MBREG, PRDECL, TAGPOOL
      0x381, 0x383, 0x384, 0x387, 0x388, 0x389, 0x38A]))

/-- R38, R52, R361: EXIT ends every member slice and always completes. While another live slice waits at nothing, nothing else
happens; where every other live slice waits at REGANG, they are regrouped at once (R36); where every other waits at BAR, the barriers of
the team are tested (R51, R179), and where some wait at either, 7.2 is raised (R374). With the last live slices the group retires, and a
group with lanes switched off then posts 2.8. R177, R363: TRAP.
Model's choices: log 44, 52 and 53. -/
def Obligations.LeavingAndTrapping : Prop :=
  ∀ (s : State) (o : Operands) (iss : Iss),
    let m := iss.q.members
    let gr := iss.gr
    let left := fun (gr' : Group) => gr' = { gr with slices := gr'.slices, gangs := gr.gangs.filter (fun q => (q.members &&& m) == 0), retired := gr'.retired } ∧
      gr'.slices.length = gr.slices.length ∧ ∀ j, j < gr.slices.length → sliceOf gr' j = if m.getLsbD j then { sliceOf gr j with exited := true } else sliceOf gr j
    (Issues s (.exit o) o iss → ∃ u, exec (.exit o) s = .next u) ∧
    (Issues s (.exit o) o iss → iss.tm.bars = [] → (∀ q ∈ gr.gangs, q ≠ iss.q → q.members &&& m = 0) →
      (∃ j, j < 8 ∧ (sliceOf gr j).exited = false ∧ m.getLsbD j = false ∧ regangOf gr j = none ∧ barOf gr j = none) →
      ∃ gr', exec (.exit o) s = .next (withGroup s iss gr') ∧ left gr' ∧ gr'.retired = gr.retired) ∧
    -- the rejoin set and the barriers are tested again with the slices that are left
    (Issues s (.exit o) o iss → (∀ q ∈ gr.gangs, q ≠ iss.q → q.members &&& m = 0) →
      let others := (membersOf (liveSlices gr)).filter (fun j => !m.getLsbD j)
      others ≠ [] →
      ∃ gr', left gr' ∧ gr'.retired = gr.retired ∧
        (iss.tm.bars = [] → (∀ j ∈ others, (regangOf gr j).isSome = true) → exec (.exit o) s = .next (withGroup s iss (resolveRegang s gr'))) ∧
        ((∀ j ∈ others, (barOf gr j).isSome = true) → exec (.exit o) s = .next ((List.range 16).foldl (fun u n => testBar u iss.t n) (withGroup s iss gr'))) ∧
        (iss.tm.bars = [] → (∀ j ∈ others, (regangOf gr j).isSome = true ∨ (barOf gr j).isSome = true) → (∃ j ∈ others, (regangOf gr j).isSome = true) → (∃ j ∈ others, (barOf gr j).isSome = true) →
          ∃ r, r.cls = 7 ∧ r.code = 2 ∧ exec (.exit o) s = .next (faultTeam (withGroup s iss gr') iss.t iss.g r))) ∧
    (Issues s (.exit o) o iss → iss.tm.bars = [] → (∀ j, j < 8 → (sliceOf gr j).exited = false → m.getLsbD j = true) →
      ∃ u gr', exec (.exit o) s = .next u ∧ left gr' ∧ gr'.retired = true ∧ u.teams = (withGroup s iss gr').teams ∧
        let f := gr.firstOff.getD (0, 0, 0)
        u = { (if gr.fmask = 0 then s else postRecord s iss.tm.ctx { cls := 2, code := 8, mask := gr.fmask, addr := f.2.2, pc := f.2.1, detail := some (BitVec.ofNat 32 f.1), x := iss.tm.x, y := iss.tm.y, z := iss.tm.z, core := iss.tm.core, group := iss.g, role := gr.role }) with teams := u.teams }) ∧
    (Issues s (.trap o) o iss → ∀ n, o.a = .lit n →
      let c := n.toInt
      (c < 0 → Stops (.trap o) s iss { cls := 0, code := 13, mask := iss.act }) ∧
      (0 ≤ c → c < 512 ∨ shadowed gr iss.k = true → Stops (.trap o) s iss { cls := 11, code := c.toNat, mask := iss.act }) ∧
      (512 ≤ c → shadowed gr iss.k = false → GoesOn (.trap o) s iss (postRecord s iss.tm.ctx
        { cls := 11, code := c.toNat, mask := iss.act, pc := iss.pc, rentry := (sliceOf gr iss.k).rentry, members := m, x := iss.tm.x, y := iss.tm.y, z := iss.tm.z, core := iss.tm.core, group := iss.g, role := gr.role })))

/-- R51, R179, R223: BAR n, count. The operands' conditions; a phase opened with another count; arrival, which waits, and which waits
first for the constant dwords its group has still to receive; completion of the
phase, which flips it and releases every slice that waits there to the instruction after its BAR.
Model's choices: log 44, 51, 52, 53 and 137. -/
def Obligations.NamedBarriers : Prop :=
  (∀ (s : State) (o : Operands) (iss : Iss) (n : W32), Issues s (.bar o) o iss → uniform32 s iss o.a = .ok (some n) →
    let c := (scal32 s iss iss.k o.b).toNat
    let b := mgetD iss.tm.bars barOpen n.toNat
    let replays := (membersOf iss.q.members).any (fun i => (sliceOf iss.gr i).replay != 0)
    (15 < n.toNat ∨ 32 < c ∨ iss.tm.groups.length < c → Stops (.bar o) s iss { cls := 0, code := 13, mask := iss.act }) ∧
    (n.toNat ≤ 15 → c ≤ 32 → c ≤ iss.tm.groups.length → replays = true → GoesOn (.bar o) s iss (withGroup s iss
      { modMembers iss.gr iss.q.members (fun _ x => { x with replay := x.replay - 1, barPass := if x.replay ≤ 1 then 0 else x.barPass }) with acqSeq := (coreOf s iss.tm.core).storeSeq })) ∧
    (n.toNat ≤ 15 → c ≤ 32 → c ≤ iss.tm.groups.length → replays = false →
      (∀ c', b.expected = some c' → c' ≠ c → Stops (.bar o) s iss { cls := 7, code := 1, mask := iss.act, detail := some n }) ∧
      ((∃ r ∈ iss.gr.returns, r.cw ≠ []) → (b.expected = none ∨ b.expected = some c) → Waits (.bar o) s iss .retry) ∧
      ((∀ r ∈ iss.gr.returns, r.cw = []) →
      (∃ j, j < 8 ∧ (sliceOf iss.gr j).exited = false ∧ iss.q.members.getLsbD j = false ∧ (mgetD b.arrived 0 iss.g).getLsbD j = false ∧
          regangOf iss.gr j = none ∧ barOf iss.gr j = none) →
        (∀ q ∈ iss.gr.gangs, q ≠ iss.q → q.members &&& iss.q.members = 0) →
        (b.expected = none ∧ (c = 0 ∨ c ≤ liveGroups iss.tm) ∨ b.expected = some c) →
        (∀ g gr, g ≠ iss.g → iss.tm.groups[g]? = some gr → hasArrived iss.tm b g = false) →
        exec (.bar o) s = .next (setWait (modTeam s iss.t (fun tm => { tm with
          bars := mput tm.bars n.toNat { b with expected := some c, arrived := mput b.arrived iss.g (mgetD b.arrived 0 iss.g ||| iss.q.members) } })) iss.t iss.g iss.k (.bar n.toNat))))) ∧
  (∀ (s : State) (o : Operands) (iss : Iss) (n : W32), Issues s (.bar o) o iss → uniform32 s iss o.a = .ok (some n) → n.toNat ≤ 15 →
    let c := (scal32 s iss iss.k o.b).toNat
    c ≤ 1 → iss.tm.groups = [iss.gr] → iss.gr.gangs = [iss.q] → iss.g = 0 → iss.gr.retired = false → (∀ r ∈ iss.gr.returns, r.cw = []) → (mgetD iss.tm.bars barOpen n.toNat) = barOpen →
    iss.gr.slices.length = 8 → (∀ j, j < 8 → ((sliceOf iss.gr j).exited = false ↔ iss.q.members.getLsbD j = true) ∧ (sliceOf iss.gr j).replay = 0) →
    ∃ u gr', exec (.bar o) s = .next u ∧ u = { s with teams := u.teams } ∧ groupOf u iss.t 0 = some gr' ∧
      (teamOf u iss.t).map (fun tm => mget tm.bars n.toNat) = some (some { phase := true, expected := none, arrived := [] }) ∧
      (∀ j, j < 8 → sliceOf gr' j = if iss.q.members.getLsbD j then { sliceOf iss.gr j with pc := pcBits ((sliceOf iss.gr j).pc + 8), barPass := min 255 ((sliceOf iss.gr j).barPass + 1) } else sliceOf iss.gr j) ∧
      ∀ q ∈ gr'.gangs, q.wait = none) ∧
  (∀ (s : State) (t n : Nat) (tm : Team), teamOf s t = some tm →
    let b := mgetD tm.bars barOpen n
    let enough := fun c => decide (arrivals tm b ≠ 0 ∧ (if c = 0 then liveGroups tm else c) ≤ arrivals tm b)
    (b.expected = none → testBar s t n = s) ∧
    (∀ c, b.expected = some c → enough c = false → testBar s t n = s) ∧
    (∀ c, b.expected = some c → enough c = true → ∃ tm', teamOf (testBar s t n) t = some tm' ∧ testBar s t n = { s with teams := (testBar s t n).teams } ∧
      mget tm'.bars n = some { phase := !b.phase, expected := none, arrived := [] } ∧ (∀ k, k ≠ n → mget tm'.bars k = mget tm.bars k) ∧
      (∀ (g : Nat) (gr : Group), tm.groups[g]? = some gr → ∃ gr', tm'.groups[g]? = some gr' ∧ (∀ j, j < gr.slices.length →
        (barOf gr j = some n → (sliceOf gr' j).pc = pcBits ((sliceOf gr j).pc + 8)) ∧
        ((∀ q ∈ gr.gangs, q.members.getLsbD j = true → q.wait.map (fun w => w.kind) ≠ some (.bar n)) → sliceOf gr' j = sliceOf gr j)))))

/-- R50, R352, R354, R293, R406: what every instruction meets before its own effect: a result it must wait for, one of the shared
class-0 conditions in their order, a damaged source word. 0.5, for a reserved bit of a target word or a record that can be read, goes
before 0.12, that before 0.7, 0.8, 0.9, 0.10 and 0.6; a record selector that is no multiple of 4 is 0.9. The instructions that only a privileged group executes are those of class
0xE.
Model's choices: log 19, 40, 44, 156 and 158. -/
def Obligations.SharedConditions : Prop :=
  (∀ (s : State) (i : Instr) (o : Operands) (iss : Iss), operands i = some o → issOf s i o = some iss →
    (pendingReg iss = true ∨ heldByAcquire iss = true ∨ heldByMate s iss = true → Waits i s iss .retry) ∧
    (pendingReg iss = false → heldByAcquire iss = false → heldByMate s iss = false →
      (∀ code, sharedTest s iss = some code → (∀ o, i ≠ .launch o) → exec i s = .next (deliver s iss.t iss.g iss.k iss.pc true { cls := 0, code := code, mask := iss.act })) ∧
      -- the barred target of a LAUNCH goes before them (R293)
      (∀ code, sharedTest s iss = some code → i = .launch o → exec i s = .next (deliver s iss.t iss.g iss.k iss.pc true { cls := 0, code := if launchBarred s iss then 12 else code, mask := iss.act })) ∧
      (∀ d, sharedTest s iss = none → badSource s iss = some d →
        exec i s = .next (deliver s iss.t iss.g iss.k iss.pc true { cls := 8, code := 4, mask := iss.act, detail := some (BitVec.ofNat 32 d) })))) ∧
  (∀ (s : State) (iss : Iss),
    let priv := iss.tm.priv = true ∨ shadowed iss.gr iss.k = true
    let x := sharedTest s iss
    let sound := badSource s iss = none
    let reserved := sound ∧ reservedWord s iss = true
    let kinds := srcKindOk iss.o iss.sg.a iss.o.a && srcKindOk iss.o iss.sg.b iss.o.b && srcKindOk iss.o iss.sg.c iss.o.c && srcKindOk iss.o iss.sg.d iss.o.d && dstKindOk iss.sg.dst iss.o.dst
    (x = some 5 ↔ reserved) ∧
    (x = some 12 ↔ ¬reserved ∧ iss.sg.sup = true ∧ ¬priv) ∧
    (x = some 7 ↔ ¬reserved ∧ (iss.sg.sup = true → priv) ∧ kinds = false) ∧
    (x = none → ¬reserved ∧ iss.sg.resv = false ∧ (iss.sg.sup = true → priv) ∧ kinds = true ∧ dstWritable iss.sg.dst iss.o.dst = true ∧ dstAligned iss.sg.dst iss.o.dst = true) ∧
    (¬reserved → (iss.sg.sup = true → priv) → kinds = true → dstWritable iss.sg.dst iss.o.dst = true → dstAligned iss.sg.dst iss.o.dst = false ∨ sound ∧ selectorOdd iss = true → x = some 9) ∧
    (∀ code, x = some code → code ∈ [5, 6, 7, 8, 9, 10, 12])) ∧
  -- what is a reserved word: of the target of MBPOST and LAUNCH, of a record's fourth dword; and a selector of a record
  (∀ (s : State) (iss : Iss) (o : Operands) (w : W32), iss.i = .mbpost o ∨ iss.i = .launch o → iss.act ≠ 0 → srcReadable iss iss.sg.a o.a = true → uniform32 s iss o.a = .ok (some w) →
    w &&& 0x7C00FC00 ≠ 0 → reservedWord s iss = true) ∧
  (∀ (s : State) (iss : Iss) (w : W32), iss.act ≠ 0 → recordDword iss iss.sg.a iss.o.a 3 = some w → w.extractLsb' 24 8 ≠ 0 → reservedWord s iss = true) ∧
  (∀ (iss : Iss) (x : BitVec 11) (v : W32), iss.sg.a = recW → iss.o.a = .vec x → srcReadable iss iss.sg.a iss.o.a = true → iss.act ≠ 0 → (∀ l, l < 32 → iss.act.getLsbD l = true → vreg iss.gr x.toNat l = v) →
    v.toNat % 4 ≠ 0 → selectorOdd iss = true) ∧
  (∀ (i : Instr) (g : Sig), sig i = some g → (g.sup = true ↔ 0x380 ≤ g.op ∧ g.op ≤ 0x38A))

/-! ### Faults and the handler -/

/-- R356, R358: a class-3 fault of a context with a handler enters it: the faulting gang's state is saved, the gang stands at the
handler with the faulters' mask as exec, and the shadow set holds what R358 lists and zeros; nothing else changes. -/
def Obligations.HandlerEntry : Prop :=
  ∀ (s : State) (t g k : Nat) (pc : W64) (kind : Bool) (f : Flt) (tm : Team) (gr : Group) (q : Gang) (c : Ctx),
    teamOf s t = some tm → tm.groups[g]? = some gr → gangAt gr k = some q → ctxOf s tm.ctx = some c → c.hentry ≠ 0 → gr.handler = none → f.cls = 3 →
    (f.acc.map Prod.fst).Nodup → (∀ a ∈ f.acc, a.1 < 32) →
    let u := deliver s t g k pc kind f
    let m := q.members
    u = { s with teams := u.teams } ∧ (∀ x, x ≠ t → teamOf u x = teamOf s x) ∧
    ∃ gr' h, teamOf u t = some { tm with groups := lmod tm.groups g (fun _ => gr') } ∧ gr'.handler = some h ∧
      gr' = { gr with slices := gr'.slices, gangs := gr'.gangs, handler := gr'.handler } ∧ gr'.slices.length = gr.slices.length ∧
      (∀ j, j < gr.slices.length → sliceOf gr' j = if m.getLsbD j then
        { sliceOf gr j with exec := nibble f.mask j, vcc := 0, scc := false, fmt := 0, rentry := pcBits c.hentry, pc := pcBits c.hentry, barPass := 0, replay := 0 } else sliceOf gr j) ∧
      gr'.gangs = gr.gangs.map (fun x => if x.members ≠ 0 ∧ leadOf x.members = k then { x with wait := none } else x) ∧
      h.pc = pc ∧ h.issueKind = kind ∧ h.mask = f.mask ∧
      h.saved = (membersOf m).map (fun j => let x := sliceOf gr j; { slice := j, exec := x.exec, vcc := x.vcc, scc := x.scc, fmt := x.fmt, rentry := x.rentry }) ∧
      (∀ j n, j < 8 → m.getLsbD j = true → n < 16 → sreg gr' j n =
        match n with
        | 0 => f.addr.extractLsb' 0 32 | 1 => f.addr.extractLsb' 32 32 | 2 => 3 | 3 => BitVec.ofNat 32 f.code | 4 => f.mask
        | 6 => pc.extractLsb' 0 32 | 7 => pc.extractLsb' 32 32 | _ => 0) ∧
      (∀ r l, l < 32 → m.getLsbD (l / 4) = true → vreg gr' r l =
        match r, f.acc.find? (fun a => a.1 == l) with
        | 0, some a => a.2.1.extractLsb' 0 32 | 1, some a => a.2.1.extractLsb' 32 32 | 2, some a => BitVec.ofNat 32 a.2.2 | _, _ => 0)

/-- R301, R359, R172, R361, R398, R38, R441: TRET restores the saved exec, vcc, scc, fmt and rentry under fmask, and the slices stand at the
faulting instruction, in the gangs that the handler leaves them in; a slice that the handler ended stays ended; TRET.OFF first switches the faulting lanes off, or, after a fault of an issue-kind instruction, the group stops
with that fault; outside the handler both are refused with 0.18.
Model's choices: log 49. -/
def Obligations.HandlerReturn : Prop :=
  ∀ (s : State) (o : Operands) (iss : Iss),
    let back := fun (i : Instr) (h : Handler) (off : W32) (first : Option (Nat × W64 × W64)) =>
      ∃ gr', exec i s = .next (withGroup s iss gr') ∧
        gr' = { iss.gr with slices := gr'.slices, gangs := gr'.gangs, handler := none, returns := iss.gr.returns.filter (fun r => !r.shadow), fmask := iss.gr.fmask ||| off, firstOff := first } ∧ gr'.slices.length = iss.gr.slices.length ∧
        (∀ v ∈ h.saved, sliceOf gr' v.slice = { sliceOf iss.gr v.slice with
          exec := v.exec &&& ~~~(nibble gr'.fmask v.slice), vcc := v.vcc, scc := v.scc, fmt := v.fmt, rentry := v.rentry, pc := h.pc, barPass := 0, replay := 0 }) ∧
        (∀ j, j < iss.gr.slices.length → (∀ v ∈ h.saved, v.slice ≠ j) → sliceOf gr' j = sliceOf iss.gr j) ∧
        gr'.gangs = iss.gr.gangs.map (fun q => if h.saved.any (fun v => decide (v.slice < 8) && q.members.getLsbD v.slice) && q.wait.isSome then { q with wait := none, spinSince := s.cycle.toNat, seen := [] } else q)
    let sane := fun (h : Handler) => (h.saved.map (fun v => v.slice)).Nodup ∧ ∀ v ∈ h.saved, v.slice < iss.gr.slices.length ∧ v.slice < 8
    (Issues s (.tret o) o iss → shadowed iss.gr iss.k = false → Stops (.tret o) s iss { cls := 0, code := 18, mask := iss.act }) ∧
    (Issues s (.tretOff o) o iss → shadowed iss.gr iss.k = false → Stops (.tretOff o) s iss { cls := 0, code := 18, mask := iss.act }) ∧
    (∀ h, shadowed iss.gr iss.k = true → iss.gr.handler = some h → sane h →
      (Issues s (.tret o) o iss → back (.tret o) h 0 iss.gr.firstOff) ∧
      (Issues s (.tretOff o) o iss → h.issueKind = false → back (.tretOff o) h h.mask (iss.gr.firstOff.or (some (h.code + 2 ^ 30, h.pc, h.addr)))) ∧
      (Issues s (.tretOff o) o iss → h.issueKind = true → ∃ rentry members, exec (.tretOff o) s = .next (faultTeam s iss.t iss.g
        { cls := 3, code := h.code, mask := h.mask, addr := h.addr, detail := some (h.detail ||| 0x80000000), pc := h.pc, rentry := rentry, members := members })))

/-- R355, R357: a record takes the next sequence number of its context and joins its queue of 64, or is counted as dropped; its 256
bytes are laid out as the table says.
R356, R359, R379, R380, R394: any other synchronous fault posts one record, with bit 31 of its detail set inside the handler, and
then aborts its team and its grid; memory stays as it is. Where several gangs issue in one cycle, the aborts follow once all have issued,
so that each has recorded its condition. A team that is already aborting records nothing; a team that is being moved
is aborted once its move has ended (R439).
Model's choices: log 47, 48, 123 and 144. -/
def Obligations.RecordsAndAborts : Prop :=
  ((∀ (s : State) (c : Nat) (q : Ctx) (r : RecIn), ctxOf s c = some q →
    let u := postRecord s c r
    u = { s with ctxs := u.ctxs } ∧ (∀ d, d ≠ c → ctxOf u d = ctxOf s d) ∧
    (q.records.length < 64 → ctxOf u c = some { q with recSeq := q.recSeq + 1, records := q.records ++ [{ seq := q.recSeq, bytes := recordBytes s c q r, lost := r.lost, arrived := s.cycle.toNat }] }) ∧
    (64 ≤ q.records.length → ctxOf u c = some { q with recSeq := q.recSeq + 1, dropped := q.dropped + 1 })) ∧
  (∀ (s : State) (c : Nat) (q : Ctx) (r : RecIn),
    let bs := recordBytes s c q r
    let dw := fun a => leNat ((bs.drop a).take 4)
    let qw := fun a => leNat ((bs.drop a).take 8)
    c < 64 → r.role < 4 → r.group < 32 → r.core < 256 → r.cls < 2 ^ 32 → r.code < 2 ^ 32 → r.x < 2 ^ 32 → r.y < 2 ^ 32 → r.z < 2 ^ 32 →
    bs.length = 256 ∧ dw 0 = 3 ∧ dw 4 = r.cls ∧ dw 8 = r.code ∧ qw 12 = r.pc.toNat ∧ qw 20 = r.rentry.toNat ∧ dw 28 = r.mask.toNat ∧ qw 32 = r.addr.toNat ∧
    dw 40 = r.x ∧ dw 44 = r.y ∧ dw 48 = r.z ∧ dw 52 % 256 = r.core ∧ dw 52 / 2 ^ 8 % 32 = r.group ∧ dw 52 / 2 ^ 16 % 256 = r.members.toNat ∧ dw 52 / 2 ^ 24 % 4 = r.role ∧ dw 52 / 2 ^ 26 = c ∧
    (∀ d, r.detail = some d → dw 56 = d.toNat) ∧ dw 60 = q.recSeq.toNat ∧ qw 64 = s.cycle.toNat ∧ dw 72 = s.deviceId.toNat ∧ ∀ b ∈ bs.drop 76, b = 0)) ∧
  ((∀ (s : State) (t g k : Nat) (pc : W64) (kind : Bool) (f : Flt) (tm : Team) (gr : Group) (c : Ctx),
    teamOf s t = some tm → tm.groups[g]? = some gr → ctxOf s tm.ctx = some c → f.cls ≠ 3 ∨ c.hentry = 0 ∨ gr.handler ≠ none →
    let u := deliver s t g k pc kind f
    (tm.ending = true → u = s) ∧
    (tm.ending = false → ∃ d : Option W32,
      (gr.handler = none → d = f.detail) ∧ (gr.handler ≠ none → ∃ x, d = some x ∧ x.getLsbD 31 = true ∧ ∀ y, f.detail = some y → x = y ||| 0x80000000) ∧
      let r : RecIn := { cls := f.cls, code := f.code, mask := f.mask, addr := f.addr, detail := d, pc := pc, rentry := (sliceOf gr k).rentry, members := (match gangAt gr k with | some q => q.members | none => 0), x := tm.x, y := tm.y, z := tm.z, core := tm.core, group := g, role := gr.role }
      let v := postRecord s tm.ctx r
      ∃ cause, u = abortGrid v t f.cls f.code cause)) ∧
  (∀ (s : State) (t cls code : Nat) (cause : Nat × W32 × Bool) (l : List PutOff), s.putOff = some l →
    abortGrid s t cls code cause = { s with putOff := some (l ++ [{ team := t, cls := cls, code := code, cause := cause }]) }) ∧
  (∀ s : State, s.putOff = none ∨ s.putOff = some [] → takeAborts s = { s with putOff := none }) ∧
  (∀ (s : State) (p : PutOff), s.putOff = some [p] → takeAborts s = abortGrid { s with putOff := none } p.team p.cls p.code p.cause) ∧
  -- of two teams of a grid the one with the lower index goes first
  (∀ (s : State) (p q : PutOff), s.putOff = some [p, q] → gridPlace s p.team < gridPlace s q.team ∨ gridPlace s q.team < gridPlace s p.team →
    let x := if gridPlace s p.team < gridPlace s q.team then (p, q) else (q, p)
    takeAborts s = abortNow (abortNow { s with putOff := none } x.1.team x.1.cls x.1.code x.1.cause) x.2.team x.2.cls x.2.code x.2.cause) ∧
  (∀ (s : State) (t cls code : Nat) (cause : Nat × W32 × Bool) (tm : Team), teamOf s t = some tm → s.putOff = none →
    let u := abortGrid s t cls code cause
    u.mem = s.mem ∧ u.lineKey = s.lineKey ∧ u.cycle = s.cycle ∧
    (∃ tm', teamOf u t = some tm' ∧ tm'.ending = true ∧ (tm.ending = false → tm.phase ≠ .moving → tm'.phase = .aborting)) ∧
    (tm.ending = false → tm.phase = .moving → ∃ tm', teamOf u t = some tm' ∧ tm' = { tm with doom := tm'.doom }) ∧
    (tm.ending = false → tm.phase ≠ .moving → (∃ tm', teamOf u t = some tm' ∧ tm'.savedJobs = [] ∧ ∀ gr' ∈ tm'.groups, ∀ q ∈ gr'.gangs, q.wait = none) ∧
      ∀ j ∈ (coreOf u tm.core).jobs, j.team ≠ t) ∧
    (mwf s.teams = true → ∀ x tx, teamOf s x = some tx →
      ((mget s.grids tm.grid).isSome = true → tx.grid = tm.grid → ∃ tx', teamOf u x = some tx' ∧ tx'.ending = true) ∧
      (tx.grid ≠ tm.grid → ∃ tx', teamOf u x = some tx' ∧ tx'.phase = tx.phase ∧ tx'.groups = tx.groups))))

/-! ### Global memory -/

/-- R95, R96, R97, R353: the fields of a buffer record, the address of an element, and where an access of `width` bytes goes.
Model's choices: log 159. -/
def Obligations.RecordAddressing : Prop :=
  (∀ d0 d1 d2 d3 : W32,
    let r := recordOf d0.toNat d1.toNat d2.toNat d3.toNat
    BitVec.ofNat 57 r.base = d1.extractLsb' 0 25 ++ d0 ∧ r.base < 2 ^ 57 ∧ r.extent = d2.toNat ∧ r.stride = (d3.extractLsb' 0 16).toNat ∧ r.format = (d3.extractLsb' 16 5).toNat ∧
    r.twoD = d3.getLsbD 21 ∧ r.esz = (d3.extractLsb' 22 2).toNat ∧ r.cmp = d1.getLsbD 25 ∧ r.ro = d1.getLsbD 26 ∧ r.ozr = d1.getLsbD 27 ∧ r.swz = (d1.extractLsb' 28 4).toNat) ∧
  (∀ (r : BufRec) (i : Nat),
    let x := i % 2 ^ 16
    let y := i / 2 ^ 16
    let p := 16 * r.stride
    let es := 2 ^ r.esz
    (r.twoD = false → element r i = (decide (i < r.extent), (r.base + i * r.stride) % 2 ^ 57)) ∧
    (r.twoD = true → (element r i).1 = decide (x < r.extent % 2 ^ 16 ∧ y < r.extent / 2 ^ 16)) ∧
    (r.twoD = true → r.swz = 0 → (element r i).2 = (r.base + y * p + x * es) % 2 ^ 57) ∧
    (r.twoD = true → r.swz = 1 → (element r i).2 = (r.base + y / 8 * (8 * p) + x / 8 * (64 * es) + (8 * (y % 8) + x % 8) * es) % 2 ^ 57)) ∧
  (∀ (r : BufRec) (width ofs i : Nat), i < 2 ^ 32 →
    let va := ((element r i).2 + ofs) % 2 ^ 57
    ((element r i).1 = false → r.ozr = true → reach r width ofs i = .zero) ∧
    ((element r i).1 = false → r.ozr = false → reach r width ofs i = .off 1 va) ∧
    ((element r i).1 = true → va % width ≠ 0 → reach r width ofs i = .off 3 va) ∧
    ((element r i).1 = true → va % width = 0 → reach r width ofs i = .at va))

/-- R89 to R94, R119, R395, R396: the walk of the translation tree where no cached entry serves: what a missing table, an invalid leaf,
a reserved bit, a frame that is no memory and a missing permission give, and the physical address otherwise. An entry is read from the
store queues of the core, else from L1, else from its home segment, where damage stops the walk; behind an atomic in a queue the walk
waits.
Model's choices: log 15, 20, 21, 22, 125 and 126. -/
def Obligations.Translation : Prop :=
  (∀ (s : State) (w : Who) (k : Access) (va : Nat) (q : Ctx), ctxOf s w.ctx = some q → (∀ lv x, cached s w lv x = none) → va < 2 ^ 57 →
    let at_ := fun (table h l : Nat) => table + 8 * (va / 2 ^ l % 2 ^ (h - l + 1))
    let next := fun (e : Nat) => e / 2 ^ 14 % 2 ^ 38 * 2 ^ 14
    let e := fun a => match walkRead s w a with | .val n => n | _ => 0
    let a3 := at_ q.xlroot.toNat 56 49
    let a2 := at_ (next (e a3)) 48 38
    let a1 := at_ (next (e a2)) 37 27
    let a0 := at_ (next (e a1)) 26 16
    let sound := fun a => walkRead s w a = .val (e a)
    let table := fun x => x % 4 = 1 ∧ x / 4 % 2 ^ 12 = 0 ∧ x / 2 ^ 52 = 0
    let x := translate s w k false 0 va
    (sound a3 → e a3 % 2 = 0 → x = .fault 2 3) ∧
    (sound a3 → e a3 % 4 = 3 → x = .fault 6 3) ∧
    (sound a3 → table (e a3) → sound a2 → e a2 % 2 = 0 → x = .fault 2 2) ∧
    (sound a3 → table (e a3) → sound a2 → table (e a2) → sound a1 → e a1 % 2 = 0 → x = .fault 2 1) ∧
    (∀ leaf off, (sound a3 ∧ table (e a3) ∧ sound a2 ∧ table (e a2) ∧ sound a1) →
      (table (e a1) ∧ sound a0 ∧ leaf = e a0 ∧ off = va % 2 ^ 16 ∧ leafBad leaf 0 = false ∨ leaf = e a1 ∧ off = va % 2 ^ 27 ∧ leafBad leaf 1 = false) →
      let frame := leaf / 2 ^ 16 % 2 ^ 36 * 2 ^ 16
      leaf % 4 = 3 → leaf.testBit 6 = false → leaf.testBit 57 = false →
      (2 ^ 39 ≤ frame → frame < 2 ^ 51 → x = .fault 11 0) ∧
      (frame < 2 ^ 39 → k = .read → x = if leaf.testBit 3 then .ok (frame + off) [] none else .fault 3 0) ∧
      (frame < 2 ^ 39 → k = .write → x = if leaf.testBit 4 then .ok (frame + off) [] none else .fault 4 0) ∧
      (frame < 2 ^ 39 → k = .fetch → x = if leaf.testBit 5 then .ok (frame + off) [] none else .fault 5 0) ∧
      (frame < 2 ^ 39 → k = .atomic → x = if leaf.testBit 3 then (if leaf.testBit 4 then .ok (frame + off) [] none else .fault 4 0) else .fault 3 0)) ∧
    (sound a3 → table (e a3) → sound a2 → table (e a2) → sound a1 → table (e a1) → sound a0 → e a0 % 2 = 0 → x = .fault 1 0) ∧
    (walkRead s w a3 = .damaged → x = .err a3 3) ∧ (walkRead s w a3 = .held → x = .held)) ∧
  (∀ (s : State) (w : Who) (a : Nat),
    let pa := localise s a
    let held := fun i => heldByte (coreQueue s w.core) (pa + i)
    let home := if dataError s pa 8 = none then Entry8.val (leNat ((List.range 8).map (fun i => homeByte s w.ctx (pa + i)))) else .damaged
    ((∀ i, i < 8 → held i = .no) → mget (coreOf s w.core).l1 (l1Key w (pa / 128)) = none → walkRead s w a = home) ∧
    -- a line in L1, as long as the cache keeps it
    (∀ bs, (∀ i, i < 8 → held i = .no) → mget (coreOf s w.core).l1 (l1Key w (pa / 128)) = some bs → bs.length = 128 →
      walkRead s w a = if Config.cacheKeeps 0 s.cycle.toNat (pa / 128) then .val (leNat ((List.range 8).map (fun i => bs.getD ((pa + i) % 128) 0))) else home) ∧
    (∀ b : Nat → Byte, (∀ i, i < 8 → held i = .byte (b i)) → walkRead s w a = .val (leNat ((List.range 8).map b))) ∧
    ((∃ i, i < 8 ∧ held i = .atomic) → walkRead s w a = .held))

/-- R213, R215 to R217, R126: a load whose lanes all reach plain local memory that the core's stores and L1 do not hold goes on with its
words listed as a result, each to be read at its home segment when the result returns, and the lines whose fill it waits for. Memory stays
as it is, whatever a load comes to.
R360, R356, R97: lanes of a lane-kind access that fall outside their record are switched off, and the first switch-off is kept for
the 2.8 report; an issue-kind access stops, and so does any access in the context handler.
Model's choices: log 15, 16, 24, 46 and 159. -/
def Obligations.GlobalLoads : Prop :=
  (∀ (s : State) (o : Operands) (iss : Iss),
    let w := whoOf iss.tm
    let loads := fun (i : Instr) (r : BufRec) (n words mode : Nat) => ∀ pa : Nat → Nat,
      (∀ l ∈ actLanes iss, pa l < 2 ^ 39 ∧ ∃ va, reach r n (ofsOf o) (lane32 s iss .i32 l o.b).toNat = .at va ∧ translate s w .read false 0 va = .ok (pa l) [] none) →
      (∀ l ∈ actLanes iss, ∀ b, b < n → heldByte (coreQueue s iss.tm.core) (pa l + b) = .no ∧ mget (coreOf s iss.tm.core).l1 (l1Key w ((pa l + b) / 128)) = none) →
      ∃ s' gr' ret, GoesOn i s iss s' ∧ groupOf s' iss.t iss.g = some gr' ∧ s'.mem = s.mem ∧ s'.lineKey = s.lineKey ∧
        gr' = { iss.gr with acqSeq := (coreOf s iss.tm.core).storeSeq + 1
                            returns := iss.gr.returns.filter (fun x => !(x.pc == iss.pc && x.members == iss.q.members && wordless x)) ++ [ret] } ∧
        ret.id = s.nextId ∧ ret.seq = (coreOf s iss.tm.core).storeSeq ∧ ret.pc = iss.pc ∧ ret.members = iss.q.members ∧ ret.shadow = shadowed iss.gr iss.k ∧ ret.peers = [] ∧ ret.queued = 0 ∧ ret.cw = [] ∧
        (∀ line, line ∈ ret.lines ↔ ∃ l ∈ actLanes iss, ∃ j, j < words ∧ line = (pa l + 4 * j) / 128) ∧ ret.fill = ret.lines ∧
        ret.late = (actLanes iss).flatMap (fun l => (List.range words).map (fun j =>
          { keys := destKeys iss l j, pa := pa l + 4 * j, n := min n 4, mode := mode })) ∧
        let keys := (actLanes iss).flatMap (fun l => (List.range words).flatMap (fun j => destKeys iss l j))
        ret.vw.map Prod.fst = (if iss.sg.kind = .lane then keys else []) ∧ ret.sw.map Prod.fst = (if iss.sg.kind = .lane then [] else keys)
    (∀ r, readRecord s iss o.a = .ok (some r) → r.cmp = false → ordOf o = 0 → iss.act ≠ 0 ∨ iss.sg.kind ≠ .lane →
      (Issues s (.vld o) o iss → loads (.vld o) r (2 ^ widthOf o) (widthRegs o) (mf o 59 59)) ∧
      (Issues s (.sld o) o iss → loads (.sld o) r (2 ^ widthOf o) (widthRegs o) (mf o 59 59)) ∧
      (Issues s (.vldx o) o iss → r.format ∈ [1, 2, 3, 4, 5, 16, 17, 18, 19, 22, 23] → 8 * 2 ^ r.esz = fmtBits r.format 0 → loads (.vldx o) r (2 ^ r.esz) 1 (8 + r.format))) ∧
    (Issues s (.vld o) o iss → iss.act = 0 → GoesOn (.vld o) s iss s) ∧
    (∀ i u, i ∈ [Instr.vld o, .sld o, .vldx o, .vpref o, .cbld o] → exec i s = .next u → u.mem = s.mem)) ∧
  (∀ (s : State) (o : Operands) (iss : Iss) (r : BufRec) (code va : Nat → Nat),
    readRecord s iss o.a = .ok (some r) → (∀ l ∈ actLanes iss, reach r (2 ^ widthOf o) (ofsOf o) (lane32 s iss .i32 l o.b).toNat = .off (code l) (va l)) →
    (Issues s (.vld o) o iss → shadowed iss.gr iss.k = true → ∀ l0, lowest iss.act = some l0 →
      Stops (.vld o) s iss { cls := 2, code := code l0, mask := iss.act, addr := BitVec.ofNat 64 (va l0) }) ∧
    (Issues s (.vld o) o iss → shadowed iss.gr iss.k = false → r.cmp = false → ∀ l0, lowest iss.act = some l0 →
      ∃ s' gr', GoesOn (.vld o) s iss s' ∧ groupOf s' iss.t iss.g = some gr' ∧ gr'.fmask = iss.gr.fmask ||| iss.act ∧
        gr'.firstOff = (match iss.gr.firstOff with | some f => some f | none => some (code l0, iss.pc, BitVec.ofNat 64 (va l0))) ∧ gr'.vregs = iss.gr.vregs ∧ gr'.slices = iss.gr.slices) ∧
    (Issues s (.sld o) o iss → Stops (.sld o) s iss { cls := 2, code := code (4 * iss.k), mask := iss.act, addr := BitVec.ofNat 64 (va (4 * iss.k)) }))

/-- R98, R122, R214 to R217: a store whose lanes all reach memory enters its group's queue, one entry for each line in ascending
order, the higher lane winning a byte; memory stays as it is until the entries drain. With no room it waits.
Model's choices: log 127, 128 and 159. -/
def Obligations.GlobalStores : Prop :=
  (∀ (s : State) (o : Operands) (iss : Iss),
    let w := whoOf iss.tm
    let src := if o.form = .f96c then o.c else o.b
    let mine := if iss.sg.kind = .lane then iss.act else maskOf (fun l => l == 4 * iss.k)
    let idx := fun l => match o.form with
      | .f96c => (lane32 s iss .i32 l o.b).toNat
      | .f96l => (o.lit.toNat % 2 ^ 32 + (if iss.sg.kind = .lane then l else 0)) % 2 ^ 32
      | _ => if iss.sg.kind = .lane then l else 0
    let stores := fun (i : Instr) (r : BufRec) (n : Nat) (bytes : Nat → List Byte) (counts : Nat × Nat) => ∀ va pa : Nat → Nat,
      (∀ l ∈ actLanes iss, reach r n (ofsOf o) (idx l) = .at (va l) ∧ translate s w .write false 0 (va l) = .ok (pa l) [] none) →
      let xs := (actLanes iss).map (fun l => (({ lane := l, va := va l, pa := pa l, others := [], block := none } : LaneX), bytes l))
      let es := storeEntries xs
      (32 < (iss.gr.queue.filter (fun e => !e.left)).length + es.length → ∃ u gr', exec i s = .next u ∧ groupOf u iss.t iss.g = some gr' ∧ gr'.queue = iss.gr.queue ∧ u.mem = s.mem ∧
        ∀ q ∈ gr'.gangs, q.members ≠ 0 → leadOf q.members = iss.k → q.wait.map (fun x => x.kind) = some .retry) ∧
      ((iss.gr.queue.filter (fun e => !e.left)).length + es.length ≤ 32 → ∃ s' gr', GoesOn i s iss s' ∧ groupOf s' iss.t iss.g = some gr' ∧ s'.mem = s.mem ∧ s'.lineKey = s.lineKey ∧
        gr' = { iss.gr with acqSeq := (coreOf s iss.tm.core).storeSeq + es.length, queue := gr'.queue } ∧
        gr'.queue = iss.gr.queue ++ es.mapIdx (fun k e => { seq := (coreOf s iss.tm.core).storeSeq + k, left := false, pc := iss.pc, op := e.1, relScope := max iss.gr.relFence (if ordOf o = 2 ∨ ordOf o = 3 then scopeOf o else 0), base := (coreOf s iss.tm.core).storeSeq, replicas := [], va := e.2.2.1, block := none, members := iss.q.members, lanes := mine }) ∧
        (teamOf s' iss.t).map (fun tm => tm.sat) = (teamOf (countFor s iss.t counts.1 counts.2) iss.t).map (fun tm => tm.sat))
    let plain := fun (l : Nat) => ((List.range (widthRegs o)).flatMap (fun j => bytesOf 4 (laneWord s iss .i32 l j (widthRegs o) src).toNat)).take (2 ^ widthOf o)
    (∀ r, readRecord s iss o.a = .ok (some r) → r.ro = false → r.cmp = false → iss.act ≠ 0 ∨ iss.sg.kind ≠ .lane →
      (Issues s (.vst o) o iss → stores (.vst o) r (2 ^ widthOf o) plain (0, 0)) ∧
      (Issues s (.vstSequential o) o iss → stores (.vstSequential o) r (2 ^ widthOf o) plain (0, 0)) ∧
      (Issues s (.sst o) o iss → stores (.sst o) r (2 ^ widthOf o) plain (0, 0)) ∧
      (Issues s (.vstx o) o iss → r.format ∈ [1, 2, 3, 4, 5, 16, 17, 18, 19, 22, 23] → 8 * 2 ^ r.esz = fmtBits r.format 0 → (∀ j, iss.q.members.getLsbD j = true → rndOf (sliceOf iss.gr j).fmt ≠ 3) →
        let el := fun l => storeElement r.format (sliceOf iss.gr (l / 4)).fmt (laneWord s iss (if isIntCode r.format then .i32 else .f32) l 0 1 src)
        stores (.vstx o) r (2 ^ r.esz) (fun l => bytesOf (2 ^ r.esz) (el l).1) (r.format, ((actLanes iss).filter (fun l => (el l).2)).length))) ∧
    (∀ r i, readRecord s iss o.a = .ok (some r) → r.ro = true ∨ r.cmp = true → iss.act ≠ 0 ∨ iss.sg.kind ≠ .lane →
      i ∈ [Instr.vst o, .vstSequential o, .sst o, .vstx o, .vatom o, .satom o] → Issues s i o iss → Stops i s iss { cls := 0, code := 16, mask := iss.act }) ∧
    (∀ i u, i ∈ [Instr.vst o, .vstSequential o, .sst o, .vstx o, .vatom o, .satom o] → exec i s = .next u → u.mem = s.mem)) ∧
  (∀ (xs : List (LaneX × List Byte)),
    ((storeEntries xs).map (fun e => e.2.2.1 / 128)).Pairwise (· < ·) ∧
    (∀ e ∈ storeEntries xs, ∃ bs, e.1 = .store bs ∧ ∀ a, mget bs a = (xs.filter (fun x => x.1.va / 128 == e.2.2.1 / 128)).foldl (fun (acc : Option Byte) x =>
      if x.1.pa ≤ a ∧ a < x.1.pa + x.2.length then x.2[a - x.1.pa]? else acc) none) ∧
    (∀ x ∈ xs, ∃ e ∈ storeEntries xs, e.2.2.1 / 128 = x.1.va / 128))

/-- R224, R225: an atomic enters the queue, one entry for each lane in ascending order; its old values come back when the entries have
been performed. What the operations compute.
Model's choices: log 18, 127, 128, 147 and 159. -/
def Obligations.GlobalAtomics : Prop :=
  (∀ (s : State) (o : Operands) (iss : Iss) (r : BufRec) (va pa : Nat → Nat),
    let w := whoOf iss.tm
    let aop := mf o 62 58
    let n := atomBytes aop
    let words := atomRegs o
    let performs := fun (i : Instr) =>
      readRecord s iss o.a = .ok (some r) → r.ro = false → r.cmp = false → iss.act ≠ 0 ∨ iss.sg.kind ≠ .lane →
      (∀ l ∈ actLanes iss, reach r n (ofsOf o) (lane32 s iss .i32 l o.b).toNat = .at (va l) ∧ translate s w .atomic false (atomNeed aop) (va l) = .ok (pa l) [] none) →
      let ls := actLanes iss
      let base := (coreOf s iss.tm.core).storeSeq
      let returns := !noReturn o || ordOf o == 1 || ordOf o == 3
      let lands := fun l => if noReturn o then [] else (List.range words).flatMap (fun j => (destKeys iss l j).map (fun k => 2 * k + j))
      ((iss.gr.queue.filter (fun e => !e.left)).length + ls.length ≤ 32 → ∃ s' gr', GoesOn i s iss s' ∧ groupOf s' iss.t iss.g = some gr' ∧ s'.mem = s.mem ∧
        gr'.queue = iss.gr.queue ++ ls.mapIdx (fun k l => { seq := base + k, left := false, pc := iss.pc, op := .atomic aop (pa l) (atomData s iss l o.c) (atomData s iss l o.d) (if returns then some s.nextId else none) (lands l), relScope := max iss.gr.relFence (if ordOf o = 2 ∨ ordOf o = 3 then scopeOf o else 0), base := base, replicas := [], va := va l, block := none, members := iss.q.members, lanes := if iss.sg.kind = .lane then iss.act else maskOf (fun l => l == 4 * iss.k) }) ∧
        (returns = true → ∃ ret ∈ gr'.returns, ret.id = s.nextId ∧ ret.queued = ls.length ∧ ret.pc = iss.pc ∧ ret.members = iss.q.members) ∧
        gr'.slices = iss.gr.slices ∧ gr'.vregs = iss.gr.vregs)
    (Issues s (.vatom o) o iss → performs (.vatom o)) ∧ (Issues s (.satom o) o iss → performs (.satom o))) ∧
  (∀ old c d : W64,
    let x := old.extractLsb' 0 32
    let v := c.extractLsb' 0 32
    let word := fun (aop : Nat) => (atomNew aop old c d).extractLsb' 0 32
    word 0 = v ∧ word 1 = (if x = d.extractLsb' 0 32 then v else x) ∧ word 2 = x &&& v ∧ word 3 = x ||| v ∧ word 4 = x ^^^ v ∧ word 5 = x + v ∧
    (word 6).toInt = min x.toInt v.toInt ∧ (word 7).toInt = max x.toInt v.toInt ∧ (word 8).toNat = min x.toNat v.toNat ∧ (word 9).toNat = max x.toNat v.toNat ∧
    word 10 = f32 ((ofF32 x).add (ofF32 v)) ∧ word 11 = f32 ((ofF32 x).minNum (ofF32 v)) ∧ word 12 = f32 ((ofF32 x).maxNum (ofF32 v)) ∧
    (let half := fun (i : Nat) => encodeF fmtBF16 .rne ((fmtBF16.decode (x.toNat / 2 ^ (16 * i) % 2 ^ 16)).add (fmtBF16.decode (v.toNat / 2 ^ (16 * i) % 2 ^ 16)))
     (word 13).extractLsb' 0 16 = BitVec.ofNat 16 (half 0) ∧ (word 13).extractLsb' 16 16 = BitVec.ofNat 16 (half 1)) ∧
    (atomNew 14 old c d).toNat = min old.toNat c.toNat ∧ (atomNew 15 old c d).toNat = max old.toNat c.toNat ∧ atomNew 16 old c d = old + c)

/-- R223, R219, R218: CBLD reads n consecutive dwords into a constant bank; LDREC writes a read-only record over a pool; VPREF asks for
lines for which nothing waits, and changes no register and no memory.
Model's choices: log 16, 60 and 142. -/
def Obligations.ConstantLoads : Prop :=
  ∀ (s : State) (o : Operands) (iss : Iss),
    let n := if o.form = .f96c then (scal32 s iss iss.k o.c).toNat else 4
    let d := mf o 59 52
    let key := fun i => 256 * mf o 62 60 + d + i
    let base := match o.a with | .lit a => iss.pc + (litVal o .i32 a).signExtend 64 * 4 | _ => iss.pc
    (Issues s (.cbld o) o iss → n = 0 ∨ 256 < n ∨ 256 < d + n →
      (∀ r, readRecord s iss o.a = .ok (some r) → Stops (.cbld o) s iss { cls := 0, code := 13, mask := iss.act }) ∧
      (∀ fl, readRecord s iss o.a = .error fl → Stops (.cbld o) s iss (if fl.code = 11 then { cls := 0, code := 13, mask := iss.act } else fl))) ∧
    (Issues s (.cbld o) o iss → 1 ≤ n → n ≤ 256 → d + n ≤ 256 → ∀ r, readRecord s iss o.a = .ok (some r) → r.cmp = false →
      ∀ va, reach r 4 0 (scal32 s iss iss.k o.b).toNat = .at va → ∀ pa : Nat → Nat,
      (∀ j, j < n → pa j < 2 ^ 39 ∧ translate s (whoOf iss.tm) .read false 0 ((va + 4 * j) % 2 ^ 57) = .ok (pa j) [] none) →
      (∀ j b, j < n → b < 4 → heldByte (coreQueue s iss.tm.core) (pa j + b) = .no ∧ mget (coreOf s iss.tm.core).l1 (l1Key (whoOf iss.tm) ((pa j + b) / 128)) = none) →
      ∃ s' gr' ret, GoesOn (.cbld o) s iss s' ∧ groupOf s' iss.t iss.g = some gr' ∧ ret ∈ gr'.returns ∧ ret.id = s.nextId ∧ ret.vw = [] ∧ ret.sw = [] ∧ gr'.slices = iss.gr.slices ∧ gr'.vregs = iss.gr.vregs ∧
        ret.cw.map Prod.fst = (List.range n).map key ∧
        ret.late = (List.range n).map (fun j => { keys := [key j], pa := pa j, n := 4, mode := 0 })) ∧
    (Issues s (.ldrec o) o iss → Done (.ldrec o) s iss (fun _ x => x) (fun j m =>
      let q := dstNum o.dst
      if iss.q.members.getLsbD j = false then none
      else if m = q then some (base.extractLsb' 0 32)
      else if m = q + 1 then some ((base.extractLsb' 32 32 &&& 0x01FFFFFF) ||| 0x04000000)
      else if m = q + 2 then some (scal32 s iss iss.k o.b)
      else if m = q + 3 then some 0x00930004 else none) noRegs) ∧
    (Issues s (.vpref o) o iss → (∀ fl, readRecord s iss o.a = .error fl → iss.act ≠ 0 ∨ iss.sg.kind ≠ .lane → Stops (.vpref o) s iss fl) ∧
      (readRecord s iss o.a = .ok none → GoesOn (.vpref o) s iss s) ∧
      (∀ r, readRecord s iss o.a = .ok (some r) → ∃ s' gr', GoesOn (.vpref o) s iss s' ∧ s'.mem = s.mem ∧ s'.l2 = s.l2 ∧ groupOf s' iss.t iss.g = some gr' ∧
        gr' = { iss.gr with returns := gr'.returns } ∧ ∀ ret ∈ gr'.returns, ret ∈ iss.gr.returns ∨
          ret.prefetch = true ∧ ret.vw = [] ∧ ret.sw = [] ∧ ret.cw = [] ∧ ret.members = 0 ∧ ∀ line ∈ ret.lines, isPeer (128 * line) = false))

/-- R129, R131, R226: a fence waits until the group's stores and loads it orders have been performed, then acquires, and what follows it
in its group comes after what happened before it; FENCE.SMP also waits for the sampler path and 64 cycles more, and empties the sampler
cache.
Model's choices: log 18, 58, 59 and 128. -/
def Obligations.Fences : Prop :=
  ∀ (s : State) (o : Operands) (iss : Iss),
    let ord := mf o 51 50
    let scope := mf o 54 52
    let core := coreOf s iss.tm.core
    let stores := ord = 0 ∧ 2 ≤ scope ∧ storesAt s iss.t iss.g iss.tm.core scope iss.gr.acqSeq true = false
    let loads := ord ≠ 2 ∧ loadsPerformed iss.gr = false
    let drain := storesAt s iss.t iss.g iss.tm.core 3 iss.gr.acqSeq false = false ∨ iss.gr.returns.any (fun r => r.sampler) = true
    let follows := fun (gr : Group) => { gr with relFence := max gr.relFence scope }
    let done := fun (smp : Bool) (s' : State) => ∃ gr', groupOf s' iss.t iss.g = some gr' ∧ s'.mem = s.mem ∧
      (ord = 2 → gr' = follows iss.gr) ∧
      (ord = 1 → gr' = { iss.gr with acqSeq := core.storeSeq }) ∧
      (ord ≠ 1 → ord ≠ 2 → gr' = follows { iss.gr with acqSeq := core.storeSeq }) ∧
      (coreOf s' iss.tm.core).l1 = (if ord ≠ 2 ∧ 2 ≤ scope then [] else core.l1) ∧
      (coreOf s' iss.tm.core).sampler = (if smp then [] else core.sampler)
    (Issues s (.fence o) o iss → smpWait iss = none → (stores ∨ loads → Waits (.fence o) s iss .retry) ∧
      (¬stores → ¬loads → ∃ s', GoesOn (.fence o) s iss s' ∧ done false s')) ∧
    (Issues s (.fenceSmp o) o iss → smpWait iss = none → (stores ∨ loads ∨ drain → Waits (.fenceSmp o) s iss .retry) ∧
      (¬stores → ¬loads → ¬drain → Waits (.fenceSmp o) s iss (.smp (s.cycle.toNat + 64)))) ∧
    (Issues s (.fenceSmp o) o iss → ∀ d, smpWait iss = some d → (s.cycle.toNat < d → Waits (.fenceSmp o) s iss (.smp d)) ∧
      (d ≤ s.cycle.toNat → ∃ s', GoesOn (.fenceSmp o) s iss s' ∧ done true s'))

/-! ### On-core stores -/

/-- R102, R220, R225, R418: scratchpad loads, stores and atomics whose lanes are all within the allocation and aligned. Atomics take
place one lane at a time, in ascending order; a write that would land on a live barrier object raises 5.7 instead; a scalar access out
of bounds stops with 2.2 or 2.3, and so does a lane access in the context handler, with the lanes out of bounds; outside it those lanes
are switched off and the others go on (R360); a store to part of a damaged word stops with 8.4.
Model's choices: log 62, 63 and 147. -/
def Obligations.ScratchpadAccess : Prop :=
  ∀ (s : State) (o : Operands) (iss : Iss),
    let n := 2 ^ widthOf o
    let words := widthRegs o
    let d := dstNum o.dst
    let a := fun l => ((lane32 s iss .i32 l o.a).toNat + (lane32 s iss .i32 l o.b).toNat) % 2 ^ 32
    let sa := fun l => ((lane32 s iss .i32 l o.a).toNat + (if o.form = .f96l then o.lit.toNat % 2 ^ 32 else 0)) % 2 ^ 32
    let fits := fun (n : Nat) (a : Nat → Nat) => ∀ l ∈ actLanes iss, a l < iss.tm.scratchBytes ∧ a l % n = 0
    let word := fun (l j : Nat) => wordOf (mf o 59 59) (min n 4) ((List.range (min n 4)).map (fun b => scratchByte iss.tm (a l + 4 * j + b)))
    let damaged := fun (n : Nat) => badScratch iss.tm ((actLanes iss).flatMap (fun l => (List.range n).map (fun b => a l + b)))
    let stored := fun (l : Nat) => ((List.range words).flatMap (fun j => bytesOf 4 (laneWord s iss .i32 l j words o.b).toNat)).take n
    let stores := fun (i : Instr) => fits n sa → iss.tm.ending = false → ∃ ps : Map Byte, mwf ps = true ∧
      (∀ x, mget ps x = (actLanes iss).foldl (fun (acc : Option Byte) l => if sa l ≤ x ∧ x < sa l + (stored l).length then (stored l)[x - sa l]? else acc) none) ∧
      (badPart iss.tm (ps.map Prod.fst) = true → Stops i s iss { cls := 8, code := 4, mask := iss.act, detail := some 3 }) ∧
      (badPart iss.tm (ps.map Prod.fst) = false →
        (liveHit s iss.t iss.tm (ps.map Prod.fst) = none → GoesOn i s iss (scratchPut s iss.t ps)) ∧
        (∀ off, liveHit s iss.t iss.tm (ps.map Prod.fst) = some off → ∃ r, exec i s = .next (faultTeam s iss.t iss.g r) ∧ r = { liveRecord iss.tm off iss.pc with detail := r.detail } ∧
          r.detail = (liveRecord iss.tm off iss.pc).detail.map (fun d => if shadowed iss.gr iss.k then d ||| 0x80000000 else d)))
    (Issues s (.vlds o) o iss → fits n a → damaged n = false → Done (.vlds o) s iss (fun _ x => x) noRegs (fun r l =>
      if d ≤ r ∧ r < d + words ∧ laneIn iss.act l = true then some (word l (r - d)) else none)) ∧
    (Issues s (.slds o) o iss → fits n a → damaged n = false → words = 1 → ScalarDone (.slds o) s iss (fun _ => (word (4 * iss.k) 0, none))) ∧
    (Issues s (.slds o) o iss → fits n a → damaged n = false → words ≠ 1 → Done (.slds o) s iss (fun _ x => x) (fun j r =>
      if iss.q.members.getLsbD j = true ∧ d ≤ r ∧ r < d + words then some (word (4 * iss.k) (r - d)) else none) noRegs) ∧
    (Issues s (.slds o) o iss → iss.tm.scratchBytes ≤ a (4 * iss.k) → Stops (.slds o) s iss { cls := 2, code := 2, mask := iss.act, addr := BitVec.ofNat 64 (a (4 * iss.k)) }) ∧
    (Issues s (.slds o) o iss → a (4 * iss.k) < iss.tm.scratchBytes → a (4 * iss.k) % n ≠ 0 → Stops (.slds o) s iss { cls := 2, code := 3, mask := iss.act, addr := BitVec.ofNat 64 (a (4 * iss.k)) }) ∧
    (Issues s (.vlds o) o iss → shadowed iss.gr iss.k = true → ∀ l0, lowest iss.act = some l0 → (∀ l ∈ actLanes iss, iss.tm.scratchBytes ≤ a l) →
      Stops (.vlds o) s iss { cls := 2, code := 2, mask := iss.act, addr := BitVec.ofNat 64 (a l0) }) ∧
    (Issues s (.vsts o) o iss → stores (.vsts o)) ∧ (Issues s (.ssts o) o iss → stores (.ssts o)) ∧
    (Issues s (.ssts o) o iss → iss.tm.scratchBytes ≤ sa (4 * iss.k) → Stops (.ssts o) s iss { cls := 2, code := 2, mask := iss.act, addr := BitVec.ofNat 64 (sa (4 * iss.k)) }) ∧
    (Issues s (.ssts o) o iss → sa (4 * iss.k) < iss.tm.scratchBytes → sa (4 * iss.k) % n ≠ 0 → Stops (.ssts o) s iss { cls := 2, code := 3, mask := iss.act, addr := BitVec.ofNat 64 (sa (4 * iss.k)) }) ∧
    -- lanes beyond the allocation or misaligned: in the handler the instruction stops; outside it they are switched off
    (let out := fun (n : Nat) (x : Nat → Nat) => (lanes iss.act).filter (fun l => decide (iss.tm.scratchBytes ≤ x l ∨ x l % n ≠ 0))
     let within := fun (n : Nat) (x : Nat → Nat) => (lanes iss.act).filter (fun l => decide (x l < iss.tm.scratchBytes ∧ x l % n = 0))
     let code := fun (y : Nat) => if iss.tm.scratchBytes ≤ y then 2 else 3
     let mask := fun (ls : List Nat) => maskOf (fun l => ls.contains l)
     let off := fun (n : Nat) (x : Nat → Nat) (gr' : Group) => gr'.fmask = iss.gr.fmask ||| mask (out n x) ∧
       gr'.firstOff = (match iss.gr.firstOff, (out n x).head? with | some f, _ => some f | none, some l => some (code (x l), iss.pc, BitVec.ofNat 64 (x l)) | none, none => none)
     let nb := atomBytes (mf o 62 58)
     (∀ i n x, i = .vlds o ∧ n = 2 ^ widthOf o ∧ x = a ∨ i = .vsts o ∧ n = 2 ^ widthOf o ∧ x = sa ∨ i = .vatoms o ∧ n = nb ∧ x = a → Issues s i o iss → shadowed iss.gr iss.k = true → ∀ l0 rest, out n x = l0 :: rest →
       Stops i s iss { cls := 2, code := code (x l0), mask := mask (l0 :: rest), addr := BitVec.ofNat 64 (x l0) }) ∧
     (shadowed iss.gr iss.k = false →
       (Issues s (.vlds o) o iss → badScratch iss.tm ((within n a).flatMap (fun l => (List.range n).map (fun b => a l + b))) = false →
         ∃ gr', GoesOn (.vlds o) s iss (withGroup s iss gr') ∧ off n a gr' ∧ LanesTo iss { gr' with fmask := iss.gr.fmask, firstOff := iss.gr.firstOff } (fun r l =>
           if d ≤ r ∧ r < d + words ∧ l ∈ within n a then some (word l (r - d)) else none)) ∧
       (Issues s (.vsts o) o iss → iss.tm.ending = false → ∃ ps : Map Byte, mwf ps = true ∧
         (∀ y, mget ps y = (within n sa).foldl (fun (acc : Option Byte) l => if sa l ≤ y ∧ y < sa l + (stored l).length then (stored l)[y - sa l]? else acc) none) ∧
         (badPart iss.tm (ps.map Prod.fst) = false → liveHit s iss.t iss.tm (ps.map Prod.fst) = none →
           ∃ gr', gr' = { iss.gr with fmask := gr'.fmask, firstOff := gr'.firstOff } ∧ off n sa gr' ∧ GoesOn (.vsts o) s iss (scratchPut (withGroup s iss gr') iss.t ps))) ∧
       (let run := (within nb a).foldl (fun (st : (Nat → Byte) × (Nat → W64)) l =>
          let old := BitVec.ofNat 64 (leNat ((List.range nb).map (fun b => st.1 (a l + b))))
          let new := atomNew (mf o 62 58) old (atomData s iss l o.c) (atomData s iss l o.d)
          ((fun y => if a l ≤ y ∧ y < a l + nb then BitVec.ofNat 8 (new.toNat / 2 ^ (8 * (y - a l))) else st.1 y), (fun m => if m = l then old else st.2 m)))
          (scratchByte iss.tm, fun _ => 0)
        Issues s (.vatoms o) o iss → badScratch iss.tm ((within nb a).flatMap (fun l => (List.range nb).map (fun b => a l + b))) = false → iss.tm.ending = false →
          (∀ l ∈ within nb a, ∀ b, b < nb → mget iss.tm.objs ((a l + b) / 16) = none) →
          ∃ s' tm' gr', GoesOn (.vatoms o) s iss s' ∧ teamOf s' iss.t = some tm' ∧ tm'.groups[iss.g]? = some gr' ∧ s'.mem = s.mem ∧ (∀ y, scratchByte tm' y = run.1 y) ∧ off nb a gr' ∧
            LanesTo iss { gr' with acqSeq := iss.gr.acqSeq, fmask := iss.gr.fmask, firstOff := iss.gr.firstOff } (fun r l =>
              if noReturn o = true ∨ l ∉ within nb a then none
              else if r = d then some ((run.2 l).extractLsb' 0 32) else if atomRegs o = 2 ∧ r = d + 1 then some ((run.2 l).extractLsb' 32 32) else none)))) ∧
    (let aop := mf o 62 58
     let nb := atomBytes aop
     let run := (lanes iss.act).foldl (fun (st : (Nat → Byte) × (Nat → W64)) l =>
       let old := BitVec.ofNat 64 (leNat ((List.range nb).map (fun b => st.1 (a l + b))))
       let new := atomNew aop old (atomData s iss l o.c) (atomData s iss l o.d)
       ((fun x => if a l ≤ x ∧ x < a l + nb then BitVec.ofNat 8 (new.toNat / 2 ^ (8 * (x - a l))) else st.1 x), (fun m => if m = l then old else st.2 m)))
       (scratchByte iss.tm, fun _ => 0)
     Issues s (.vatoms o) o iss → fits nb a → damaged nb = false → iss.tm.ending = false → (∀ l ∈ lanes iss.act, ∀ b, b < nb → mget iss.tm.objs ((a l + b) / 16) = none) →
       ∃ s' tm' gr', GoesOn (.vatoms o) s iss s' ∧ teamOf s' iss.t = some tm' ∧ tm'.groups[iss.g]? = some gr' ∧ s'.mem = s.mem ∧
         (∀ x, scratchByte tm' x = run.1 x) ∧
         LanesTo iss { gr' with acqSeq := iss.gr.acqSeq } (fun r l =>
           if noReturn o = true ∨ laneIn iss.act l = false then none
           else if r = d then some ((run.2 l).extractLsb' 0 32) else if atomRegs o = 2 ∧ r = d + 1 then some ((run.2 l).extractLsb' 32 32) else none)) ∧
    (∀ (ps : Map Byte), mwf ps = true → ∃ tm', scratchPut s iss.t ps = { s with teams := (scratchPut s iss.t ps).teams } ∧
      (teamOf s iss.t = some iss.tm → teamOf (scratchPut s iss.t ps) iss.t = some tm' ∧ tm' = { iss.tm with scratch := tm'.scratch, objs := tm'.objs, bad := tm'.bad } ∧
        (∀ x, scratchByte tm' x = (mget ps x).getD (scratchByte iss.tm x)) ∧
        (∀ g, mget tm'.objs g = if ps.any (fun p => p.1 / 16 == g) then none else mget iss.tm.objs g)))

/-- R103, R221: the accumulator tiles: ACCZERO, ACCRD, ACCWR, ACCST and ACCLD on a tile below the grant, rows and column blocks within
the tile.
Model's choices: log 61 and 62. -/
def Obligations.AccumulatorTiles : Prop :=
  ∀ (s : State) (o : Operands) (iss : Iss) (tv : W32), uniform32 s iss o.a = .ok (some tv) →
    let t := tv.toNat
    let first := mf o 55 54
    let count := mf o 53 52 + 1
    let row := if o.form = .f96c then (scal32 s iss iss.k o.c).toNat else mf o 62 56
    let top := mf o 62 56
    let n := if o.form = .f96c then (scal32 s iss iss.k o.c).toNat else 128 - top
    let zn := (scal32 s iss iss.k o.b).toNat
    let addr := (scal32 s iss iss.k o.b).toNat
    let src := match o.b with | .vec r => r.toNat | _ => 0
    let tile := tileAt iss.tm t
    let moves := (List.range n).flatMap (fun i => (List.range (32 * count)).map (fun c => (128 * (top + i) + 32 * first + c, addr + 128 * count * i + 4 * c)))
    let tilesTo := fun (i : Instr) (w : Nat → Nat → W32) => ∃ s' tm', GoesOn i s iss s' ∧ s' = { s with teams := s'.teams } ∧ teamOf s' iss.t = some tm' ∧
      tm' = { iss.tm with tiles := tm'.tiles, bad := tm'.bad } ∧ tm'.tiles.length = iss.tm.tiles.length ∧ ∀ x e, x < iss.tm.tiles.length → e < 16384 → tileWord (tileAt tm' x) e = w x e
    let beyond := fun (i : Instr) => Stops i s iss { cls := 0, code := 13, mask := iss.act }
    (Issues s (.acczero o) o iss →
      (zn = 0 ∨ 16 < zn ∨ iss.tm.tiles.length < t + zn → beyond (.acczero o)) ∧
      (1 ≤ zn → zn ≤ 16 → t + zn ≤ iss.tm.tiles.length → tilesTo (.acczero o) (fun x e => if t ≤ x ∧ x < t + zn then 0 else tileWord (tileAt iss.tm x) e))) ∧
    (Issues s (.accrd o) o iss →
      (128 ≤ row ∨ 4 < first + count ∨ iss.tm.tiles.length ≤ t → beyond (.accrd o)) ∧
      (row < 128 → first + count ≤ 4 → t < iss.tm.tiles.length → iss.tm.bad = [] → Done (.accrd o) s iss (fun _ x => x) noRegs (fun r l =>
        let d := dstNum o.dst
        if d ≤ r ∧ r < d + count ∧ laneIn iss.act l = true then some (tileWord tile (128 * row + 32 * (first + (r - d)) + l)) else none))) ∧
    (Issues s (.accwr o) o iss →
      (128 ≤ row ∨ 4 < first + count ∨ iss.tm.tiles.length ≤ t → beyond (.accwr o)) ∧
      (row < 128 → first + count ≤ 4 → t < iss.tm.tiles.length → tilesTo (.accwr o) (fun x e =>
        if x = t ∧ e / 128 = row ∧ first ≤ e % 128 / 32 ∧ e % 128 / 32 < first + count ∧ laneIn iss.act (e % 32) = true then vreg iss.gr (src + (e % 128 / 32 - first)) (e % 32)
        else tileWord (tileAt iss.tm x) e))) ∧
    (Issues s (.accst o) o iss →
      (128 < top + n ∨ 4 < first + count ∨ iss.tm.tiles.length ≤ t → beyond (.accst o)) ∧
      (top + n ≤ 128 → first + count ≤ 4 → t < iss.tm.tiles.length →
        (addr % 16 ≠ 0 → Stops (.accst o) s iss { cls := 0, code := 14, mask := iss.act }) ∧
        (addr % 16 = 0 → iss.tm.scratchBytes < addr + 128 * count * n → Stops (.accst o) s iss { cls := 0, code := 15, mask := iss.act }) ∧
        (addr % 16 = 0 → addr + 128 * count * n ≤ iss.tm.scratchBytes → iss.tm.bad = [] → iss.tm.ending = false →
          liveHit s iss.t iss.tm ((List.range (128 * count * n)).map (fun b => addr + b)) = none →
          ∃ s' tm', GoesOn (.accst o) s iss s' ∧ s' = { s with teams := s'.teams } ∧ teamOf s' iss.t = some tm' ∧ tm' = { iss.tm with scratch := tm'.scratch, objs := tm'.objs, bad := tm'.bad } ∧
            (∀ m ∈ moves, scratchWord tm' m.2 = tileWord tile m.1) ∧ ∀ x, (x < addr ∨ addr + 128 * count * n ≤ x) → scratchByte tm' x = scratchByte iss.tm x))) ∧
    (Issues s (.accld o) o iss →
      (128 < top + n ∨ 4 < first + count ∨ iss.tm.tiles.length ≤ t → beyond (.accld o)) ∧
      (top + n ≤ 128 → first + count ≤ 4 → t < iss.tm.tiles.length →
        (addr % 16 ≠ 0 → Stops (.accld o) s iss { cls := 0, code := 14, mask := iss.act }) ∧
        (addr % 16 = 0 → iss.tm.scratchBytes < addr + 128 * count * n → Stops (.accld o) s iss { cls := 0, code := 15, mask := iss.act }) ∧
        (addr % 16 = 0 → addr + 128 * count * n ≤ iss.tm.scratchBytes → iss.tm.bad = [] → tilesTo (.accld o) (fun x e =>
          match (if x = t then moves.find? (fun m => m.1 == e) else none) with
          | some m => scratchWord iss.tm m.2
          | none => tileWord (tileAt iss.tm x) e))))

/-- R236, R237, R50, R178, R414, R418, R419: barrier objects in scratchpad: initialisation, expectation, arrival with the completion rule,
waiting and testing, and the class-5 conditions that stop them. A gang that waits at BWAIT goes on, having acquired, once the object's phase
has flipped, and not before; a phase change ends every SLEEP of the team.
Model's choices: log 13, 64, 123 and 137. -/
def Obligations.BarrierObjects : Prop :=
  (∀ (s : State) (t g k off : Nat) (tm : Team) (gr : Group) (q : Gang) (w : Wait) (ph : Bool) (next : W64), teamOf s t = some tm → tm.groups[g]? = some gr → gangAt gr k = some q → q.wait = some w →
    w.kind = .bwait off ph next → tm.phase = .running → (∃ c, ctxOf s tm.ctx = some c ∧ c.phase = .running) → (mget tm.objs (off / 16)).isSome = true →
    ((objAt tm off).phase = ph → pollGang exec s t g k = s) ∧
    ((objAt tm off).phase ≠ ph → ∃ gr', groupOf (pollGang exec s t g k) t g = some gr' ∧ gr'.acqSeq = (coreOf s tm.core).storeSeq ∧ gr'.slices.length = gr.slices.length ∧
      (∀ j, j < gr.slices.length → sliceOf gr' j = if q.members.getLsbD j then { sliceOf gr j with pc := next } else sliceOf gr j) ∧
      -- it may have to wait for the scoreboard with its next instruction
      ∀ q', gangAt gr' k = some q' → q'.wait = none ∨ q'.wait.map (fun x => x.kind) = some .retry)) ∧
  (∀ (s : State) (t off : Nat) (tm : Team) (b : BarObj), teamOf s t = some tm → b.pending = 0 → b.arrived = b.expected →
    ∃ tm', teamOf (objPut s t off b) t = some tm' ∧ ∀ gr ∈ tm'.groups, ∀ q ∈ gr.gangs, q.members ≠ 0 → ∀ w, q.wait = some w → ∀ d next, w.kind ≠ .sleep d next) ∧
  ∀ (s : State) (o : Operands) (iss : Iss) (av : W32), uniform32 s iss o.a = .ok (some av) →
    let off := av.toNat
    let n := (scal32 s iss iss.k o.b).toNat
    let b := objAt iss.tm off
    let lit := match o.b with | .lit x => x.getLsbD 0 | _ => false
    let five := fun (i : Instr) (code detail : Nat) => exec i s = .next (faultTeam s iss.t iss.g { cls := 5, code := code, addr := BitVec.ofNat 64 off, detail := some (if shadowed iss.gr iss.k then BitVec.ofNat 32 detail ||| 0x80000000 else BitVec.ofNat 32 detail), pc := iss.pc, rentry := (sliceOf iss.gr iss.k).rentry, members := iss.q.members, mask := iss.act })
    let becomes := fun (i : Instr) (x : BarObj) =>
      let flips := x.pending = 0 ∧ x.arrived = x.expected
      let y : BarObj := if x.pending = 0 ∧ x.arrived = x.expected then { expected := 0, arrived := 0, pending := x.initial, initial := x.initial, phase := !x.phase } else x
      ∃ s' tm', GoesOn i s iss s' ∧ s' = { s with teams := s'.teams } ∧ (∀ u, u ≠ iss.t → teamOf s' u = teamOf s u) ∧ teamOf s' iss.t = some tm' ∧ objAt tm' off = y ∧
        (mget tm'.objs (off / 16)).isSome = true ∧ (∀ c, c < off ∨ off + 16 ≤ c → scratchByte tm' c = scratchByte iss.tm c) ∧ (¬flips → tm'.groups = iss.tm.groups) ∧ tm'.groups.length = iss.tm.groups.length
    let ready := off % 16 = 0 ∧ off + 16 ≤ iss.tm.scratchBytes
    let live := (mget iss.tm.objs (off / 16)).isSome = true ∧ badScratch iss.tm [off, off + 4, off + 8, off + 12] = false
    (∀ i, i ∈ [Instr.barexp o, .bararv o, .bwait o, .btest o] ∨ i = .barinit o ∧ 1 ≤ n ∧ n < 2 ^ 16 → Issues s i o iss →
      (off % 16 ≠ 0 → Stops i s iss { cls := 0, code := 14, mask := iss.act }) ∧
      (off % 16 = 0 → iss.tm.scratchBytes < off + 16 → Stops i s iss { cls := 0, code := 15, mask := iss.act }) ∧
      (ready → i ≠ .barinit o → mget iss.tm.objs (off / 16) = none → five i 10 0)) ∧
    (Issues s (.barinit o) o iss →
      (n = 0 ∨ 2 ^ 16 ≤ n → Stops (.barinit o) s iss { cls := 0, code := 13, mask := iss.act }) ∧
      (1 ≤ n → n < 2 ^ 16 → ready →
        (objLive s iss.t iss.tm off = true → five (.barinit o) 11 (b.pending * 2 ^ 16 + b.initial)) ∧
        (objLive s iss.t iss.tm off = false → becomes (.barinit o) { expected := 0, arrived := 0, pending := n, initial := n, phase := false }))) ∧
    (ready → live →
      (Issues s (.barexp o) o iss → (2 ^ 32 ≤ b.expected + n → five (.barexp o) 9 b.expected) ∧ (b.expected + n < 2 ^ 32 → becomes (.barexp o) { b with expected := b.expected + n })) ∧
      (Issues s (.bararv o) o iss → (b.pending = 0 → five (.bararv o) 9 b.expected) ∧ (b.pending = 1 → b.expected < b.arrived → five (.bararv o) 8 b.arrived) ∧
        (b.pending ≠ 0 → b.pending ≠ 1 ∨ b.arrived ≤ b.expected → becomes (.bararv o) { b with pending := b.pending - 1 })) ∧
      (Issues s (.bwait o) o iss → (b.phase = lit → Waits (.bwait o) s iss (.bwait off lit (nextPc iss))) ∧
        (b.phase ≠ lit → GoesOn (.bwait o) s iss (withGroup s iss { iss.gr with acqSeq := (coreOf s iss.tm.core).storeSeq }))) ∧
      (Issues s (.btest o) o iss → ∃ gr', GoesOn (.btest o) s iss (withGroup s iss gr') ∧
        gr' = { iss.gr with slices := gr'.slices, acqSeq := if b.phase = lit then iss.gr.acqSeq else (coreOf s iss.tm.core).storeSeq } ∧
        ∀ j, j < iss.gr.slices.length → sliceOf gr' j = if iss.q.members.getLsbD j then { sliceOf iss.gr j with scc := decide (b.phase ≠ lit) } else sliceOf iss.gr j))

/-! ### The sampler and the copy engine -/

/-- R227 to R230: a sample whose texels are all readable plain memory, with nothing in the core's sampler cache, is listed as a result:
the bilinear or nearest value of VSAMPLE, the four taps of VGATHER4, the blend of two levels of VSAMPLEL.
Model's choices: log 16, 56, 143, 151, 152, 154 and 160. -/
def Obligations.Sampling : Prop :=
  ∀ (s : State) (o : Operands) (iss : Iss) (r r1 : BufRec) (w1 : Nat → Nat) (ne ne1 : Nat) (pa : Nat → Nat) (dx dy : Int),
    readRecord s iss o.a = .ok (some r) → components r = some ne → iss.act ≠ 0 → (coreOf s iss.tm.core).sampler = [] →
    let d := dstNum o.dst
    let wrap := mf o 60 59
    let u := fun l => lane32 s iss .f32 l o.b
    let v := fun l => lane32 s iss .f32 l o.c
    let taps := fun (r : BufRec) (lin : Bool) (dx dy : Int) (l : Nat) => tapsOf r lin (u l) (v l) dx dy
    let readable := fun (r : BufRec) (lin : Bool) (dx dy : Int) => ∀ l ∈ lanes iss.act, ∀ ts, finiteUV s iss l = true → taps r lin dx dy l = some ts → ∀ p ∈ ts, ∀ a, texelAddr r wrap p.1 p.2.1 = some a →
      a % 2 ^ r.esz = 0 ∧ translate s (whoOf iss.tm) .read false 0 a = .ok (pa a) [] none ∧ pa a < 2 ^ 39 ∧ mget s.lost (pa a / 128) = none
    let texel := fun (r : BufRec) (i j : Int) (c : Nat) => match texelAddr r wrap i j with
      | none => FVal.fin false 0 1
      | some a => let cb := (componentBytes r.format).getD 1
        valueOf r.format 8 (leNat ((List.range cb).map (fun k => homeByte s iss.tm.ctx (pa a + cb * c + k))))
    let sum := fun (r : BufRec) (ts : List (Int × Int × Nat)) (c : Nat) => (ts.filter (fun p => p.2.2 != 0)).foldl (fun x p => x.add ((FVal.ofInt p.2.2).mul (texel r p.1 p.2.1 c))) (.fin true 0 1)
    let word := fun (l c : Nat) (ts : Option (List (Int × Int × Nat))) (f : List (Int × Int × Nat) → W32) =>
      if finiteUV s iss l = false then 0x7FC00000 else match ts with | some ts => f ts | none => Config.freeTexel (u l) (v l) c
    let gives := fun (i : Instr) (vals : List (Nat × W32)) => ∃ s' gr' ret, GoesOn i s iss s' ∧ groupOf s' iss.t iss.g = some gr' ∧ ret ∈ gr'.returns ∧ ret.id = s.nextId ∧
      ret.sampler = true ∧ ret.vw = vals ∧ ret.sw = [] ∧ ret.cw = [] ∧ gr'.vregs = iss.gr.vregs ∧ gr'.fmask = iss.gr.fmask ∧ s'.mem = s.mem
    let offset := (o.form ≠ .f128c ∧ dx = 0 ∧ dy = 0) ∨ (o.form = .f128c ∧ ∃ w, uniform32 s iss o.d = .ok w ∧ dx = sext 16 (w.getD 0).toNat ∧ dy = sext 16 ((w.getD 0).toNat / 65536))
    (Issues s (.vsample o) o iss → offset → d + ne ≤ budgetOf iss → readable r (mf o 58 58 == 1) dx dy → gives (.vsample o)
      ((lanes iss.act).flatMap (fun l => (List.range ne).map (fun c => (32 * (d + c) + l, word l c (taps r (mf o 58 58 == 1) dx dy l) (fun ts => f32 ((sum r ts c).scale (-16)))))))) ∧
    (Issues s (.vsample o) o iss → offset → budgetOf iss < d + ne → Stops (.vsample o) s iss { cls := 0, code := 10, mask := iss.act }) ∧
    (Issues s (.vgather4 o) o iss → offset → mf o 57 56 < ne → readable r true dx dy → gives (.vgather4 o)
      (let c := mf o 57 56
       (lanes iss.act).flatMap (fun l => (List.range 4).map (fun j => (32 * (d + j) + l, word l c (taps r true dx dy l) (fun ts =>
         match ts[j]? with | some p => f32 (texel r p.1 p.2.1 c) | none => 0)))))) ∧
    (Issues s (.vgather4 o) o iss → offset → ne ≤ mf o 57 56 → Stops (.vgather4 o) s iss { cls := 0, code := 16, mask := iss.act }) ∧
    (Issues s (.vsamplel o) o iss → nextRecord s iss o.a = .ok (some (w1, r1)) → (∃ x, checkRecord iss w1 = .ok x) → components r1 = some ne1 → ne ≤ ne1 → d + ne ≤ budgetOf iss → readable r true 0 0 → readable r1 true 0 0 → gives (.vsamplel o)
      ((lanes iss.act).flatMap (fun l => (List.range ne).map (fun c =>
        let fv := ofF32 (lane32 s iss .f32 l o.d)
        let fr := roundInt .rne ((FVal.minNum (.fin false 1 1) (FVal.maxNum (.fin false 0 1) fv)).mul (.ofInt 256))
        (32 * (d + c) + l, word l c (taps r true 0 0 l) (fun t0 => word l c (taps r1 true 0 0 l) (fun t1 =>
          if fv.isNan then Config.freeTexel (u l) (v l) c
          else f32 ((((FVal.ofInt (256 - fr)).mul (sum r t0 c)).add ((FVal.ofInt fr).mul (sum r1 t1 c))).scale (-24)))))))))

/-- R14, R231 to R235: TCOPY, TCOPYX and TPEER, their operands in order, are accepted by the core's engine at issue, with the fields of
their records and parameters, unless it already holds 32 copies or suspended ones of a moved team wait for room. Each takes its
place in the core's store order.
Model's choices: log 70, 73, 75, 78 and 130. -/
def Obligations.CopyAcceptance : Prop :=
  ∀ (s : State) (o : Operands) (iss : Iss) (a b : Nat → Nat) (v : W32),
    let core := iss.tm.core
    let dkind := mf o 62 61
    let n := (coreOf s core).storeSeq
    let full := 32 ≤ (coreOf s core).copies.length ∨ s.teams.any (fun e => e.2.core == core && e.2.phase != .saved && e.2.savedCopies != []) = true
    let accepts := fun (i : Instr) (c : Copy) => (full → Waits i s iss .retry) ∧
      (¬full → ∃ s', GoesOn i s iss s' ∧ s' = { s with nextId := s.nextId + 1, cores := s'.cores, teams := (withGroup s iss { iss.gr with acqSeq := n + 1 }).teams } ∧
        coreOf s' core = { coreOf s core with storeSeq := n + 1, copies := (coreOf s core).copies ++ [{ c with id := s.nextId, after := n }] } ∧ ∀ k, k ≠ core → coreOf s' k = coreOf s k)
    let p := quadW32 s iss iss.k o.c
    let copy := fun (src dst : Bool) (xf : Nat) (done : CopyDone) (planes : Nat) (ss ds : W32) => ({ id := 0, ctx := iss.tm.ctx, team := iss.t, group := iss.g, tx := iss.tm.x, ty := iss.tm.y, tz := iss.tm.z, gen := iss.tm.gen, pc := iss.pc, srcScratch := src, dstScratch := dst, src := (List.range 4).map (fun j => BitVec.ofNat 32 (a j)), dst := (List.range 4).map (fun j => BitVec.ofNat 32 (b j)), sstart := p 0, dstart := p 1, width := (p 2).toNat % 2 ^ 16, height := (p 2).toNat / 2 ^ 16, param := (p 3).toNat, xf := xf, planes := planes, sstep := ss, dstep := ds, done := done, pos := 0, boundsHit := 0, boundsRec := none, gathered := [], pending := [], fetched := [], ahead := [], landed := false, stopped := false, after := 0, waitTouch := none } : Copy)
    let sound := fun (x : Nat → Nat) => ∃ r, checkRecord iss x = .ok r
    recordWords s iss o.a = .ok (some a) → sound a →
    -- to a record: a copy to scratchpad names a barrier object, one to global memory a timeline
    (∀ i planes ss ds, i = .tcopy o ∧ planes = 1 ∧ ss = 0 ∧ ds = 0 ∧ uniform32 s iss o.d = .ok (some v) ∨
        i = .tcopyx o ∧ planes = (quadW32 s iss iss.k o.d 0).toNat ∧ ss = quadW32 s iss iss.k o.d 1 ∧ ds = quadW32 s iss iss.k o.d 2 ∧ v = quadW32 s iss iss.k o.d 3 →
      let c := fun (done : CopyDone) => copy (mf o 60 60 == 1) (dkind == 1) (mf o 53 50) done planes ss ds
      let sizes := copySizesBad (c (.timeline 0)) dkind true true
      let formats := copyFormatBad (c (.timeline 0)) (decide (dkind ≠ 2)) true true
      let indices := mf o 53 50 = 9 → (p 3).toNat % 4 = 0 ∧ (p 3).toNat + 4 * ((p 2).toNat / 2 ^ 16) ≤ iss.tm.scratchBytes
      Issues s i o iss → dkind ≤ 1 ∧ recordWords s iss o.b = .ok (some b) ∧ sound b ∨ dkind = 2 ∧ (∃ w, uniform32 s iss o.b = .ok (some w) ∧ targetBad w = none ∧ b = fun _ => w.toNat) →
      (sizes = true ∨ dkind ≠ 1 ∧ 4096 ≤ v.toNat → Stops i s iss { cls := 0, code := 13, mask := iss.act }) ∧
      (sizes = false → dkind = 1 ∨ v.toNat < 4096 → formats = true → Stops i s iss { cls := 0, code := 16, mask := iss.act }) ∧
      (sizes = false → formats = false → indices →
        (dkind = 0 → v.toNat < 4096 → accepts i (c (.timeline v.toNat))) ∧
        (dkind = 2 → v.toNat < 4096 → accepts i (c (.message (BitVec.ofNat 32 (b 0)) v.toNat))) ∧
        (dkind = 1 → v.toNat % 16 = 0 → v.toNat + 16 ≤ iss.tm.scratchBytes →
          (mf o 59 59 = 0 ∨ mget iss.tm.objs (v.toNat / 16) = none → accepts i (c (.object v.toNat))) ∧
          (mf o 59 59 = 1 → (mget iss.tm.objs (v.toNat / 16)).isSome = true → ∀ x, objTest (objAt iss.tm v.toNat) (.expect (copyBytes (c (.object v.toNat)))) = .ok x →
            (full → Waits i s iss .retry) ∧ (¬full → GoesOn i s iss (acceptCopy (objPut s iss.t v.toNat x) core (c (.object v.toNat)))))))) ∧
    -- TPEER: one base at least lies in the peer window
    (Issues s (.tpeer o) o iss → recordWords s iss o.b = .ok (some b) → sound b → uniform32 s iss o.d = .ok (some v) → v.toNat < 4096 →
      copySizesBad (copy false false 0 (.timeline 0) 1 0 0) 0 true true = false → copyFormatBad (copy false false 0 (.timeline 0) 1 0 0) true true true = false →
      ∀ x y, baseFrame s iss .read (copySrc (copy false false 0 (.timeline 0) 1 0 0)).base = .ok x → baseFrame s iss .write (copyDst (copy false false 0 (.timeline 0) 1 0 0)).base = .ok y →
      (isPeer x = false → isPeer y = false → Stops (.tpeer o) s iss { cls := 0, code := 16, mask := iss.act }) ∧
      (isPeer x = true ∨ isPeer y = true → accepts (.tpeer o) (copy false false 0 (if mf o 62 62 = 0 ∧ isPeer y = true then .peerTimeline (peerDevice y) v.toNat else .timeline v.toNat) 1 0 0)))

/-- R132, R133, R137, R232, R233, R417, R419: an accepted copy moves its elements one after another; the bytes of a dword of scratchpad, or
of a sector of global memory, that a later element reaches too land with that one. Bytes that land in scratchpad raise the arrived count of
the copy's barrier object by their number, and end its phase where R419 says so; bytes that land in global memory are written where the
walk translates them. A copy is complete when every byte has reached its coherence point; then its timeline advances, or its message is sent
once what precedes it has reached the scope that its target asks for.
Model's choices: log 59, 71, 76, 161 and 166. -/
def Obligations.CopyProgress : Prop :=
  ∀ (s : State) (id core : Nat) (c : Copy), findCopy s id = some (core, c) → mwf s.cores = true →
    let held := (∃ u, c.waitTouch = some u ∧ touchPending s c.ctx u = true) ∨ (∀ q, ctxOf s c.ctx = some q → q.phase = .saving ∨ q.phase = .stopped) ∨ copyAsks s id = true ∨ copySourceReady s core c = false
    (c.landed = true ∨ held → exec (.copyBytesLand id) s = .refused .eventNotEnabled) ∧
    -- where no atomic of the core is still to change a table entry, the next unit moves
    (c.landed = false → ¬held → (∀ e ∈ coreQueue s (copyTeam s core c).core, ∃ bs, e.op = .store bs) → ∃ u, exec (.copyBytesLand id) s = .next u) ∧
    (c.landed = false → ¬held → ∀ tm, teamOf s c.team = some tm → tm.bad = [] → c.xf = 0 →
      let es := 2 ^ (copySrc c).esz
      let src := placed (copySrc c) c.sstart c.sstep (c.pos / (c.width * c.height)) c.width (c.pos % c.width) (c.pos / c.width % c.height)
      let dst := fun p => placed (copyDst c) c.dstart c.dstep (p / (c.width * c.height)) c.width (p % c.width) (p / c.width % c.height)
      let grain := if c.dstScratch then 4 else 32
      let later := fun a => (List.range (copyUnits c)).any (fun p => decide (c.pos < p) && (dst p).1 && (List.range es).any (fun b => ((dst p).2 + b) / grain == a / grain))
      -- a dword of which an element is a part is read whole with the first element of it (R332)
      let whole := fun a => (List.range 4).all (fun i => decide (src.2 ≤ a / 4 * 4 + i ∧ a / 4 * 4 + i < src.2 + es))
      let kept := fun a => if whole a then none else c.ahead.find? (fun p => p.1 == a)
      let scratchAt := fun b => match kept (src.2 + b) with | some p => p.2 | none => scratchByte tm (src.2 + b)
      ∀ bs : List Byte, (c.srcScratch = true ∧ src.2 + es ≤ tm.scratchBytes ∧ bs = (List.range es).map scratchAt ∨
          c.srcScratch = false ∧ engineRead s (whoOf tm) false c.fetched ((List.range es).map (fun b => src.2 + b)) = .ok bs) →
      let moved := c.pending ++ bs.mapIdx (fun b x => ((dst c.pos).2 + b, x))
      let lands := moved.filter (fun p => !later p.1)
      let at_ := fun (places : List Nat) a => ((places.zip (lands.map Prod.snd)).foldl (fun acc p => if p.1 = a then some p.2 else acc) none)
      let goes := fun (u : State) => ∃ c', findCopy u id = some (core, c') ∧ c'.pos = c.pos + 1 ∧ (c'.landed = true ↔ copyUnits c ≤ c.pos + 1) ∧ c'.pending = moved.filter (fun p => later p.1)
      src.1 = true → (dst c.pos).1 = true →
      -- to scratchpad, with a barrier object
      (∀ off, c.dstScratch = true → c.done = .object off → off % 16 = 0 → (mget tm.objs (off / 16)).isSome = true → (dst c.pos).2 + es ≤ tm.scratchBytes →
        liveHit s c.team tm (lands.map Prod.fst) = none → (∀ p ∈ lands, p.1 / 16 ≠ off / 16) →
        let b := objAt tm off
        let x : BarObj := { b with arrived := b.arrived + lands.length }
        x.arrived < 2 ^ 32 → ¬(b.pending = 0 ∧ b.expected < x.arrived) →
        ∃ u tm', exec (.copyBytesLand id) s = .next u ∧ goes u ∧ u.mem = s.mem ∧ teamOf u c.team = some tm' ∧
          objAt tm' off = (if x.pending = 0 ∧ x.arrived = x.expected then { expected := 0, arrived := 0, pending := x.initial, initial := x.initial, phase := !x.phase } else x) ∧
          ∀ a, (a < off ∨ off + 16 ≤ a) → scratchByte tm' a = (at_ (lands.map Prod.fst) a).getD (scratchByte tm a)) ∧
      -- to local global memory, which completes on a timeline
      (∀ n xs, c.dstScratch = false → c.done = .timeline n → engineXlat s (whoOf tm) .write false (lands.map Prod.fst) = .ok xs →
        (∀ x ∈ xs, x.others = [] ∧ isPeer x.pa = false) → s.badLines = [] → s.lost = [] →
        ∃ u, exec (.copyBytesLand id) s = .next u ∧ goes u ∧ (∀ t, t ≠ c.team → teamOf u t = teamOf s t) ∧ u.ctxs.map Prod.fst = s.ctxs.map Prod.fst ∧
          ∀ a, readByte u.mem a = (at_ (xs.map (fun x => localise s x.pa)) a).getD (readByte s.mem a))) ∧
    let gone := modCore s core (fun k => { k with copies := k.copies.filter (fun c => c.id != id) })
    (c.landed = false ∨ copyAcks s id = true → exec (.copyComplete id) s = .refused .eventNotEnabled) ∧
    (c.landed = true → copyAcks s id = false →
      (c.stopped = true ∨ (∃ off, c.done = .object off) → exec (.copyComplete id) s = .next gone) ∧
      (c.stopped = false → ∀ n, c.done = .timeline n → exec (.copyComplete id) s = .next (advanceTimeline gone c.ctx n 1 c.pc) ∧
        ∀ q, ctxOf s c.ctx = some q → ∃ q', ctxOf (advanceTimeline gone c.ctx n 1 c.pc) c.ctx = some q' ∧ (mgetD q'.timelines 0 n).toNat = min ((mgetD q.timelines 0 n).toNat + 1) (2 ^ 64 - 1)) ∧
      (c.stopped = false → ∀ d n, c.done = .peerTimeline d n → ∃ u, exec (.copyComplete id) s = .next u ∧ u.outbox = s.outbox ++ [.peerTimeline s.nextId d c.ctx n] ∧ u.cores = gone.cores ∧ u.mem = s.mem) ∧
      (c.stopped = false → ∀ w n, c.done = .message w n →
        (reached s c.team c.group core (targetScope w) c.after = false → exec (.copyComplete id) s = .refused .eventNotEnabled) ∧
        (reached s c.team c.group core (targetScope w) c.after = true → ∃ u, exec (.copyComplete id) s = .next u ∧ u.mem = s.mem ∧ ∀ k ∈ (coreOf u core).copies, k.id ≠ id)))

/-! ### Timelines and mailbox posts -/

/-- R136, R238, R241, R369, R420: TLWAIT waits until the counter is at least n and then acquires; TLSIG waits until the group's stores
have reached its scope and then advances the counter; TLRD and SATRD read. An advance stops at 2^64 - 1, and the first one that reaches it
posts 5.12.
Model's choices: log 59, 65 and 123. -/
def Obligations.Timelines : Prop :=
  (∀ (s : State) (o : Operands) (iss : Iss) (n : W32), uniform32 s iss o.a = .ok (some n) →
    let c := iss.tm.ctx
    let v := timelineOf s c n.toNat
    let b := scal64 s iss iss.k o.b
    (∀ i ∈ [Instr.tlwait o, .tlsig o, .tlrd o], Issues s i o iss → 4095 < n.toNat → Stops i s iss { cls := 0, code := 13, mask := iss.act }) ∧
    (n.toNat ≤ 4095 →
      (Issues s (.tlwait o) o iss → v.toNat < b.toNat → Waits (.tlwait o) s iss (.tlwait n.toNat b.toNat (nextPc iss))) ∧
      (Issues s (.tlwait o) o iss → b.toNat ≤ v.toNat → ∃ s', GoesOn (.tlwait o) s iss s' ∧ s'.mem = s.mem ∧ s'.ctxs = s.ctxs ∧
        groupOf s' iss.t iss.g = some { iss.gr with acqSeq := (coreOf s iss.tm.core).storeSeq } ∧ coreOf s' iss.tm.core = { coreOf s iss.tm.core with l1 := [], seen := (coreOf s' iss.tm.core).seen }) ∧
      (Issues s (.tlsig o) o iss → storesReached s iss.t iss.g (mf o 54 52) = false → Waits (.tlsig o) s iss .retry) ∧
      (Issues s (.tlsig o) o iss → storesReached s iss.t iss.g (mf o 54 52) = true → ∃ s1, s1 = { s with journal := s1.journal } ∧ GoesOn (.tlsig o) s iss (advanceTimeline s1 c n.toNat b.toNat 0)) ∧
      (Issues s (.tlrd o) o iss → PairDone (.tlrd o) s iss (fun _ => (v, none))))) ∧
  (∀ (s : State) (o : Operands) (iss : Iss), Issues s (.satrd o) o iss →
    let c := (scal32 s iss iss.k o.a).toNat
    (3 < c → Stops (.satrd o) s iss { cls := 0, code := 13, mask := iss.act }) ∧
    (c ≤ 3 → ScalarDone (.satrd o) s iss (fun _ => (iss.tm.sat.getD c 0, none)))) ∧
  (∀ (s : State) (c i n : Nat) (pc : W64) (q : Ctx), ctxOf s c = some q →
    let v := min ((mgetD q.timelines 0 i).toNat + n) (2 ^ 64 - 1)
    let u := advanceTimeline s c i n pc
    let first := v = 2 ^ 64 - 1 ∧ i ∉ q.tlPosted
    u = { s with ctxs := u.ctxs } ∧ (∀ d, d ≠ c → ctxOf u d = ctxOf s d) ∧ (∀ j, (timelineOf u c j).toNat = if j = i then v else (timelineOf s c j).toNat) ∧
    (¬first → u = modCtx s c (fun q => { q with timelines := mputD q.timelines 0 i (BitVec.ofNat 64 v) })) ∧
    (first → ∃ w, w = { s with ctxs := w.ctxs } ∧ u = postRecord w c { cls := 5, code := 12, addr := BitVec.ofNat 64 i, detail := some 0, pc := pc } ∧
      ctxOf w c = some { q with timelines := mputD q.timelines 0 i (BitVec.ofNat 64 v), tlPosted := q.tlPosted ++ [i] }))

/-- R140, R239, R240, R315, R342, R369, R390: MBPOST and LAUNCH check their target word, their numbers and their bytes in that order, wait
as releases at .PKG or, for a peer word, .DOM, and send one message to a local mailbox, a peer's or the host's. A LAUNCH with a reply
mailbox is tracked.
Model's choices: log 33, 59, 65, 102 and 123. -/
def Obligations.MailboxPosts : Prop :=
  (∀ (s : State) (o : Operands) (iss : Iss) (w : W32), uniform32 s iss o.a = .ok (some w) →
    let off := (scal32 s iss iss.k o.b).toNat
    let x := (scal32 s iss iss.k o.c).toNat
    let scope := if w.getLsbD 31 then 4 else 3
    let zero := fun (code : Nat) => ({ cls := 0, code := code, mask := iss.act } : Flt)
    let posts := fun (i : Instr) (n : Nat) (f : State → State) =>
      (off % 32 ≠ 0 → Stops i s iss (zero 14)) ∧ (off % 32 = 0 → iss.tm.scratchBytes < off + n → Stops i s iss (zero 15)) ∧
      (off % 32 = 0 → off + n ≤ iss.tm.scratchBytes → badScratch iss.tm ((List.range n).map (fun j => off + j)) = false →
        (storesReached s iss.t iss.g scope = false → Waits i s iss .retry) ∧ (storesReached s iss.t iss.g scope = true → ∃ s1, s1 = { s with journal := s1.journal } ∧ GoesOn i s iss (f s1)))
    (∀ code, targetBad w = some code → (Issues s (.mbpost o) o iss → Stops (.mbpost o) s iss (zero code)) ∧ (Issues s (.launch o) o iss → Stops (.launch o) s iss (zero code))) ∧
    (targetBad w = none →
      (Issues s (.mbpost o) o iss → (x = 0 ∨ 256 < x → Stops (.mbpost o) s iss (zero 13)) ∧
        (1 ≤ x → x ≤ 256 → posts (.mbpost o) x (fun s1 => sendTo (takePlace s1 iss.t iss.g iss.tm.core).2 .post iss.tm.ctx iss.t iss.g w (scratchBytes iss.tm off x) none iss.pc (coreOf s iss.tm.core).storeSeq))) ∧
      (Issues s (.launch o) o iss →
        let secret := ∃ mb, targetOf s w = .local mb ∧ privMailbox s iss.tm.ctx mb = true ∧ privileged iss = false
        (secret → Stops (.launch o) s iss (zero 12)) ∧ (¬secret → 1023 < x → x ≠ 0xFFFFFFFF → Stops (.launch o) s iss (zero 13)) ∧
        (¬secret → x ≤ 1023 → posts (.launch o) 64 (fun s1 => sendLaunch s1 iss w (some x) (scratchBytes iss.tm off 64))) ∧
        (¬secret → x = 0xFFFFFFFF → posts (.launch o) 64 (fun s1 => sendLaunch s1 iss w none (scratchBytes iss.tm off 64)))))) ∧
  (∀ w : W32, targetBad w = if w &&& 0x7C00FC00 ≠ 0 then some 5 else if w.getLsbD 31 = true ∧ 640 ≤ w.toNat / 2 ^ 16 % 1024 ∧ w.toNat / 2 ^ 16 % 1024 ≠ 1023 then some 13 else none) ∧
  (∀ (s : State) (t g : Nat) (tm : Team) (gr : Group), teamOf s t = some tm → tm.groups[g]? = some gr →
    let n := (coreOf s tm.core).storeSeq
    let u := (takePlace s t g tm.core).2
    u = { s with cores := u.cores, teams := u.teams } ∧ coreOf u tm.core = { coreOf s tm.core with storeSeq := n + 1 } ∧ (∀ k, k ≠ tm.core → coreOf u k = coreOf s k) ∧
    (∀ x, x ≠ t → teamOf u x = teamOf s x) ∧ teamOf u t = some { tm with groups := lmod tm.groups g (fun _ => { gr with acqSeq := n + 1 }) }) ∧
  (∀ (s : State) (kind : MsgKind) (c t g : Nat) (w : W32) (bytes : List Byte) (tl : Option Completion) (pc : W64) (place : Nat),
    let mb := w.toNat % 1024
    let d := w.toNat / 2 ^ 16 % 1024
    let peer := w.getLsbD 31 = true
    let u := sendTo s kind c t g w bytes tl pc place
    (¬peer ∨ d = s.deviceId.toNat ∧ d ≠ 1023 → ∃ m, u = { s with nextId := s.nextId + 1, msgs := s.msgs ++ [m] } ∧ m.id = s.nextId ∧ m.kind = kind ∧ m.ctx = c ∧ m.mb = mb ∧ m.bytes = bytes ∧
      m.slot = none ∧ m.reply = none ∧ m.tl = tl) ∧
    (peer → d ≠ 1023 → d ≠ s.deviceId.toNat → ∃ q, u = { s with nextId := s.nextId + 1, outbox := s.outbox ++ [.peerMessage s.nextId d c mb (if kind = .copy then .copy else .post) bytes], peerReqs := s.peerReqs ++ [q], ports := u.ports } ∧
      q.id = s.nextId ∧ q.device = d ∧ q.since = s.cycle.toNat ∧ q.who = .message s.nextId tl ∧ q.bulk = true ∧ (∀ p, q.port = some p → (mgetD s.hops 0x3C000000 d).getLsbD p = true) ∧
      ∀ p, q.port ≠ some p → u.ports[p]? = s.ports[p]?) ∧
    (peer → d = 1023 → ∀ q, ctxOf s c = some q →
      (q.endpoint = none → u = postRecord s c { cls := 9, code := 8, detail := some (BitVec.ofNat 32 mb), pc := pc }) ∧
      (q.endpoint ≠ none → u = { s with nextId := s.nextId + 1, outbox := s.outbox ++ [.hostMessage c s.nextId bytes], ctxs := u.ctxs } ∧ (∀ e, e ≠ c → ctxOf u e = ctxOf s e) ∧
        ctxOf u c = some { q with outAcks := q.outAcks ++ [{ msg := s.nextId, seq := place, t := t, g := g, mb := mb, tl := tl }] }))) ∧
  (∀ (s : State) (iss : Iss) (w : W32) (rep : Option Nat) (bytes : List Byte) (q : Ctx), ctxOf s iss.tm.ctx = some q →
    let u := sendLaunch s iss w rep bytes
    (∃ q', ctxOf u iss.tm.ctx = some q' ∧ q'.tracked = if rep.isSome = true ∧ q.tracked.length < 256 then q.tracked ++ [{ id := s.nextId, target := w, since := s.cycle.toNat }] else q.tracked) ∧
    ∀ mb, targetOf s w = .local mb → ∃ m, u.msgs = s.msgs ++ [m] ∧ m.kind = .launch ∧ m.ctx = iss.tm.ctx ∧ m.mb = mb ∧ m.bytes = bytes ∧
      m.reply = rep.map (fun r => (s.deviceId.toNat, iss.tm.ctx, r)) ∧ m.privSender = privileged iss)

/-! ### The matrix engine -/

/-- R265 to R268, R354, R370: MJOB's conditions in their order and the job it puts at the end of the core's queue; COMMIT closes a group of
the unfinished jobs issued since the last one, which without any is complete at once; MWAIT waits for at most n pending groups; MQUERY reads
one of six values.
Model's choices: log 81 and 133. -/
def Obligations.MatrixInstructions : Prop :=
  ∀ (s : State) (o : Operands) (iss : Iss),
    let k := coreOf s iss.tm.core
    let stop := fun (i : Instr) (code : Nat) => Stops i s iss { cls := 0, code := code, mask := iss.act }
    (∀ card tile, Issues s (.mjob o) o iss → uniform32 s iss o.a = .ok (some card) → uniform32 s iss o.b = .ok (some tile) →
      let f := fmtOf iss
      let wrong := (fmtAcc f = 2 ∧ tile.getLsbD 0 = true) ∨ comboAny f = false ∨ rndOf f = 3 ∨ noPlanes f (fmtA f) = true
      (iss.tm.tiles.length ≤ tile.toNat → stop (.mjob o) 13) ∧
      (tile.toNat < iss.tm.tiles.length →
        (wrong → stop (.mjob o) 16) ∧
        (¬wrong → card.toNat % 16 ≠ 0 → stop (.mjob o) 14) ∧
        (¬wrong → card.toNat % 16 = 0 → iss.tm.scratchBytes < card.toNat + 16 → stop (.mjob o) 15) ∧
        (¬wrong → card.toNat % 16 = 0 → card.toNat + 16 ≤ iss.tm.scratchBytes →
          (16 ≤ k.jobs.length → Waits (.mjob o) s iss .retry) ∧
          (k.jobs.length < 16 → GoesOn (.mjob o) s iss (withGroup
            { s with nextId := s.nextId + 1, cores := mput s.cores iss.tm.core { k with jobs := k.jobs ++ [{ id := s.nextId, team := iss.t, group := iss.g, pc := iss.pc, card := card.toNat, tile := tile.toNat, fmt := f, progress := 0, counted := false, read := none, sums := [] }] } }
            iss { iss.gr with openJobs := iss.gr.openJobs ++ [s.nextId], lastJob := some s.nextId, lastProgress := 0 }))))) ∧
    (Issues s (.commit o) o iss →
      let cg := iss.gr.cg + 1
      let all := iss.gr.pending ++ [(cg, iss.gr.openJobs)]
      ∃ gr', GoesOn (.commit o) s iss (withGroup s iss gr') ∧ gr'.cg = cg ∧ gr'.openJobs = [] ∧ gr'.pending = all.filter (fun p => p.2 != []) ∧
        (iss.gr.openJobs = [] → gr'.doneCg = cg) ∧ (gr'.doneCg = iss.gr.doneCg ∨ ∃ p ∈ all, p.2 = [] ∧ p.1 = gr'.doneCg) ∧
        ScalarsTo iss { gr' with cg := iss.gr.cg, openJobs := iss.gr.openJobs, pending := iss.gr.pending, doneCg := iss.gr.doneCg }
          (fun j n => if mf o 50 50 = 1 ∧ iss.q.members.getLsbD j = true ∧ n = dstNum o.dst then some cg else none)) ∧
    (Issues s (.mwait o) o iss →
      let n := (scal32 s iss iss.k o.a).toNat
      (n < iss.gr.pending.length → Waits (.mwait o) s iss (.mwait n (nextPc iss))) ∧
      (iss.gr.pending.length ≤ n → GoesOn (.mwait o) s iss (withGroup s iss { iss.gr with acqSeq := k.storeSeq }))) ∧
    (Issues s (.mquery o) o iss → ∀ n, o.a = .lit n → n.toNat ≤ 5 → PairDone (.mquery o) s iss (fun _ =>
      (match n.toNat with
        | 0 => BitVec.ofNat 64 iss.gr.pending.length
        | 1 => BitVec.ofNat 64 iss.gr.openJobs.length
        | 2 => BitVec.ofNat 64 (16 - k.jobs.length)
        | 3 => iss.gr.lastProgress
        | 4 => BitVec.ofNat 64 iss.gr.doneCg.toNat
        | _ => BitVec.ofNat 64 iss.gr.cg.toNat, none)))

/-- R245, R262, R263, R415, R418: the job at the head of a core's queue commits one step at a time, its accumulator words and scratchpad
bytes together, and leaves the queue after its last; before its first step its card is read whole and checked, and a condition of class 5
stops the job. R83: an element of an INT32 accumulator takes the sum of the chunk's products, modulo 2^32. R81, R82: an element of an FP32
accumulator takes the chunk's sum, of products cut 56 places below the greatest. R260, R261: the post-operator chain and what it writes.
R257 to R259: the test of a RASTER block, its visibility words and its statistics.
Model's choices: log 54, 80, 85, 123, 132, 153, 155, 162, 163, 164 and 165. -/
def Obligations.JobSteps : Prop :=
  (∀ (s : State) (core : Nat) (j : Job) (rest : List Job) (tm : Team), (coreOf s core).jobs = j :: rest → teamOf s j.team = some tm → tm.bad = [] →
    let i := Instr.jobStepCommit core
    let card := scratchBytes tm j.card (min 252 (tm.scratchBytes - j.card))
    let fault := fun (code addr detail : Nat) => ∃ u, exec i s = .next u ∧ u = { faultTeam s j.team j.group { cls := 5, code := code, addr := BitVec.ofNat 64 addr, detail := some (BitVec.ofNat 32 detail), pc := j.pc } with cores := u.cores } ∧
      ∀ x ∈ (coreOf u core).jobs, x.id ≠ j.id
    let steps := fun (bs : List Byte) =>
      let e := jobStep tm j.sums bs j.fmt j.tile j.progress j.counted
      (∀ o, liveHit s j.team tm (e.out.map Prod.fst) = some o → fault 7 o ((objAt tm o).pending * 2 ^ 16 + (objAt tm o).arrived % 2 ^ 16)) ∧
      (liveHit s j.team tm (e.out.map Prod.fst) = none → ∃ u tm', exec i s = .next u ∧ u.mem = s.mem ∧ (∀ t, t ≠ j.team → teamOf u t = teamOf s t) ∧ teamOf u j.team = some tm' ∧
        tm'.tiles.length = tm.tiles.length ∧
        (∀ x w, x < tm.tiles.length → tileWord (tileAt tm' x) w = match e.acc.reverse.find? (fun a => a.1 == x && a.2.1 == w) with | some a => a.2.2 | none => tileWord (tileAt tm x) w) ∧
        (∀ a, scratchByte tm' a = match e.out.reverse.find? (fun p => p.1 == a) with | some p => p.2 | none => scratchByte tm a) ∧
        (totalSteps bs ≤ j.progress + 1 → ∀ x ∈ (coreOf u core).jobs, x.id ≠ j.id) ∧
        (j.progress + 1 < totalSteps bs → (coreOf u core).jobs.head? = some { j with progress := j.progress + 1, counted := e.counted, read := some bs, sums := e.acc.foldl (fun m w => mput m (16384 * w.1 + w.2.1) w.2.2) j.sums }))
    (∀ bs, j.read = some bs → steps bs) ∧
    (j.read = none → (∀ code a, checkCard tm.scratchBytes j.card j.tile tm.tiles.length card j.fmt = some (code, a) → fault code a j.progress) ∧
      (checkCard tm.scratchBytes j.card j.tile tm.tiles.length card j.fmt = none → steps card))) ∧
  (∀ (s : State) (core : Nat), (coreOf s core).jobs = [] → exec (.jobStepCommit core) s = .refused .eventNotEnabled) ∧
  (∀ (tm : Team) (bs : List Byte) (f : W32) (x : StepAt) (m n : Nat) (acc : W32), fmtAcc f = 1 →
    (updateAcc tm bs f x m n acc).toNat % 2 ^ 32 = (BitVec.ofInt 32 (acc.toInt +
      ((chunkKs bs x.chunk).map (fun k => (entersA bs f (codeA tm bs f x m k)).num * (entersB bs f (codeB tm bs f x k n)).num)).sum)).toNat) ∧
  (∀ (tm : Team) (bs : List Byte) (f : W32) (x : StepAt) (m n : Nat) (acc : W32), fmtAcc f = 0 →
    let scale := match scaleA tm bs f x m x.chunk, scaleB tm bs f x n x.chunk with | some a, some b => some (a + b) | _, _ => none
    updateAcc tm bs f x m n acc = f32 ((ofF32 acc).add (ofF32 (f32 (chunkSum ((chunkKs bs x.chunk).map (fun k => entersA bs f (codeA tm bs f x m k)))
      ((chunkKs bs x.chunk).map (fun k => entersB bs f (codeB tm bs f x k n))) scale))))) ∧
  (∀ (xs ys : List FVal) (sc : Int),
    let ps := (xs.zip ys).map (fun p => p.1.mul p.2)
    chunkSum xs ys none = .nan ∧ (FVal.nan ∈ ps → chunkSum xs ys (some sc) = .nan) ∧
    (FVal.nan ∉ ps → FVal.inf true ∈ ps → FVal.inf false ∈ ps → chunkSum xs ys (some sc) = .nan) ∧
    (∀ s, FVal.nan ∉ ps → FVal.inf s ∈ ps → FVal.inf (!s) ∉ ps → chunkSum xs ys (some sc) = .inf s) ∧
    ((∀ p ∈ ps, p.isFinite = true ∧ p.isZero = true) → chunkSum xs ys (some sc) = .fin false 0 1) ∧
    ∀ e, (∀ p ∈ ps, p.isFinite = true) → (∃ p ∈ ps, ∃ s n d, p = .fin s n d ∧ p.isZero = false ∧ flog2 n d = e) →
      (∀ p ∈ ps, ∀ s n d, p = .fin s n d → p.isZero = false → flog2 n d ≤ e) →
      let t := (ps.map (fun p => cutUnits p (e - 56))).sum
      chunkSum xs ys (some sc) = if t = 0 then .fin false 0 1 else (FVal.ofInt t).scale (e - 56 + sc)) ∧
  (∀ (s : Bool) (n d : Nat) (q : Int), 0 < d → ∃ k : Nat, cutUnits (.fin s n d) q = (if s then -(k : Int) else k) ∧
    (0 ≤ q → k * 2 ^ q.toNat * d ≤ n ∧ n < (k + 1) * 2 ^ q.toNat * d) ∧ (q < 0 → k * d ≤ n * 2 ^ (-q).toNat ∧ n * 2 ^ (-q).toNat < (k + 1) * d)) ∧
  (∀ (tm : Team) (bs : List Byte) (f : W32) (x : StepAt) (m n : Nat) (acc : W32),
    let r := m + (Machine.moved bs x (fun l => (l.rstep : Int))).toNat
    let c := n + (Machine.moved bs x (fun l => (l.cstep : Int))).toNat
    let w := fun (a i : Nat) => scratchWord tm (cardW bs a + 4 * i)
    let float := cardPen bs 1 || cardPen bs 2 || cardPen bs 3
    let v0 := modeValue tm bs f x m acc
    let v1 := if cardPen bs 0 then v0 - w 76 r * w 72 c - w 80 c * w 68 r + BitVec.ofNat 32 (cardK bs) * w 76 r * w 80 c else v0
    let v2 := if fmtAcc f = 1 ∧ float = true then f32 (.ofInt v1.toInt) else v1
    let s1 := match cardScale bs with | 0 => BitVec.ofNat 32 (cardW bs 84) | 2 => w 88 c | _ => w 84 r
    let v3 := if cardPen bs 1 then (let v := f32 ((ofF32 v2).mul (ofF32 s1)); if cardScale bs = 3 then f32 ((ofF32 v).mul (ofF32 (w 88 c))) else v) else v2
    let v4 := if cardPen bs 2 then f32 ((ofF32 v3).add (ofF32 (w 92 (if cardBiasRow bs then r else c)))) else v3
    let v5 := if cardPen bs 3 then activate (cardAct bs) v4 else v4
    chainValue tm bs f x m n acc = (v5, fmtAcc f == 1 && !float) ∧ (cardMode bs = 0 → v0 = acc) ∧
    (cardMode bs = 3 → cardW bs 48 % 2 = 1 → v0 = if (ofF32 acc).isNan = true ∨ FVal.le (ofF32 acc) (.fin false 0 1) = true then 0
      else if FVal.le (.fin false 1 1) (ofF32 acc) then 0x3F800000 else acc)) ∧
  (∀ v : W32, ((ofF32 v).isNan = true → ∀ k, activate k v = 0x7FC00000) ∧
    ((ofF32 v).isNan = false → activate 0 v = v ∧ activate 1 v = (if FVal.le (ofF32 v) (.fin false 0 1) then 0 else v) ∧ activate 2 v = geluF32 v ∧ activate 3 v = siluF32 v)) ∧
  (∀ (tm : Team) (sums : Map W32) (bs : List Byte) (f : W32) (tile p : Nat) (counted : Bool), cardMode bs ≠ 1 →
    let x := stepAt bs p
    let tb := tile + (Machine.moved bs x (fun l => (l.ts : Int))).toNat
    let ro := (Machine.moved bs x (fun l => (l.rstep : Int))).toNat
    let co := (Machine.moved bs x (fun l => (l.cstep : Int))).toNat
    let row := fun m => movedBase bs x 96 (·.so) + m * cardW bs 100
    let old := fun m n => if x.chunk = 0 ∧ cardZinit bs = true then 0 else sumAt tm sums tb (128 * m + n)
    let new := fun m n => updateAcc tm bs f x m n (old m n)
    let v := fun m n => chainValue tm bs f x m n (new m n)
    let exact := fun m n => if (v m n).2 then FVal.ofInt (v m n).1.toInt else ofF32 (v m n).1
    let q := fun m n => narrow (ofmtOf f) (planesOf f) (rndOf f) (satOf f) (v m n).2 (exact m n)
    let block := fun {α : Type} (g : Nat → Nat → List α) => (List.range (cardM bs)).flatMap (fun m => (List.range (cardN bs)).flatMap (g m))
    let e := jobStep tm sums bs f tile p counted
    let sums' := block (fun m n => [(tb, 128 * m + n, new m n)])
    let bytes := fmtBits (ofmtOf f) 0 / 8
    let whole := isMx (ofmtOf f) = false ∧ ofmtOf f ≠ 20 ∧ ofmtOf f ≠ 21 ∧ fmtBits (ofmtOf f) 0 % 8 = 0
    (x.last = false ∨ cardPen bs 6 = false → e.acc = sums' ∧ e.out = [] ∧ e.clamps = 0) ∧
    (x.last = true → cardPen bs 6 = true →
      (cardDacc bs = false → e.acc = sums') ∧
      (cardDacc bs = false → cardPen bs 4 = false → e.clamps = 0 ∧ e.out = block (fun m n => pairsAt (row m + 4 * n) (bytesOf 4 (v m n).1.toNat))) ∧
      (cardDacc bs = false → cardPen bs 4 = true → whole →
        e.clamps = ((List.range (cardM bs)).map (fun m => ((List.range (cardN bs)).filter (fun n => (q m n).2)).length)).sum ∧
        e.out = block (fun m n => pairsAt (row m + bytes * n) (bytesOf bytes (q m n).1))) ∧
      (cardDacc bs = false → cardPen bs 4 = true → isMx (ofmtOf f) = true → ∀ m j, m < cardM bs → 32 * j + 32 ≤ cardN bs →
        (cardW bs 104 + (m + ro) * cardW bs 108 + (32 * j + co) / 32,
          BitVec.ofNat 8 (mxQuant (ofmtOf f) (rndOf f) (satOf f) ((List.range 32).map (fun i => exact m (32 * j + i)))).1) ∈ e.out) ∧
      (cardDacc bs = true → e.out = []) ∧
      (cardDacc bs = true → cardPen bs 4 = false → e.acc = sums' ++ block (fun m n => [(tb, 128 * m + n, (v m n).1)])) ∧
      (cardDacc bs = true → cardPen bs 4 = true → isMx (ofmtOf f) = false → e.acc = sums' ++ block (fun m n => [(tb, 128 * m + n, BitVec.ofNat 32 (q m n).1)])))) ∧
  (∀ (tm : Team) (sums : Map W32) (bs : List Byte) (f : W32) (tile p : Nat) (counted : Bool), cardMode bs = 1 →
    let x := stepAt bs p
    let tb := tile + (Machine.moved bs x (fun l => (l.ts : Int))).toNat
    let ob := movedBase bs x 96 (·.so)
    let coef := fun m k => sext 24 (elemCode tm (movedBase bs x 16 (·.sa)) 21 24 (2 * m + k))
    let at_ := fun n k => ((scratchByte tm (movedBase bs x 24 (·.sb) + n * cardW bs 28 + k)).toNat : Int)
    let sum : Nat → Nat → BitVec 64 := fun m n => (sumAt tm sums (tb + 1) (128 * m + n) ++ sumAt tm sums tb (128 * m + n)) + BitVec.ofInt 64 (coef m 0 * at_ n 0 + coef m 1 * at_ n 1)
    let topLeft := fun m => 0 < coef m 0 ∨ coef m 0 = 0 ∧ 0 < coef m 1
    let inside := fun (t n : Nat) => (List.range 3).all (fun j => decide (0 ≤ (sum (4 * t + j) n).toInt - (if topLeft (4 * t + j) then 0 else 1)))
    let depth := fun t n => (min (max ((sum (4 * t + 3) n).toInt / 2 ^ (cardW bs 52 / 2 ^ 8 % 2 ^ 5)) 0) (2 ^ 32 - 1)).toNat
    let id := fun (t : Nat) => ((((cardW bs 48 % 2 ^ 25 : Nat) : Int) + Machine.moved bs x (·.ssa) + t) % 2 ^ 25).toNat
    let word := fun t n => depth t n * 2 ^ 32 + id t * 2 ^ 7 + cardW bs 52 % 2 ^ 7
    let before := fun n => leNat (scratchBytes tm (ob + 8 * n) 8)
    let vis := fun (ts n : Nat) => (List.range ts).foldl (fun v t => if inside t n then min v (word t n) else v) (before n)
    let ts := List.range (cardM bs / 4)
    let ns := List.range (cardN bs)
    let passed := (ts.map (fun t => (ns.filter (fun n => inside t n && decide (word t n < vis t n))).length)).sum
    let hit := ts.filter (fun t => ns.any (inside t))
    let was := counted && x.idx.headD 0 != 0
    let stat := fun (j add : Nat) => pairsAt (cardW bs 56 + 4 * j) (bytesOf 4 (((scratchWord tm (cardW bs 56 + 4 * j)).toNat + add) % 2 ^ 32))
    let e := jobStep tm sums bs f tile p counted
    e.acc = (List.range (cardM bs)).flatMap (fun m => ns.flatMap (fun n =>
      [(tb, 128 * m + n, (sum m n).extractLsb' 0 32), (tb + 1, 128 * m + n, (sum m n).extractLsb' 32 32)])) ∧
    e.out = (ns.filter (fun n => vis (cardM bs / 4) n != before n)).flatMap (fun n => pairsAt (ob + 8 * n) (bytesOf 8 (vis (cardM bs / 4) n))) ++
      stat 0 passed ++ stat 1 hit.length ++ stat 2 (if hit ≠ [] ∧ was = false then 1 else 0) ∧
    e.clamps = 0 ∧ e.counted = (was || hit != []))

/-! ### Tags and rendezvous -/

/-- R271, R274, R282 to R286: TAGALLOC takes the lowest free index, or repeats what the group got; TAGSET, RVSEND and RVSENDG set out for
the tag's home segment with what they carry; TAGFREE of a current tag advances its generation.
Model's choices: log 88 and 91. -/
def Obligations.Tags : Prop :=
  (∀ (s : State) (o : Operands) (iss : Iss),
    let c := iss.tm.ctx
    let word := fun (i : Nat) => tagWord s c i 0
    let r := fun (i : Nat) => recAddr s c i
    let kept := fun (s' : State) (a n : Nat) => ∀ x, x < 2 ^ 39 → x < a ∨ a + n ≤ x → homeByte s' c x = homeByte s c x
    (Issues s (.tagalloc o) o iss → ∀ v, again iss = some v → ScalarDone (.tagalloc o) s iss (fun _ => (v.extractLsb' 0 32, some true))) ∧
    (Issues s (.tagalloc o) o iss → again iss = none → (∀ i, i < tagCount s c → recAlloc (word i) = true) → ScalarDone (.tagalloc o) s iss (fun _ => (0xFFFFFFFF, some false))) ∧
    (Issues s (.tagalloc o) o iss → again iss = none → ∀ i, i < tagCount s c → recAlloc (word i) = false → (∀ j, j < i → recAlloc (word j) = true) →
      s.badLines = [] → s.lost = [] → r i + 32 ≤ 2 ^ 39 →
      let t := BitVec.ofNat 32 (recGen (word i) * 2 ^ 24 + i)
      ∃ s' gr', GoesOn (.tagalloc o) s iss s' ∧ groupOf s' iss.t iss.g = some gr' ∧ (if shadowed iss.gr iss.k then gr'.hallocs = iss.gr.hallocs ++ [(iss.pc, t.setWidth 64)] else gr'.allocs = iss.gr.allocs ++ [(iss.pc, t.setWidth 64)]) ∧
        SregsDone iss gr' (scalarRegs iss (fun _ => (t, some true))) ∧ (∀ j, j < iss.gr.slices.length → (sliceOf gr' j).scc = (iss.q.members.getLsbD j || (sliceOf iss.gr j).scc)) ∧
        tagWord s' c i 0 = BitVec.ofNat 32 (recGen (word i) * 2 ^ 24 + 2 ^ 15) ∧ (∀ j, 1 ≤ j → j ≤ 7 → tagWord s' c i j = 0) ∧ kept s' (r i) 32 ∧ tagState s' c i = tagStateNew) ∧
    (∀ t, uniform32 s iss o.a = .ok (some t) →
      let i := tagIndex t
      let n := (scal32 s iss iss.k o.c).toNat
      let off := (scal32 s iss iss.k o.b).toNat
      let first := match o.b with | .vec x => x.toNat | _ => 0
      let zero := fun (code : Nat) => ({ cls := 0, code := code, mask := iss.act } : Flt)
      let sent := fun (slot : Nat) (bytes : List Byte) => ({ id := s.nextId, ctx := c, tag := t, slot := slot, bytes := bytes, src := iss.t, group := iss.g, seq := iss.gr.acqSeq, core := iss.tm.core, tx := iss.tm.x, ty := iss.tm.y, tz := iss.tm.z, device := s.deviceId.toNat, result := false, set := none } : Send)
      let read := fun (i : Instr) (n align : Nat) (then_ : Prop) => (off % align ≠ 0 → Stops i s iss (zero 14)) ∧ (off % align = 0 → iss.tm.scratchBytes < off + n → Stops i s iss (zero 15)) ∧
        (off % align = 0 → off + n ≤ iss.tm.scratchBytes → badScratch iss.tm ((List.range n).map (fun j => off + j)) = false → then_)
      let size := 64 ≤ n ∧ n ≤ 512 ∧ n % 64 = 0
      (∀ x ∈ [Instr.tagset o, .tagfree o, .rvsend o, .rvsendg o], Issues s x o iss → tagCount s c ≤ i → (∀ o, x = .rvsend o → size) → (∀ o, x = .rvsendg o → size ∧ first + (n + 127) / 128 ≤ budgetOf iss) → Stops x s iss (zero 13)) ∧
      (Issues s (.rvsend o) o iss → ¬size → Stops (.rvsend o) s iss (zero 13)) ∧
      (Issues s (.rvsendg o) o iss → n ≠ 0 → budgetOf iss < first + (n + 127) / 128 → Stops (.rvsendg o) s iss (zero 10)) ∧
      (Issues s (.rvsendg o) o iss → n = 0 ∨ first + (n + 127) / 128 ≤ budgetOf iss → ¬size → Stops (.rvsendg o) s iss (zero 13)) ∧
      (i < tagCount s c →
        (Issues s (.tagset o) o iss → read (.tagset o) 32 32 (
          let mask := if o.form = .f96c then (scal32 s iss iss.k o.c).setWidth 8 else 0xFF#8
          GoesOn (.tagset o) s iss { (takePlace s iss.t iss.g iss.tm.core).2 with nextId := s.nextId + 1, sends := s.sends ++ [{ sent 0 [] with seq := (coreOf s iss.tm.core).storeSeq, set := some (mask, substitute iss.tm.handle mask (scratchBytes iss.tm off 32)) }] })) ∧
        (Issues s (.tagfree o) o iss → recGen (word i) ≠ tagGen t → GoesOn (.tagfree o) s iss s) ∧
        (Issues s (.tagfree o) o iss → ∃ s', GoesOn (.tagfree o) s iss s') ∧
        (Issues s (.tagfree o) o iss → recGen (word i) = tagGen t → (tagState s c i).queue = [] → s.badLines = [] → s.lost = [] → r i + 32 ≤ 2 ^ 39 → ∃ s', GoesOn (.tagfree o) s iss s' ∧
          tagWord s' c i 0 = (word i &&& 0x00FE0000) ||| BitVec.ofNat 32 ((tagGen t + 1) % 256 * 2 ^ 24) ∧ kept s' (r i) 4 ∧ tagState s' c i = tagStateNew) ∧
        (Issues s (.rvsend o) o iss → size → read (.rvsend o) n 64 (
          (storesReached s iss.t iss.g 3 = false ∨ loadsPerformed iss.gr = false → Waits (.rvsend o) s iss .retry) ∧
          (storesReached s iss.t iss.g 3 = true → loadsPerformed iss.gr = true → GoesOn (.rvsend o) s iss { s with nextId := s.nextId + 1, sends := s.sends ++ [sent (mf o 50 50) (scratchBytes iss.tm off n)] }))) ∧
        (Issues s (.rvsendg o) o iss → size → first + (n + 127) / 128 ≤ budgetOf iss → GoesOn (.rvsendg o) s iss { s with nextId := s.nextId + 1, sends := s.sends ++ [sent (mf o 50 50) ((List.range n).map (fun j =>
          let l := j % 128 / 4
          if iss.q.members.getLsbD (l / 4) then (vreg iss.gr (first + j / 128) l).extractLsb' (8 * (j % 4)) 8 else 0))] })))) ∧
  (∀ (handle : Nat) (mask : BitVec 8) (image : List Byte) (j : Nat), image.length = 32 → handle < 2 ^ 14 → j < 8 →
    let w := leNat ((image.drop (4 * j)).take 4)
    leNat (((substitute handle mask image).drop (4 * j)).take 4) =
      if mask.getLsbD j = true ∧ (j = 3 ∨ j = 6) ∧ w / 2 ^ 14 % 4 = 2 ∧ w % 2 ^ 14 = 0x3FFF then w - 0x3FFF + handle
      else if mask.getLsbD j = true ∧ (j = 4 ∨ j = 7) ∧ w / 2 ^ 30 = 2 ∧ w / 2 ^ 16 % 2 ^ 14 = 0x3FFF then w - 0x3FFF * 2 ^ 16 + handle * 2 ^ 16
      else w)

/-- R275 to R281, R284, R421 to R427, R436: at the tag's home segment an operand fails one of R277's checks and is lost, or waits as the first of
a round, or combines with the head of the other slot's queue; a TAGSET replaces the dwords its mask names, or is refused with 6.11; a
timeout orphans the tag; a destination takes a result.
Model's choices: log 86, 89, 90, 92, 129 and 145. -/
def Obligations.RendezvousEvents : Prop :=
  (∀ (s : State) (sd : Send), s.sends.find? (fun x => x.id == sd.id) = some sd →
    (∀ x ∈ s.sends, x.id < sd.id → x.ctx = sd.ctx → tagIndex x.tag = tagIndex sd.tag → x.result = sd.result →
      ¬(x.src = sd.src ∧ x.group = sd.group) ∧ ¬(sd.result = false ∧ x.set.isSome = true ∧ x.core = sd.core ∧ x.seq < sd.seq)) →
    let c := sd.ctx
    let i := tagIndex sd.tag
    let ev := exec (.rendezvousArrival sd.id) s
    -- a timeout that elapsed before an operand's L2 cycle, or by a TAGSET's, comes first
    let s0 := elapse { s with sends := s.sends.filter (fun x => x.id != sd.id) } c i (if sd.set = none then s.l2cycle else s.l2cycle + 1)
    let d := tagWord s0 c i 0
    let x := tagState s0 c i
    let y : TagState := if sd.slot = 0 then { x with rounds0 := x.rounds0 + 1 } else { x with rounds1 := x.rounds1 + 1 }
    let round := if sd.slot = 0 then y.rounds0 else y.rounds1
    let lost := fun (code : Nat) => ev = .next (lose (putTagState s0 c i y) { ctx := c, code := code, tag := sd.tag, slot := sd.slot, bytes := sd.bytes, result := sd.result, round := round, fail := 0, core := sd.core, x := sd.tx, y := sd.ty, z := sd.tz, device := sd.device })
    let current := recGen d = tagGen sd.tag ∧ recAlloc d = true
    let fits := current ∧ recSet d = true ∧ sd.bytes.length = (recSzc d + 1) * 64
    let q := ctxOf s0 c
    (∃ u, ev = .next u) ∧
    (sd.set = none →
      (recGen d ≠ tagGen sd.tag → lost 1) ∧ (recGen d = tagGen sd.tag → recAlloc d = false → lost 2) ∧ (current → recSet d = false → lost 3) ∧
      (current → recSet d = true → sd.bytes.length ≠ (recSzc d + 1) * 64 → lost 4) ∧ (fits → x.orphan = true → lost 5) ∧
      -- the first operand of a round, with room in the cloakroom
      (fits → x.orphan = false → q.isSome = true → x.queue = [] ∨ x.slot = sd.slot → cloakRoom s0 (Config.tagHash c i).val = true → ∃ e,
        ev = .next { s0 with nextId := s0.nextId + 1, entries := s0.entries ++ [e], ctxs := (putTagState s0 c i { y with slot := sd.slot, queue := x.queue ++ [s0.nextId], since := if x.queue = [] then s0.l2cycle else x.since }).ctxs } ∧
        e = { id := s0.nextId, ctx := c, tag := sd.tag, annex := none, segment := (Config.tagHash c i).val, send := sd, round := round, dests := [], waitTouch := [] }) ∧
      -- the second operand: the slot 0 operand is always the first of the operation
      (fits → x.orphan = false → q.isSome = true → ∀ head rest e, x.queue = head :: rest → x.slot ≠ sd.slot → findEntry s0 head = some e → annexBad s0 e = false →
        let z := if sd.slot = 0 then combine (recOp d) sd.bytes e.send.bytes else combine (recOp d) e.send.bytes sd.bytes
        let ds := destsOf s0 c i
        ∃ u, ev = .next u ∧ tagState u c i = { y with queue := rest, since := s0.l2cycle } ∧ u.mem = s0.mem ∧
          (ds = [] → u.entries = s0.entries.filter (fun x => x.id != head)) ∧
          (ds ≠ [] → u.entries = s0.entries.map (fun x => if x.id == head then { x with send := { x.send with bytes := z, result := true }, dests := ds } else x)))) ∧
    (∀ m im, sd.set = some (m, im) →
      let im' := fun j => BitVec.ofNat 32 (leNat ((im.drop (4 * j)).take 4))
      let d' : W32 := (d &&& 0xFF008000) ||| ((if m.getLsbD 0 then im' 0 else d) &&& 0x00FE0000) ||| 0x00010000
      let word := fun (j : Nat) => if m.getLsbD j then im' j else tagWord s0 c i j
      -- the four destinations of 48 bits; reserved bits of a destination read as 0
      let dest := fun (u : State) (k : Nat) => leNat ((List.range 6).flatMap (fun j => bytesOf 4 (tagWord u c i (j + 2)).toNat)) / 2 ^ (48 * k) % 2 ^ 48
      let given := fun (k : Nat) => leNat ((List.range 6).flatMap (fun j => bytesOf 4 (word (j + 2)).toNat)) / 2 ^ (48 * k) % 2 ^ 48
      let good := current ∧ recOp d' < 12 ∧ (recOp d' = 11 → recSzc d' ≤ 3)
      (good → recAddr s0 c i + 32 ≤ 2 ^ 39 → s0.badLines = [] → s0.lost = [] → q.isSome = true → ∃ u, ev = .next u ∧ (tagWord u c i 0 = d') ∧ tagWord u c i 1 = word 1 ∧
        (∀ k, k < 4 → dest u k = if given k / 2 ^ 46 = 0 then 0 else if given k / 2 ^ 46 = 1 then 2 ^ 46 + given k % 2 ^ 33 else given k) ∧
        (∀ a, a < 2 ^ 39 → a < recAddr s0 c i ∨ recAddr s0 c i + 32 ≤ a → homeByte u c a = homeByte s0 c a) ∧ (tagState u c i).orphan = false) ∧
      (¬good → ev = .next (postRecord s0 c { cls := 6, code := 11, addr := BitVec.ofNat 64 sd.tag.toNat, detail := some 0xFFFFFFFF, x := sd.tx, y := sd.ty, z := sd.tz, core := sd.core, lost := true })))) ∧
  -- the operation
  (∀ (op : Nat) (x y : List Byte), (op = 10 → combine op x y = x) ∧ (op = 11 → combine op x y = x ++ y) ∧
    (op < 10 → op ≠ 1 → ∀ i, 4 * i + 4 ≤ x.length → x.length = y.length → ∀ a b, a = BitVec.ofNat 32 (leNat ((x.drop (4 * i)).take 4)) → b = BitVec.ofNat 32 (leNat ((y.drop (4 * i)).take 4)) →
      BitVec.ofNat 32 (leNat (((combine op x y).drop (4 * i)).take 4)) = match op with
        | 0 => f32 (FVal.add (ofF32 a) (ofF32 b)) | 2 => a + b | 3 => f32 (FVal.maxNum (ofF32 a) (ofF32 b)) | 4 => f32 (FVal.minNum (ofF32 a) (ofF32 b))
        | 5 => if a.slt b then b else a | 6 => if a.slt b then a else b | 7 => a &&& b | 8 => a ||| b | _ => a ^^^ b) ∧
    -- BFADD16: elements of two bytes
    (∀ i, 2 * i + 2 ≤ x.length → x.length = y.length → let el := fun (bs : List Byte) => leNat ((bs.drop (2 * i)).take 2)
      el (combine 1 x y) = encodeF fmtBF16 .rne (FVal.add (fmtBF16.decode (el x)) (fmtBF16.decode (el y))))) ∧
  -- the timeout
  (∀ (s : State) (c i : Nat) (q : Ctx), ctxOf s c = some q →
    let x := tagState s c i
    let own := tagWord s c i 1
    let tmo := if own = 0 then q.defaultTmo else own
    let due := x.queue ≠ [] ∧ tmo ≠ 0 ∧ x.since + tmo.toNat * Config.timeoutUnit < s.l2cycle ∧ q.phase ≠ .stopped
    (¬due → exec (.rendezvousTimeout c i) s = .refused .eventNotEnabled) ∧
    (due → ∃ u, exec (.rendezvousTimeout c i) s = .next u ∧ (tagState u c i).orphan = true ∧ (tagState u c i).queue = []) ∧
    (∀ n, ¬(x.queue ≠ [] ∧ tmo ≠ 0 ∧ x.since + tmo.toNat * Config.timeoutUnit < n) → elapse s c i n = s)) ∧
  -- the deliveries
  (∀ (s : State) (e : Entry) (d layout : Nat), findEntry s e.id = some e → e.dests.find? (fun y => y.1 == d) = some (d, layout) → annexBad s e = false →
    (∀ x ∈ s.entries, x.id < e.id → x.ctx = e.ctx → x.tag = e.tag → ∀ y ∈ x.dests, y.1 ≠ d ∧ y.2 ≠ layout) →
    (∀ y ∈ e.waitTouch, y.1 = d → touchPending s e.ctx y.2 = false) → (∀ q ∈ s.peerReqs, q.who ≠ .delivery e.id d) →
    let ev := exec (.rendezvousDelivery e.id d) s
    let t := BitVec.ofNat 32 layout
    let lost := fun (code fail : Nat) => ev = .next (destTaken (lose s { ctx := e.ctx, code := code, tag := e.tag, slot := 0, bytes := e.send.bytes, result := true, round := e.round, fail := fail, device := s.deviceId.toNat }) e.id d)
    let taken := fun (u : State) => ∀ x ∈ u.entries, x.id = e.id → ∀ y ∈ x.dests, y.1 ≠ d
    (layout / 2 ^ 46 = 1 → tagCount s e.ctx ≤ tagIndex t → lost 8 13) ∧
    (layout / 2 ^ 46 = 1 → tagIndex t < tagCount s e.ctx → ∃ u sd, ev = .next u ∧ u.sends = s.sends ++ [sd] ∧ sd.ctx = e.ctx ∧ sd.tag = t ∧ sd.slot = layout / 2 ^ 32 % 2 ∧ sd.bytes = e.send.bytes ∧ sd.result = true ∧ sd.set = none ∧ taken u) ∧
    (layout / 2 ^ 46 = 2 → handleTeam s e.ctx (layout / 2 ^ 32 % 2 ^ 14) = none → lost 7 0) ∧
    (layout / 2 ^ 46 = 2 → ∀ tid tm, handleTeam s e.ctx (layout / 2 ^ 32 % 2 ^ 14) = some (tid, tm) →
      let here := tm.phase = .aborting ∨ (tm.phase = .placed ∨ tm.phase = .running) ∧ ∃ q, ctxOf s e.ctx = some q ∧ q.phase = .running
      (¬here → e.annex.isSome = true ∨ annexFree s e.ctx = none → ev = .refused .eventNotEnabled) ∧
      (here → ev = .next (destTaken (landDelivery s tid tm (16 * (layout / 2 ^ 16 % 2 ^ 16)) (16 * (layout % 2 ^ 16)) e.send.bytes) e.id d))) ∧
    (layout / 2 ^ 46 = 3 → (∃ u, ev = .next u) ∧
      ∀ q, ctxOf s e.ctx = some q →
      let a := q.dlvbase.toNat + 64 * (layout % 2 ^ 34)
      let n := e.send.bytes.length
      let head := min n (65536 - a % 2 ^ 57 % 65536)
      let tl := layout / 2 ^ 34 % 2 ^ 12
      let part := fun (lo n : Nat) => engineXlatOut s (segmentWho e.ctx) false ((List.range n).map (fun i => (a + lo + i) % 2 ^ 57))
      -- a page that no delivery can be made to
      (∀ cls code va dt, part 0 head = .error (.charge cls code va dt) → lost 8 (cls * 2 ^ 28 + code)) ∧
      -- local homes: the bytes, then the timeline
      (∀ xs ys, part 0 head = .ok xs → part head (n - head) = .ok ys → (∀ x ∈ xs ++ ys, x.others = [] ∧ isPeer x.pa = false) → s.badLines = [] → s.lost = [] →
        ∃ u q', ev = .next u ∧ taken u ∧ ctxOf u e.ctx = some q' ∧ (∀ i, mgetD q'.timelines 0 i = if i = tl then BitVec.ofNat 64 (min ((mgetD q.timelines 0 tl).toNat + 1) (2 ^ 64 - 1)) else mgetD q.timelines 0 i) ∧
          ∀ b, readByte u.mem b = ((((xs ++ ys).map (fun x => localise s x.pa)).zip e.send.bytes).foldl (fun acc p => if p.1 = b then some p.2 else acc) none).getD (readByte s.mem b)))) ∧
  -- what lands beside a live object, and what the object counts
  (∀ (s : State) (t : Nat) (tm : Team) (obj off : Nat) (bs : List Byte), mwf s.teams = true → teamOf s t = some tm → obj % 16 = 0 → (mget tm.objs (obj / 16)).isSome = true → tm.bad = [] →
    off + bs.length ≤ tm.scratchBytes → liveHit s t tm ((List.range bs.length).map (fun j => off + j)) = none → (off + bs.length ≤ obj ∨ obj + 16 ≤ off) →
    let b := objAt tm obj
    let x : BarObj := { b with arrived := b.arrived + bs.length }
    x.arrived < 2 ^ 32 → ¬(b.pending = 0 ∧ b.expected < x.arrived) →
    ∃ tm', teamOf (landDelivery s t tm obj off bs) t = some tm' ∧
      objAt tm' obj = (if x.pending = 0 ∧ x.arrived = x.expected then { expected := 0, arrived := 0, pending := x.initial, initial := x.initial, phase := !x.phase } else x) ∧
      ∀ a, (a < obj ∨ obj + 16 ≤ a) → scratchByte tm' a = if off ≤ a ∧ a < off + bs.length then bs.getD (a - off) 0 else scratchByte tm a)

/-! ### Generators and procedural memory -/

/-- R289 to R291: GDONE waits for the team's earlier stores and fills the team's block; GFAIL ends the attempt with its code; both are 0.19
outside a generator team and after its first of them. PRBLK reads a block's fill state; PREVICT evicts a filled block, now or once it is
unpinned.
Model's choices: log 13, 37 and 65. -/
def Obligations.Generators : Prop :=
  (∀ (s : State) (o : Operands) (iss : Iss),
    let c := iss.tm.ctx
    let waiting := fun (n : Nat) => ∃ w, iss.q.wait = some w ∧ w.kind = .gdone n
    let acted := act s iss.t
    let page := (scal64 s iss iss.k o.a).toNat % 2 ^ 57 / 2 ^ 16
    let illegal := fun (i : Instr) => Stops i s iss { cls := 0, code := 19, mask := iss.act }
    let done := fun (seq : Nat) =>
      (storesHome acted iss.t iss.tm seq = false → exec (.gdone o) s = .next (setWait acted iss.t iss.g iss.k (.gdone seq))) ∧
      (storesHome acted iss.t iss.tm seq = true →
        (∀ block b, ownBlock acted iss.tm = some (block, b) → GoesOn (.gdone o) s iss (fillDone (released acted iss.tm.core seq) c block b)) ∧
        (ownBlock acted iss.tm = none → GoesOn (.gdone o) s iss acted))
    (Issues s (.gdone o) o iss →
      (iss.tm.gen = none → illegal (.gdone o)) ∧
      (∀ g, iss.tm.gen = some g →
        (g.acted = true → (∀ n, ¬waiting n) → illegal (.gdone o)) ∧ (∀ n, waiting n → done n) ∧
        (g.acted = false → (∀ n, ¬waiting n) → done (coreOf s iss.tm.core).storeSeq))) ∧
    (Issues s (.gfail o) o iss →
      (iss.tm.gen = none → illegal (.gfail o)) ∧
      (∀ g, iss.tm.gen = some g → (g.acted = true → illegal (.gfail o)) ∧
        (g.acted = false → GoesOn (.gfail o) s iss (endAttempt acted c g.block iss.tm.grid (2, scal32 s iss iss.k o.a, true))))) ∧
    (Issues s (.prblk o) o iss →
      let e := leafOf s c (2 ^ 16 * page)
      let proc := e % 4 = 3 ∧ e / 2 ^ 6 % 2 = 1
      let fill := e / 2 ^ 52 % 4
      ScalarDone (.prblk o) s iss (fun _ => (if proc then BitVec.ofNat 32 (if fill = 2 ∧ pinned s c page = true then 10 else fill) else 4, some (decide (proc ∧ fill = 2))))) ∧
    (Issues s (.previct o) o iss →
      ((∀ b, blockOf s c page = some b → b.filled = false) → SccDone (.previct o) s iss (fun _ => false)) ∧
      (∀ b, blockOf s c page = some b → b.filled = true → ∃ s', GoesOn (.previct o) s iss (modGroup s' iss.t iss.g (fun gr => setScc gr iss.q.members (fun _ => true))) ∧
        (pinned s c page = true → s' = { s with ctxs := s'.ctxs } ∧ blockOf s' c page = some { b with evict := true }) ∧
        (pinned s c page = false → s' = evict s c page)))) ∧
  -- the generator's first GDONE or GFAIL has acted
  (∀ (s : State) (t : Nat) (tm : Team), teamOf s t = some tm → act s t = modTeam s t (fun _ => { tm with gen := tm.gen.map (fun g => { g with acted := true }) })) ∧
  (∀ (s : State) (c block grid : Nat) (cause : Nat × W32 × Bool) (b : Block), blockOf s c block = some b →
    blockOf (endAttempt s c block grid cause) c block = some (if b.filled = false ∧ b.ended = none ∧ b.grid = some grid then { b with ended := some cause } else b))

/-- R112 to R118, R429 to R433, R435: a touch finds its block filled, joins its queue, is charged, or starts a fill, whose frame comes from
the touching die's part of the allotment; a filled block stands in its leaf; a failed one keeps its code and detail there; an unpinned block
that is to be evicted is; the frame of an evicted block, if it is not withheld, returns to the allotment, of which each part holds at most
4,194,304; an attempt that has ended is repeated or fails the block.
Model's choices: log 37, 93, 94, 95 and 104. -/
def Obligations.ProceduralEvents : Prop :=
  (∀ (s : State) (u : Touch) (q : Ctx), s.touches.find? (fun x => x.id == u.id) = some u → ctxOf s u.ctx = some q →
    let ev := exec (.proceduralTouch u.id) s
    let s0 := { s with touches := s.touches.filter (fun x => x.id != u.id) }
    let e := leafOf s u.ctx (65536 * u.block)
    let unfilled := e % 4 = 3 ∧ e / 2 ^ 6 % 2 = 1 ∧ e / 2 ^ 52 % 4 = 0
    let nested := fun (b : Nat) => ∃ g, u.gen = some g ∧ b ∈ g.ancestors
    (∀ b, mget q.blocks u.block = some b →
      (b.filled = true → ev = .next s0) ∧
      (b.filled = false → nested u.block → ev = .next (chargeTouches s0 [u] 5 (b.range * 2 ^ 16 + b.gen.depth))) ∧
      (b.filled = false → ¬nested u.block → ev = .next (modBlock s0 u.ctx u.block (fun b => { b with queue := b.queue ++ [u] })))) ∧
    (mget q.blocks u.block = none →
      (rangeOf q u.block = none ∨ ¬unfilled → ev = .next s0) ∧
      (∀ n r, rangeOf q u.block = some (n, r) → unfilled →
        let depth := match u.gen with | some g => g.depth + 1 | none => 1
        let mask := packetMask (pkSingle (pkWithCtx r.packet u.ctx))
        (r.deleting = true ∨ q.phase ≠ .running → ev = .refused .eventNotEnabled) ∧
        (r.deleting = false → q.phase = .running →
          (r.limit < depth → ev = .next (chargeTouches s0 [u] 4 (n * 2 ^ 16 + r.limit * 2 ^ 8 + depth))) ∧
          (depth ≤ r.limit → mask ≠ 0 → ev = .next (chargeTouches s0 [u] 8 mask)) ∧
          (depth ≤ r.limit → mask = 0 → q.allot0 = [] → q.allot1 = [] → ev = .next (chargeTouches s0 [u] 7 u.die)) ∧
          (depth ≤ r.limit → mask = 0 → (q.allot0 ≠ [] ∨ q.allot1 ≠ []) → mget q.catalogue n = some r → r.budget = 0 → windowDead s (pkSingle (pkWithCtx r.packet u.ctx)) = false → s.badLines = [] → s.lost = [] →
            let own := if u.die = 0 then q.allot0 else q.allot1
            let other := if u.die = 0 then q.allot1 else q.allot0
            let f := (own.head?.or other.head?).getD 0
            let so := Machine.own s u.ctx f
            ∃ v b, ev = .next v ∧ blockOf v u.ctx u.block = some b ∧ b.frame = f ∧ b.queue = [u] ∧ b.filled = false ∧ b.range = n ∧ b.gen.depth = depth ∧ b.gen.attempt = 0 ∧ b.grid = some (s.nextId + 1) ∧
              (∀ q', ctxOf v u.ctx = some q' → (q'.allot0, q'.allot1) = (if u.die = 0 then (if own = [] then (own, other.tail) else (own.tail, other)) else (if own = [] then (other.tail, own) else (other, own.tail)))) ∧
              (isWithheld s f = false → ownerOf v f = u.ctx) ∧ (∀ a, leafAddr so u.ctx (65536 * u.block) = some a → a + 8 ≤ 2 ^ 39 → home64 v u.ctx a = withFill (leafOf so u.ctx (65536 * u.block)) 1 0)))))) ∧
  (∀ e fill frame : Nat, e < 2 ^ 64 → fill < 4 → let x := withFill e fill frame; x % 2 ^ 16 = e % 2 ^ 16 ∧ x / 2 ^ 16 % 2 ^ 36 = frame % 2 ^ 36 ∧ x / 2 ^ 52 % 4 = fill ∧ x / 2 ^ 54 = e / 2 ^ 54) ∧
  -- a filled block
  (∀ (s : State) (c block : Nat) (b : Block) (q : Ctx), ctxOf s c = some q → mget q.blocks block = some b →
    let u := fillDone s c block b
    (∃ b', blockOf u c block = some b' ∧ b' = { b with filled := true, filledAt := s.nextId, grid := none }) ∧
    (∀ a, leafAddr s c (65536 * block) = some a → a + 8 ≤ 2 ^ 39 → s.badLines = [] → s.lost = [] → home64 u c a = withFill (leafOf s c (65536 * block)) 2 (b.frame / 65536)) ∧
    (∀ r i, mget q.catalogue b.range = some r → r.tl = some i → (timelineOf u c i).toNat = min ((timelineOf s c i).toNat + 1) (2 ^ 64 - 1))) ∧
  -- the end of an attempt, and of a block
  (∀ (s : State) (c block : Nat) (b : Block) (q : Ctx), ctxOf s c = some q → mget q.blocks block = some b →
    let ev := exec (.generatorAttemptEnd c block) s
    let tries := match mget q.catalogue b.range with | some r => r.retry | none => 0
    (b.filled = true ∨ attemptEnd s b = none → ev = .refused .eventNotEnabled) ∧
    (b.filled = false → ∀ code detail again, attemptEnd s b = some (code, detail, again) →
      (again = true → b.gen.attempt < tries → (∃ g, b.grid = some g ∧ (mget s.grids g).isSome = true) → ev = .refused .eventNotEnabled) ∧
      (again = true → b.gen.attempt < tries → (∀ g, b.grid = some g → mget s.grids g = none) →
        ev = .next (startAttempt (modBlock s c block (fun _ => { b with gen := { b.gen with attempt := b.gen.attempt + 1 } })) c block)) ∧
      (again = false ∨ tries ≤ b.gen.attempt → ev = .next (failBlock s c block b code detail))) ∧
    (∀ (code : Nat) (detail : W32), let u := failBlock s c block b code detail
     blockOf u c block = none ∧
     -- with no requester left to be charged
     ((∀ t ∈ b.queue, requesterLives s t = false) → ∃ v, u = postRecord v c { cls := 4, code := code, addr := BitVec.ofNat 64 (65536 * block), detail := some detail }) ∧
     ∀ a, (∀ t ∈ b.queue, requesterLives s t = false) → leafAddr s c (65536 * block) = some a → a + 8 ≤ 2 ^ 39 → s.badLines = [] → s.lost = [] → ownerOf s a = c ∨ a / 2 ^ 16 ≠ b.frame / 2 ^ 16 → home64 u c a = withFill (leafOf s c (65536 * block)) 3 (code * 2 ^ 32 + detail.toNat)) ∧
    (exec (.blockUnpin c block) s = if b.filled = true ∧ pinned s c block = false ∧ b.evict = true then .next (evict s c block) else .refused .eventNotEnabled) ∧
    (b.filled = true → blockOf (evict s c block) c block = none ∧ ∃ q', ctxOf (evict s c block) c = some q' ∧
      (q'.allot0, q'.allot1) = if isWithheld s b.frame = true then (q.allot0, q.allot1) else if b.frame / 2 ^ 38 % 2 = 0 then (if q.allot0.length < 2 ^ 22 then b.frame :: q.allot0 else q.allot0, q.allot1) else (q.allot0, if q.allot1.length < 2 ^ 22 then b.frame :: q.allot1 else q.allot1)) ∧
    -- at the end of a cycle a block that has become unpinned while its range is over budget is marked for eviction
    (mwf q.blocks = true → ∃ b', blockOf (notePins s c) c block = some b' ∧ b' = { b with held := b.filled && pinned s c block, evict := b'.evict } ∧ (b.evict = true → b'.evict = true) ∧
      (b'.evict = true → b.evict = true ∨ (b.held = true ∧ b.filled = true ∧ pinned s c block = false ∧ overBudget q b.range = true))))

/-! ### The supervisor -/

/-- R294, R297, R300, R464: SYSRD reads every register but the write-only ones; SYSWR writes xlroot, cmptab, rsetbase, dlvbase and errmb,
pushes frames onto the allotment through apush0 and apush1, and names the handler through hentry; other registers are 0.18.
Model's choices: log 50, 104, 122 and 123. -/
def Obligations.SystemRegisters : Prop :=
  ∀ (s : State) (o : Operands) (iss : Iss) (q : Ctx), ctxOf s iss.tm.ctx = some q →
    let c := iss.tm.ctx
    let n := litA iss
    let v := scal64 s iss iss.k o.b
    let illegal := fun (i : Instr) => Stops i s iss { cls := 0, code := 18, mask := iss.act }
    let wide := fun (x : W32) => BitVec.ofNat 64 x.toNat
    let reads := fun (x : W64) => PairDone (.sysrd o) s iss (fun _ => (x, none))
    let writes := fun (i : Instr) (q' : Ctx) => ∃ s', GoesOn i s iss s' ∧ s' = { s with ctxs := s'.ctxs, owner := s'.owner } ∧ ctxOf s' c = some q' ∧ ∀ d, d ≠ c → ctxOf s' d = ctxOf s d
    (Issues s (.sysrd o) o iss →
      (n = 0 → reads q.xlroot) ∧ (n = 1 → reads q.cmptab) ∧ (n = 2 → reads q.rsetbase) ∧ (n = 3 → reads q.dlvbase) ∧ (n = 4 → reads q.hentry) ∧ (n = 5 → reads (wide q.errmb)) ∧
      (n = 6 → reads q.tagbase) ∧ (n = 7 → reads (wide q.tagcount)) ∧ (n = 8 → reads q.annexbase) ∧ (n = 9 → reads (wide q.annexsize)) ∧ (n = 10 → reads q.lostbase) ∧
      (n = 11 → reads (wide q.lostsize)) ∧ (n = 14 → reads (BitVec.ofNat 64 q.allot0.length)) ∧ (n = 15 → reads (BitVec.ofNat 64 q.allot1.length)) ∧ (n = 12 ∨ n = 13 → illegal (.sysrd o))) ∧
    (Issues s (.syswr o) o iss →
      (n = 0 → writes (.syswr o) { q with xlroot := v }) ∧ (n = 1 → writes (.syswr o) { q with cmptab := v }) ∧ (n = 2 → writes (.syswr o) { q with rsetbase := v }) ∧
      (n = 3 → writes (.syswr o) { q with dlvbase := v }) ∧ (n = 5 → writes (.syswr o) { q with errmb := v.extractLsb' 0 32 }) ∧ (n ∉ [0, 1, 2, 3, 5] → illegal (.syswr o))) ∧
    (Issues s (.apush o) o iss → n = 12 ∨ n = 13 →
      let f := localise s v.toNat
      let right := f % 2 ^ 16 = 0 ∧ f < 2 ^ 39 ∧ f / 2 ^ 38 = n - 12
      (¬right → illegal (.apush o)) ∧
      (right → isWithheld s f = false → (if n = 12 then q.allot0 else q.allot1).length < 2 ^ 22 → writes (.apush o) (if n = 12 then { q with allot0 := f :: q.allot0 } else { q with allot1 := f :: q.allot1 })) ∧
      (right → isWithheld s f = true ∨ 2 ^ 22 ≤ (if n = 12 then q.allot0 else q.allot1).length → GoesOn (.apush o) s iss s)) ∧
    (Issues s (.hentryWrite o) o iss →
      (v = 0 → writes (.hentryWrite o) { q with hentry := 0 }) ∧
      (v ≠ 0 → Config.imageFails c s.cycle.toNat v = 0 → writes (.hentryWrite o) { q with hentry := v, images := q.images ++ [Config.sha384 (Config.handlerImage c s.cycle.toNat v)] }) ∧
      (v ≠ 0 → Config.imageFails c s.cycle.toNat v ≠ 0 → GoesOn (.hentryWrite o) s iss (postRecord s c { cls := 10, code := 1, detail := some ((Config.imageFails c s.cycle.toNat v).setWidth 32) })))

/-- R90, R295, R298 to R300: PMAP writes the leaf of a page that has none, as a release at .PKG after the group's stores; PUNMAP clears a leaf and drops its cached
table entries, translations and replica-set entries, PUNMAP.RET also gives its local frame to the allotment; TLBINV drops the cached translations of all pages, one, or a range;
POOLGET takes a frame, and repeats what the group got. A leaf without tables, or procedural, is 0.18.
Model's choices: log 59, 65, 103 and 104. -/
def Obligations.Leaves : Prop :=
  ∀ (s : State) (o : Operands) (iss : Iss) (q : Ctx), ctxOf s iss.tm.ctx = some q →
    let c := iss.tm.ctx
    let va := (scal64 s iss iss.k o.a).toNat % 2 ^ 57
    let page := va / 2 ^ 16
    let illegal := fun (i : Instr) => Stops i s iss { cls := 0, code := 18, mask := iss.act }
    let late := storesReached s iss.t iss.g 3 = false
    let flying := fun (p : Pages) => inFlight s c p = true
    let scc := fun (s' : State) (v : Bool) => modGroup s' iss.t iss.g (fun gr => setScc gr iss.q.members (fun _ => v))
    let dropped := fun (s' : State) (p : Pages) => ∀ n, coreOf s' n = { coreOf s n with tlb := (coreOf s n).tlb.filter (fun x => !(x.1.1 == c && coversPage p x.1.2.1 x.1.2.2)), l1 := otherLines c (coreOf s n).l1 }
    let apart := fun (x frame : Nat) => ownerOf s x = c ∨ x / 2 ^ 16 ≠ frame / 2 ^ 16
    let kept := fun (s' : State) (a frame : Nat) => ∀ x, x < 2 ^ 39 → x < a ∨ a + 8 ≤ x → apart x frame → homeByte s' c x = homeByte s c x
    (∀ i ∈ [Instr.pmap o, .punmap o, .punmapRet o], Issues s i o iss → leafAddr s c va = none ∨ (∃ a, leafAddr s c va = some a ∧ isProc (home64 s c a) = true) → illegal i) ∧
    (∀ a, leafAddr s c va = some a → a + 8 ≤ 2 ^ 39 → s.badLines = [] → s.lost = [] → isProc (home64 s c a) = false →
      let e := home64 s c a
      let f := localise s (e / 2 ^ 16 % 2 ^ 36 * 2 ^ 16)
      let fr := (scal64 s iss iss.k o.b).toNat
      let g := localise s (fr / 2 ^ 16 % 2 ^ 36 * 2 ^ 16)
      let at_ := (scal32 s iss iss.k o.c).toNat
      (∀ i ∈ [Instr.pmap o, .punmap o, .punmapRet o], Issues s i o iss → late → Waits i s iss .retry) ∧
      (Issues s (.pmap o) o iss → ¬late → e % 2 = 1 → ∃ s1, s1 = { s with journal := s1.journal } ∧ GoesOn (.pmap o) s iss (scc s1 false)) ∧
      (Issues s (.pmap o) o iss → ¬late → e % 2 = 0 → ∃ s', GoesOn (.pmap o) s iss (scc s' true) ∧ s'.teams = s.teams ∧ kept s' a g ∧ (g < 2 ^ 39 → isWithheld s g = false → ownerOf s' g = c) ∧
        let x := home64 s' c a
        apart a g → x % 2 ^ 3 = 3 ∧ x / 2 ^ 3 % 2 ^ 3 = at_ / 2 ^ 3 % 2 ^ 3 ∧ x / 2 ^ 6 % 2 ^ 10 = 0 ∧ x / 2 ^ 16 % 2 ^ 36 = fr / 2 ^ 16 % 2 ^ 36 ∧ x / 2 ^ 52 % 4 = 0 ∧ x / 2 ^ 54 % 2 = at_ / 2 ^ 18 % 2 ∧ x / 2 ^ 55 % 4 = at_ / 2 ^ 16 % 4 ∧
          x / 2 ^ 57 % 2 = at_ / 2 ^ 19 % 2 ∧ x / 2 ^ 58 = at_ / 2 ^ 20 % 2 ^ 6) ∧
      (∀ i ∈ [Instr.punmap o, .punmapRet o], Issues s i o iss → ¬late → flying (.from page 1) → Waits i s iss .retry) ∧
      (∀ i ∈ [Instr.punmap o, .punmapRet o], Issues s i o iss → ¬late → ¬flying (.from page 1) → ∃ s', GoesOn i s iss (scc s' (decide (e % 2 = 1))) ∧ s'.teams = s.teams ∧ (apart a f ∨ i = .punmap o → home64 s' c a = 0) ∧ kept s' a f ∧ dropped s' (.from page 1) ∧
        ∃ q', ctxOf s' c = some q' ∧ (q'.allot0, q'.allot1) = if i = .punmapRet o ∧ e % 2 = 1 ∧ f < 2 ^ 39 ∧ isWithheld s f = false then (if f / 2 ^ 38 = 0 then (if q.allot0.length < 2 ^ 22 then f :: q.allot0 else q.allot0, q.allot1) else (q.allot0, if q.allot1.length < 2 ^ 22 then f :: q.allot1 else q.allot1)) else (q.allot0, q.allot1))) ∧
    (∀ i p, i = .tlbinvAll o ∧ p = .all ∨ i = .tlbinvPage o ∧ p = .from page 1 ∨ i = .tlbinvRange o ∧ p = .from page (scal32 s iss iss.k o.c).toNat → Issues s i o iss →
      (late → Waits i s iss .retry) ∧
      (¬late → flying p → ∃ s', exec i s = .next (setWait s' iss.t iss.g iss.k .retry) ∧ s' = { s with cores := s'.cores } ∧ dropped s' p) ∧
      (¬late → ¬flying p → ∃ s', GoesOn i s iss s' ∧ s' = { s with cores := s'.cores } ∧ dropped s' p)) ∧
    -- an entry of level lv covers 2^(11 lv) consecutive pages, a replica-set entry one
    (∀ lv x, coversPage .all lv x = true) ∧
    (∀ p n lv x, p < 2 ^ 41 → n ≤ 2 ^ 41 → x * 2 ^ (if lv ≤ 3 then 11 * lv else 0) < 2 ^ 41 →
      (coversPage (.from p n) lv x = true ↔ ∃ i j, i < n ∧ j < 2 ^ (if lv ≤ 3 then 11 * lv else 0) ∧ (p + i) % 2 ^ 41 = x * 2 ^ (if lv ≤ 3 then 11 * lv else 0) + j)) ∧
    (Issues s (.poolget o) o iss →
      let n := litA iss
      let die := if n = 2 then iss.tm.core / 128 else n
      let own := if die = 0 then q.allot0 else q.allot1
      let other := if n ≠ 2 then [] else if die = 0 then q.allot1 else q.allot0
      (2 < n → Stops (.poolget o) s iss { cls := 0, code := 13, mask := iss.act }) ∧
      (n ≤ 2 → ∀ x, again iss = some x → PairDone (.poolget o) s iss (fun _ => (x, some true))) ∧
      (n ≤ 2 → again iss = none → own = [] → other = [] → PairDone (.poolget o) s iss (fun _ => (0, some false))) ∧
      (n ≤ 2 → again iss = none → iss.tm.core < 256 → ∀ f, own.head?.or other.head? = some f → ∃ s' q' gr', GoesOn (.poolget o) s iss s' ∧ ctxOf s' c = some q' ∧ s'.mem = s.mem ∧
        (q'.allot0, q'.allot1) = (if own = [] then (if die = 0 then (q.allot0, q.allot1.tail) else (q.allot0.tail, q.allot1)) else if die = 0 then (q.allot0.tail, q.allot1) else (q.allot0, q.allot1.tail)) ∧
        groupOf s' iss.t iss.g = some gr' ∧ (if shadowed iss.gr iss.k then gr'.hallocs = iss.gr.hallocs ++ [(iss.pc, BitVec.ofNat 64 f)] else gr'.allocs = iss.gr.allocs ++ [(iss.pc, BitVec.ofNat 64 f)]) ∧
        (∀ j, j < iss.gr.slices.length → (sliceOf gr' j).scc = (iss.q.members.getLsbD j || (sliceOf iss.gr j).scc)) ∧
        SregsDone iss gr' (fun j m => if iss.q.members.getLsbD j && m == dstNum o.dst then some (BitVec.ofNat 32 f) else if iss.q.members.getLsbD j && m == dstNum o.dst + 1 then some (BitVec.ofNat 32 (f / 2 ^ 32)) else none)))

/-- R302 to R305, R371, R446: HALTCTX and HALTCTX.RES of another existing context begin its stop and end it; MBREG registers a mailbox from
80 bytes of scratchpad; PRDECL declares a range whose descriptor, entry and leaves are as R304 asks, and PRDECL.DEL takes an empty one back;
TAGPOOL lays out a new tag pool while no tag is allocated.
Model's choices: log 65, 96, 98 and 110. -/
def Obligations.SupervisorRequests : Prop :=
  ∀ (s : State) (o : Operands) (iss : Iss) (q : Ctx), ctxOf s iss.tm.ctx = some q →
    let c := iss.tm.ctx
    let a := (scal32 s iss iss.k o.a).toNat
    let b := (scal32 s iss iss.k o.b).toNat
    let zero := fun (i : Instr) (code : Nat) => Stops i s iss { cls := 0, code := code, mask := iss.act }
    let block := fun (i : Instr) (off n align : Nat) (then_ : List Byte → Prop) => (off % align ≠ 0 → zero i 14) ∧ (off % align = 0 → iss.tm.scratchBytes < off + n → zero i 15) ∧
      (off % align = 0 → off + n ≤ iss.tm.scratchBytes → badScratch iss.tm ((List.range n).map (fun j => off + j)) = false → then_ (scratchBytes iss.tm off n))
    let num := fun (bs : List Byte) (x n : Nat) => leNat ((bs.drop x).take n)
    -- the leaves of a range lie in local memory, apart from the tables above them
    let page := fun (r : Range) (p : Nat) => 2 ^ 16 * (r.base / 2 ^ 16 + p)
    let top := fun (va : Nat) => q.xlroot.toNat + 8 * (va / 2 ^ 49 % 2 ^ 8)
    let mid := fun (va : Nat) => nextTable (home64 s c (top va)) + 8 * (va / 2 ^ 38 % 2 ^ 11)
    let low := fun (va : Nat) => nextTable (home64 s c (mid va)) + 8 * (va / 2 ^ 27 % 2 ^ 11)
    let apart := fun (r : Range) => q.xlroot.toNat % 8 = 0 ∧ ∀ p p' x, p < r.len / 2 ^ 16 → p' < r.len / 2 ^ 16 → leafAddr s c (page r p') = some x →
      x + 8 ≤ 2 ^ 39 ∧ ∀ e ∈ [top (page r p), mid (page r p), low (page r p)], localise s e + 8 ≤ x ∨ x + 8 ≤ localise s e
    (Issues s (.haltctx o) o iss →
      (63 < a ∨ 4095 < b → zero (.haltctx o) 13) ∧ (a ≤ 63 → b ≤ 4095 → a = c ∨ ctxOf s a = none → zero (.haltctx o) 18) ∧
      (a ≤ 63 → b ≤ 4095 → a ≠ c → ∀ x, ctxOf s a = some x → ∃ s', GoesOn (.haltctx o) s iss s' ∧
        let tl : HaltTl := { ctx := c, index := b, core := iss.tm.core, place := iss.gr.acqSeq }
        -- the timeline of a context that is stopped advances once the group's earlier stores have reached their homes
        (x.phase = .stopped → reached s 0 0 iss.tm.core 3 iss.gr.acqSeq = true → ∃ s1, s1 = { s with journal := s1.journal } ∧ s' = advanceTimeline s1 c b 1 0) ∧
        (x.phase = .stopped → reached s 0 0 iss.tm.core 3 iss.gr.acqSeq = false → s' = modCtx s c (fun q => { q with owed := q.owed ++ [tl] })) ∧
        (x.phase = .running → ∃ x', ctxOf s' a = some x' ∧ x'.phase = .draining ∧ x'.haltTls = x.haltTls ++ [tl] ∧ s'.mem = s.mem) ∧
        (x.phase ≠ .running → x.phase ≠ .stopped → ctxOf s' a = some { x with haltTls := x.haltTls ++ [tl] } ∧ s' = { s with ctxs := s'.ctxs }))) ∧
    (Issues s (.haltctxRes o) o iss →
      (63 < a → zero (.haltctxRes o) 13) ∧ (a ≤ 63 → ctxOf s a = none → zero (.haltctxRes o) 18) ∧
      (a ≤ 63 → ∀ x, ctxOf s a = some x →
        (x.phase ≠ .stopped ∨ x.fatal = true → GoesOn (.haltctxRes o) s iss s) ∧
        (x.phase = .stopped → x.fatal = false → ∃ s' x', GoesOn (.haltctxRes o) s iss s' ∧ ctxOf s' a = some x' ∧ x'.phase = .running ∧ x'.waiting = [] ∧ s'.mem = s.mem ∧ s'.teams = s.teams))) ∧
    (Issues s (.mbreg o) o iss →
      let n := (scal32 s iss iss.k o.c).toNat
      (1023 < a ∨ 64 < n → zero (.mbreg o) 13) ∧
      (a ≤ 1023 → n ≤ 64 → block (.mbreg o) b 80 16 (fun bs =>
        let slots := match mget q.mailboxes a with | some m => m.slots | none => []
        let m : Mailbox := { n := n, base := BitVec.ofNat 64 (num bs 64 8), packet := pkWithCtx (bs.take 64) c, priv := decide (n ≠ 0 ∧ num bs 72 4 % 2 = 1), slots := slots }
        ∃ s', GoesOn (.mbreg o) s iss s' ∧ s'.mem = s.mem ∧ (∃ q', ctxOf s' c = some q' ∧ mget q'.mailboxes a = some m ∧ ∀ k, k ≠ a → mget q'.mailboxes k = mget q.mailboxes k) ∧
          (1 ≤ n → s' = modCtx s c (fun _ => { q with mailboxes := mput q.mailboxes a m })) ∧ (n = 0 → ∀ q', ctxOf s' c = some q' → ∀ x ∈ q'.overflow, x.2.mb ≠ a)))) ∧
    (Issues s (.prdecl o) o iss →
      (255 < a → zero (.prdecl o) 13) ∧
      (a ≤ 255 → mget q.catalogue a ≠ none → zero (.prdecl o) 18) ∧
      (a ≤ 255 → mget q.catalogue a = none → block (.prdecl o) b 128 16 (fun bs =>
        let r := rangeOfBlock c bs
        let good := descriptorOk bs = true ∧ (∀ e ∈ q.catalogue, ¬(e.2.base < r.base + r.len ∧ r.base < e.2.base + e.2.len)) ∧ ∀ p, p < r.len / 2 ^ 16 → (leafAddr s c (page r p)).isSome = true
        (¬good → zero (.prdecl o) 18) ∧ (good → storesReached s iss.t iss.g 3 = false → Waits (.prdecl o) s iss .retry) ∧
        (good → storesReached s iss.t iss.g 3 = true → ∃ s' q', GoesOn (.prdecl o) s iss s' ∧ ctxOf s' c = some q' ∧ mget q'.catalogue a = some r ∧ (∀ k, k ≠ a → mget q'.catalogue k = mget q.catalogue k) ∧
          (apart r → s.badLines = [] → s.lost = [] → ∀ p x, p < r.len / 2 ^ 16 → leafAddr s c (page r p) = some x → home64 s' c x = 0x43 + r.perms.toNat * 2 ^ 3 + r.acls.toNat * 2 ^ 55))))) ∧
    (Issues s (.prdeclDel o) o iss →
      (255 < a → zero (.prdeclDel o) 13) ∧ (a ≤ 255 → mget q.catalogue a = none → zero (.prdeclDel o) 18) ∧
      (a ≤ 255 → ∀ r, mget q.catalogue a = some r →
        ((∃ e ∈ rangeBlocks q a, e.2.filled = false) → ∃ s' q', exec (.prdeclDel o) s = .next (setWait s' iss.t iss.g iss.k .retry) ∧ ctxOf s' c = some q' ∧ mget q'.catalogue a = some { r with deleting := true }) ∧
        (rangeBlocks q a = [] → ∃ s' q', GoesOn (.prdeclDel o) s iss s' ∧ ctxOf s' c = some q' ∧ mget q'.catalogue a = none ∧
          (apart r → s.badLines = [] → s.lost = [] → (∀ u ∈ s.touches, u.ctx = c → ∀ p, p < r.len / 2 ^ 16 → u.block ≠ r.base / 2 ^ 16 + p) → r.base % 2 ^ 16 = 0 → r.len % 2 ^ 16 = 0 →
            ∀ p x, p < r.len / 2 ^ 16 → leafAddr s c (page r p) = some x → home64 s' c x = 0)))) ∧
    (Issues s (.tagpool o) o iss →
      (tagsInUse s c = true → zero (.tagpool o) 18) ∧
      (tagsInUse s c = false → block (.tagpool o) a 32 32 (fun bs =>
        let count := num bs 24 4
        let size := fun (w d : Nat) => 2 ^ 16 * (if w = 0 then d else w)
        let wrong := count = 0 ∨ count = 2 ^ 24 ∨ 2 ^ 24 < count ∨ num bs 0 8 % 2 ^ 12 ≠ 0 ∨ num bs 8 8 % 2 ^ 16 ≠ 0 ∨ num bs 16 8 % 2 ^ 16 ≠ 0
        (wrong → zero (.tagpool o) 18) ∧
        (¬wrong → ∃ s' q', GoesOn (.tagpool o) s iss s' ∧ ctxOf s' c = some q' ∧ (s.badLines = [] → q' = { q with tagbase := BitVec.ofNat 64 (num bs 0 8), tagcount := BitVec.ofNat 32 count, annexbase := BitVec.ofNat 64 (num bs 8 8), annexsize := BitVec.ofNat 32 (size (num bs 28 2) 16), lostbase := BitVec.ofNat 64 (num bs 16 8), lostsize := BitVec.ofNat 32 (size (num bs 30 2) 1), defaultTmo := scal32 s iss iss.k o.b, lostMb := if o.form = .f96c then scal32 s iss iss.k o.c else 0xFFFFFFFF, tags := [] }) ∧
          (s.badLines = [] → s.lost = [] → num bs 0 8 + 32 * count ≤ 2 ^ 39 → (num bs 16 8 + 8 ≤ num bs 0 8 ∨ num bs 0 8 + 32 * count ≤ num bs 16 8) → num bs 16 8 + 8 ≤ 2 ^ 39 →
            (∀ i j, i < count → j < 8 → tagWord s' c i j = 0) ∧ home64 s' c (num bs 16 8) = 0)))))

/-- R446 to R451: a context whose drain is over begins to save, with its cached translations discarded; with no team left to save it is
stopped at once, and the timelines of HALTCTX advance.
Model's choices: log 110 and 111. -/
def Obligations.ContextStops : Prop :=
  (∀ (s : State) (c : Nat) (q : Ctx), ctxOf s c = some q →
    (q.phase ≠ .draining ∨ drainOver s c q = false → exec (.contextDrainEnd c) s = .refused .eventNotEnabled) ∧
    (q.phase = .draining → drainOver s c q = true → q.destroying = none → ∃ u q', exec (.contextDrainEnd c) s = .next u ∧ ctxOf u c = some q' ∧ u.mem = s.mem ∧ u.teams = s.teams ∧
      (∀ n, ∀ e ∈ (coreOf u n).tlb, e.1.1 ≠ c) ∧
      ((∃ e ∈ s.teams, e.2.ctx = c ∧ e.2.phase ≠ .saved) → q'.phase = .saving) ∧
      ((∀ e ∈ s.teams, e.2.ctx = c → e.2.phase = .saved) → q'.phase = .stopped ∧ q'.stoppedAt = s.cycle.toNat ∧
        ∀ tl, q.haltTls = [tl] → tl.ctx ≠ c → ∀ x, ctxOf s tl.ctx = some x →
          (reached s 0 0 tl.core 3 tl.place = true → (timelineOf u tl.ctx tl.index).toNat = min ((timelineOf s tl.ctx tl.index).toNat + 1) (2 ^ 64 - 1)) ∧
          (reached s 0 0 tl.core 3 tl.place = false → ctxOf u tl.ctx = some { x with owed := x.owed ++ [tl] })))) ∧
  -- an advance that waits for the stores before its HALTCTX
  (∀ (s : State) (c : Nat) (q : Ctx) (tl : HaltTl), ctxOf s c = some q → q.owed = [tl] → tl.ctx = c →
    (reached s 0 0 tl.core 3 tl.place = false → ctxOf (payOwed s c) c = some q) ∧
    (reached s 0 0 tl.core 3 tl.place = true → (timelineOf (payOwed s c) c tl.index).toNat = min ((timelineOf s c tl.index).toNat + 1) (2 ^ 64 - 1) ∧ ∃ q', ctxOf (payOwed s c) c = some q' ∧ q'.owed = [])) ∧
  -- what a stopping context's teams leave
  (∀ (s : State) (t : Nat) (tm : Team), teamOf s t = some tm →
    let u := leaveWaits s t
    (∀ j ∈ (coreOf u tm.core).jobs, j.team ≠ t) ∧ ∃ tm', teamOf u t = some tm' ∧ tm'.savedJobs = tm.savedJobs ++ (coreOf s tm.core).jobs.filter (fun j => j.team == t) ∧ tm'.phase = tm.phase ∧
      ∀ gr ∈ tm'.groups, ∀ q ∈ gr.gangs, q.wait = none) ∧
  (∀ (s : State) (c : Nat) (q : Ctx), ctxOf s c = some q → q.phase ≠ .running → beginStop s c = s)

/-! ### Words that are no instructions, and memory traffic -/

/-- R1, R15, R50, R105, R122, R126, R224, R225, R230, R407, R408, R410: the entries of a group's store queue leave it in their order and
take effect at their home segments, those of one line in the core store order; a result for which everything has arrived reads the words it still has to
read at their home segments and reaches its registers; a line is filled from HBM into a free way of its set or in the place of a victim, whose
lost sectors go to memory as zeros; a line whose SRAM fails is discarded, or lost.
Model's choices: log 16, 18, 26, 27, 28, 127 and 147. -/
def Obligations.MemoryTraffic : Prop :=
  (∀ (s : State) (t g : Nat) (tm : Team) (gr : Group) (n : Nat), teamOf s t = some tm → tm.groups[g]? = some gr →
    let ev := exec (.storeQueueDrain t ⟨g, n⟩) s
    let c := tm.ctx
    (gr.queue[n]? = none → ev = .refused .eventNotEnabled) ∧
    (∀ e, gr.queue[n]? = some e →
      let rest := gr.queue.filter (fun x => x.seq != e.seq)
      let before := fun (p : SQEntry → Prop) => ∃ x ∈ coreQueue s tm.core, x.seq < e.seq ∧ p x ∧ ∃ l ∈ entryLines x, l ∈ entryLines e
      -- leaving the queue: as its head, released, and after the earlier stores of the core to its lines
      let leaves := (∀ x ∈ gr.queue.take n, x.left = true) ∧ reached s t g tm.core e.relScope e.base = true ∧ ¬before (fun x => x.left = false)
      -- arriving: in the core store order of its lines, after the loads of them, and in its group's order to a replicated page
      let lands := needsFill s e = [] ∧ ¬before (fun _ => True) ∧ (∀ l ∈ entryLines e, readsBefore s tm.core e.seq l = false) ∧ (e.replicas = [] ∨ ∀ x ∈ gr.queue.take n, x.replicas = [])
      (e.left = false → ¬leaves → ev = .refused .eventNotEnabled) ∧
      (e.left = false → leaves → tm.bad = [] → ∃ u, ev = .next u ∧ u.mem = s.mem ∧ groupOf u t g = some { gr with queue := gr.queue.map (fun x => if x.seq == e.seq then { x with left := true } else x) } ∧
        ∀ bs l line, e.op = .store bs → mget (coreOf s tm.core).l1 (c * 2 ^ 45 + l) = some line → line.length = 128 → ∃ line', mget (coreOf u tm.core).l1 (c * 2 ^ 45 + l) = some line' ∧
          ∀ i, i < 128 → line'.getD i 0 = match bs.reverse.find? (fun p => p.1 == 128 * l + i) with | some p => p.2 | none => line.getD i 0) ∧
      (e.left = true → ¬lands → ev = .refused .eventNotEnabled) ∧
      (e.left = true → lands → s.badLines = [] → s.lost = [] →
        (∀ bs, e.op = .store bs → e.replicas = [] → (∀ p ∈ bs, p.1 < 2 ^ 39) → ∃ u gr', ev = .next u ∧ groupOf u t g = some gr' ∧ gr' = { gr with queue := rest } ∧
          ∀ a, a < 2 ^ 39 → homeByte u c a = match bs.reverse.find? (fun p => p.1 == a) with | some p => p.2 | none => homeByte s c a) ∧
        (∀ aop addr x y ret keys, e.op = .atomic aop addr x y ret keys → addr + 8 ≤ 2 ^ 39 →
          let n := atomBytes aop
          let old := BitVec.ofNat 64 (leNat (homeBytes s c addr n))
          ∃ u gr', ev = .next u ∧ groupOf u t g = some gr' ∧ gr'.queue = rest ∧ homeBytes u c addr n = bytesOf n (atomNew aop old x y).toNat ∧ (∀ a, a < 2 ^ 39 → a < addr ∨ addr + n ≤ a → homeByte u c a = homeByte s c a) ∧
            (∀ r, ret = some r → gr'.returns = gr.returns.map (fun z => if z.id == r then putOld z keys old else z)) ∧ (ret = none → gr'.returns = gr.returns))))) ∧
  (∀ (s : State) (t g : Nat) (tm : Team) (gr : Group) (x : Ret), teamOf s t = some tm → tm.groups[g]? = some gr → gr.returns.find? (fun y => y.id == x.id) = some x →
    let arrived := (∀ l ∈ x.lines, (mget s.l2 l).isSome = true) ∧ x.peers = [] ∧ x.queued = 0
    let first := readAfter gr x = false ∧ lateLost s tm.core x = none
    let y := readLate s tm.core tm.ctx x
    let held := (coreQueue s tm.core).filter (fun e => decide (e.seq < x.seq))
    -- scalar words reach every slice that has merged into the issuing gang since
    let sw := (y.sw.filter (fun w => decide (w.1 < 512))).flatMap (fun w => (membersOf (mergedSlices x.merges (w.1 / 64))).map (fun i => (64 * i + w.1 % 64, w.2)))
    let returns := fun (i : Instr) => stillServes gr x = false → arrived → first → tm.phase ≠ .aborting → x.shadow = false → x.cw = [] → (∀ a ∈ gr.acqs, a.1 ≠ x.id) → ∃ u gr', exec i s = .next u ∧ groupOf u t g = some gr' ∧
      u = { s with teams := u.teams, cores := u.cores } ∧
      gr' = { gr with slices := gr'.slices, vregs := gr'.vregs, returns := gr.returns.filter (fun y => y.id != x.id) } ∧ gr'.slices.length = gr.slices.length ∧
      (∀ k, mgetD gr'.vregs 0 k = match y.vw.reverse.find? (fun w => w.1 == k) with | some w => w.2 | none => mgetD gr.vregs 0 k) ∧
      (∀ j n, j < gr.slices.length → n < 64 → mgetD (sliceOf gr' j).sregs 0 n = match sw.reverse.find? (fun w => w.1 == 64 * j + n) with | some w => w.2 | none => mgetD (sliceOf gr j).sregs 0 n) ∧
      (∀ j, j < gr.slices.length → { sliceOf gr' j with sregs := [], exec := 0, vcc := 0, scc := false } = { sliceOf gr j with sregs := [], exec := 0, vcc := 0, scc := false }) ∧
      -- exec, vcc and scc as destinations
      (let special := fun (n j : Nat) => (y.sw.reverse.find? (fun w => w.1 == 8 * n + j)).map Prod.snd
       ∀ j, j < 8 → j < gr.slices.length → (sliceOf gr' j).exec = (match special 64 j with | some v => (v &&& ~~~gr.fmask).extractLsb' (4 * j) 4 | none => (sliceOf gr j).exec) ∧
         (sliceOf gr' j).vcc = (match special 65 j with | some v => v.extractLsb' (4 * j) 4 | none => (sliceOf gr j).vcc) ∧ (sliceOf gr' j).scc = (match special 66 j with | some v => v.getLsbD 0 | none => (sliceOf gr j).scc))
    let waits := fun (i : Instr) => exec i s = .refused .eventNotEnabled
    (x.sampler = false → returns (.loadReturn t g x.id)) ∧ (x.sampler = true → returns (.samplerReturn t g x.id)) ∧
    (x.sampler = true ∨ ¬arrived ∨ readAfter gr x = true → waits (.loadReturn t g x.id)) ∧ (x.sampler = false ∨ ¬arrived ∨ readAfter gr x = true → waits (.samplerReturn t g x.id)) ∧
    (let late := fun (w : Nat × W32) => match x.late.reverse.find? (fun p => p.keys.contains w.1) with
       | some p => (w.1, wordOf p.mode p.n ((List.range p.n).map (fun i => match heldByte held (p.pa + i) with | .byte b => b | _ => homeByte s tm.ctx (p.pa + i))))
       | none => w
     y = { x with vw := x.vw.map late, sw := x.sw.map late, cw := x.cw.map late })) ∧
  (∀ (s : State) (line : Nat), line < 2 ^ 32 → mget s.l2 line = none →
    (mget s.badLines line = none → wayFree s line = true → ∃ u, exec (.l2Fill line none .good) s = .next u ∧ u = { s with l2 := mput s.l2 line false, teams := u.teams } ∧
      ∀ t g gr, groupOf s t g = some gr → groupOf u t g = some { gr with returns := gr.returns.map (fun r => { r with lines := r.lines.filter (fun l => l != line) }) }) ∧
    (mget s.badLines line = none → wayFree s line = true → ∃ u, exec (.l2Fill line none .corrected) s = .next u ∧ u = { s with
      l2 := mput s.l2 line false
      teams := u.teams
      tele := if line / 2 ^ 31 % 2 = 0 then { s.tele with corrected0 := s.tele.corrected0 + 1 } else { s.tele with corrected1 := s.tele.corrected1 + 1 } }) ∧
    (16 ≤ (setLines s line).length → ∀ read, exec (.l2Fill line none read) s = .refused .eventNotEnabled) ∧
    (∀ v, v ∉ setLines s line → ∀ read, exec (.l2Fill line (some v) read) s = .refused .eventNotEnabled) ∧
    (∀ v dirty, mget s.l2 v = some dirty → v ∈ setLines s line → mget s.badLines line = none → ∃ u, exec (.l2Fill line (some v) .good) s = .next u ∧
      mget u.l2 line = some false ∧ mget u.l2 v = none ∧ u.lost = s.lost ∧ (dirty = false → u.mem = s.mem) ∧
      (dirty = true → mget u.badLines v = none ∧ ∀ a, readByte u.mem a = if a / 128 = v ∧ (mgetD s.lost 0 v).getLsbD (a % 128 / 32) = true then 0 else readByte s.mem a))) ∧
  (∀ (s : State) (line : Nat), line < 2 ^ 32 → (mget s.l2 line).isSome = true →
    (∀ v read, read ≠ .failed ∨ v ≠ none → exec (.l2Fill line v read) s = .refused .eventNotEnabled) ∧
    (mget s.l2 line = some false → exec (.l2Fill line none .failed) s = .next { s with l2 := mdel s.l2 line }) ∧
    (mget s.l2 line = some true → s.lost = [] → exec (.l2Fill line none .failed) s = .next { s with lost := [(line, 0xF)] }))

/-! ### Mailboxes, teams, watchdogs -/

/-- R308, R357, R381 to R386: a message takes the lowest free slot of its mailbox, is held or dropped with 7.7 where it finds none, and with
7.8 where its mailbox does not exist; its bytes, filled up with zeros, are written through the context's translation; a record or held message
takes a freed slot in the order of their arrival.
Model's choices: log 99 and 101. -/
def Obligations.MailboxEvents : Prop :=
  (∀ (s : State) (m : Msg) (q : Ctx), s.msgs.find? (fun x => x.id == m.id) = some m → ctxOf s m.ctx = some q →
    let ev := exec (.mailboxMessage m.id) s
    let host := ∃ f, m.kind = .host f
    let busy := ∃ f, m.kind = .host f ∧ flowBusy s f m.id = true
    (m.slot = none → busy → ev = .refused .eventNotEnabled) ∧
    (m.slot = none → ¬busy →
      (mailboxOf s m.ctx m.mb = none → ev = .next (untrack (dropUnslotted s m 8) m)) ∧
      (∀ mb, mailboxOf s m.ctx m.mb = some mb →
        (∀ j, j < mb.n → mget mb.slots j = none → (∀ k, k < j → (mget mb.slots k).isSome = true) →
          (someoneWaits q m.mb = true → ev = .refused .eventNotEnabled) ∧
          (someoneWaits q m.mb = false → ∃ u q' mb', ev = .next u ∧ ctxOf u m.ctx = some q' ∧ mget q'.mailboxes m.mb = some mb' ∧ mget mb'.slots j = some (.filling m.id) ∧
            ∃ m', m' ∈ u.msgs ∧ m' = { m with slot := some j, slotAddr := mb.base + BitVec.ofNat 64 (256 * j) })) ∧
        ((∀ j, j < mb.n → (mget mb.slots j).isSome = true) →
          (host → ev = .refused .eventNotEnabled) ∧
          (¬host → q.overflow.length < 64 → ∃ u q', ev = .next u ∧ ctxOf u m.ctx = some q' ∧ q'.overflow = q.overflow ++ [(s.cycle.toNat, m)] ∧ (∀ x ∈ u.msgs, x.id ≠ m.id)) ∧
          (¬host → 64 ≤ q.overflow.length → ev = .next (untrack (dropUnslotted s m 7) m))))) ∧
    (∀ j, m.slot = some j → messageHeld s m = true → ev = .refused .eventNotEnabled) ∧
    (∀ j, m.slot = some j → messageHeld s m = false → (∀ u, m.waitTouch = some u → touchPending s m.ctx u = false) → (∀ r ∈ s.peerReqs, r.who ≠ .slotWrite m.id) →
      (m.written = true → ev = .next (msgComplete s m j)) ∧
      (m.written = false → ∀ xs : List EByte, engineXlat s (segmentWho m.ctx) .write false ((List.range 256).map (fun i => (m.slotAddr.toNat + i) % 2 ^ 57)) = .ok xs → xs.length = 256 → (∀ x ∈ xs, x.pa < 2 ^ 39 ∧ x.others = []) → (xs.map (fun x => x.pa)).Nodup →
        s.badLines = [] → s.lost = [] → ∃ w, ev = .next (msgComplete w m j) ∧ w.ctxs = s.ctxs ∧ w.teams = s.teams ∧
          (∀ (i : Nat) (x : EByte), xs[i]? = some x → homeByte w m.ctx x.pa = (m.bytes ++ List.replicate (256 - m.bytes.length) 0).getD i (homeByte s m.ctx x.pa)) ∧ ∀ a, a < 2 ^ 39 → (∀ x ∈ xs, x.pa ≠ a) → homeByte w m.ctx a = homeByte s m.ctx a))) ∧
  -- a report's arrival, whether or not it finds a slot, ends the tracking of the oldest LAUNCH to the mailbox that it names
  (∀ (s : State) (m : Msg) (q : Ctx), ctxOf s m.ctx = some q →
    let sent := fun (x : Tracked) => match targetOf s x.target with
      | .local mb => decide (mb = leNat ((m.bytes.drop 8).take 4) % 1024 ∧ leNat ((m.bytes.drop 4).take 4) = s.deviceId.toNat)
      | .peer d mb => decide (mb = leNat ((m.bytes.drop 8).take 4) % 1024 ∧ leNat ((m.bytes.drop 4).take 4) = d)
      | .host _ => false
    let report := m.kind = .residency ∨ m.kind = .refusal
    -- a LAUNCH whose interval has ended stays for its 7.12 (R394)
    let past := fun (x : Tracked) => q.phase ≠ .stopped ∧ x.since + 2 ^ 32 ≤ s.cycle.toNat
    (¬report → untrack s m = s) ∧ (report → untrack s m = modCtx s m.ctx (fun _ => { q with tracked := match q.tracked.find? sent with | some x => q.tracked.filter (fun y => y.id != x.id || decide (past y)) | none => q.tracked }))) ∧
  -- a complete message frees its sender and launches
  (∀ (s : State) (m : Msg) (j : Nat) (q : Ctx), ctxOf s m.ctx = some q → q.phase ≠ .running → ∃ q', ctxOf (msgComplete s m j) m.ctx = some q' ∧ q'.waiting = q.waiting ++ [(m.mb, j, m)]) ∧
  (∀ (s : State) (c mb slot : Nat) (addr : W64) (m : Msg) (q : Ctx) (x : Mailbox), ctxOf s c = some q → mget q.mailboxes mb = some x →
    let p := pkWithCtx (packetOf x m) c
    let u := launchSlot s c mb slot addr m
    (packetMask p = 0 → windowDead s p = false → ∃ gd q' x', mget u.grids s.nextId = some gd ∧ gd.ctx = c ∧ gd.mb = mb ∧ gd.slot = slot ∧ gd.slotAddr = addr ∧ gd.packet = p ∧ gd.priv = launchPriv x m ∧ gd.next = 0 ∧ gd.total = pkTeams p ∧
      s.nextId ∈ u.gridQueue ∧ ctxOf u c = some q' ∧ mget q'.mailboxes mb = some x' ∧ mget x'.slots slot = some (.occupied s.nextId)) ∧
    (packetMask p ≠ 0 ∨ windowDead s p = true → u.grids = s.grids ∧ ∃ q' x', ctxOf u c = some q' ∧ q'.recSeq = q.recSeq + 1 ∧ mget q'.mailboxes mb = some x' ∧ mget x'.slots slot = none)) ∧
  (∀ (s : State) (c mb : Nat) (q : Ctx) (m : Mailbox), ctxOf s c = some q → mailboxOf s c mb = some m →
    let ev := exec (.recordDelivery c mb) s
    let takes := fun (j id : Nat) (bytes : List Byte) => ∃ u m' q' x', ev = .next u ∧ m' ∈ u.msgs ∧ m'.id = id ∧ m'.slot = some j ∧ m'.bytes = bytes ∧ ctxOf u c = some q' ∧ mget q'.mailboxes mb = some x' ∧ mget x'.slots j = some (.filling id)
    (freeSlot m = none ∨ waitingRecord q mb = none ∧ waitingMsg q mb = none → ev = .refused .eventNotEnabled) ∧
    (∀ j, freeSlot m = some j →
      (∀ r, waitingRecord q mb = some r → (∀ x, waitingMsg q mb = some x → r.arrived ≤ x.1) → takes j s.nextId (r.bytes.take 76 ++ bytesOf 4 q.dropped.toNat ++ r.bytes.drop 80)) ∧
      (∀ x, waitingMsg q mb = some x → x.2.ctx = c → (∀ r, waitingRecord q mb = some r → x.1 < r.arrived) → takes j x.2.id x.2.bytes)))

/-- R48, R53, R54, R274, R313, R318 to R322, R439, R443: the next team of the first grid goes to its best core, with its index, its handle and
its resources; it starts with its constant banks loaded; once retired and settled it leaves; a drained team of a stopping context is saved at
its region entries; a group that has been ready for 64 cycles rises one level.
Model's choices: log 13, 65, 107, 108, 110, 130 and 131. -/
def Obligations.TeamEvents : Prop :=
  (∀ (s : State) (g core : Nat) (gd : Grid) (q : Ctx) (rest : List Nat), s.saved = [] → s.gridQueue = g :: rest → mget s.grids g = some gd → ctxOf s gd.ctx = some q → q.phase = .running → q.handleSkipped = [] → q.handleNext < 16383 →
    handleNamed s gd.ctx q.handleNext = false → bestCore s gd.packet 0 = some core →
    ∃ u tm q' gd', exec .teamPlacement s = .next u ∧ teamOf u s.nextId = some tm ∧ tm.grid = g ∧ tm.ctx = gd.ctx ∧ tm.core = core ∧ tm.handle = q.handleNext ∧ tm.phase = .placed ∧ tm.priv = gd.priv ∧ tm.age = s.nextId ∧
      tm.x = gd.next % pkDimX gd.packet ∧ tm.y = gd.next / pkDimX gd.packet % pkDimY gd.packet ∧ tm.z = gd.next / (pkDimX gd.packet * pkDimY gd.packet) ∧ tm.scratchBytes = 4096 * pkSgran gd.packet ∧ tm.tiles.length = pkTiles gd.packet ∧
      tm.groups.length = pkAllGroups gd.packet ∧ ctxOf u gd.ctx = some q' ∧ q'.handleNext = q.handleNext + 1 ∧ mget u.grids g = some gd' ∧ gd'.next = gd.next + 1 ∧
      (∀ gr ∈ tm.groups, (∀ x ∈ gr.slices, x.exec = 0xF ∧ x.vcc = 0 ∧ x.scc = false ∧ x.fmt = 0 ∧ x.sregs = [] ∧ x.exited = false ∧ x.pc = pkEntry gd.packet gr.role ∧ x.rentry = x.pc) ∧ gr.vregs = [] ∧ gr.fmask = 0 ∧ gr.slices.length = 8 ∧
        gr.gangs.map (fun x => x.members) = [0xFF]) ∧ (gd.next + 1 = gd.total → g ∉ u.gridQueue)) ∧
  (∀ s : State, s.saved = [] → (s.gridQueue = [] ∨ ∀ g ∈ s.gridQueue, ∀ gd, mget s.grids g = some gd → bestCore s gd.packet 0 = none) → exec .teamPlacement s = .refused .eventNotEnabled) ∧
  (∀ (s : State) (p : List Byte) (jobs core : Nat), bestCore s p jobs = some core →
    pkCore0 p ≤ core ∧ core ≤ pkCore0 p + pkNcm1 p ∧ octetOn s core = true ∧ (coreOf s core).vacated = false ∧ fits s (demandOf p jobs) core = true ∧
    ∀ c, pkCore0 p ≤ c → c ≤ pkCore0 p + pkNcm1 p → octetOn s c = true → (coreOf s c).vacated = false → fits s (demandOf p jobs) c = true → groupsOn s core < groupsOn s c ∨ groupsOn s core = groupsOn s c ∧ core ≤ c) ∧
  (∀ (s : State) (t : Nat) (tm : Team) (gd : Grid) (q : Ctx) (ws : List (Nat × W32)), teamOf s t = some tm → mget s.grids tm.grid = some gd → ctxOf s tm.ctx = some q → q.phase = .running → tm.phase = .placed →
    (∀ u, tm.bankTouch = some u → touchPending s tm.ctx u = false) → (∀ r ∈ s.peerReqs, r.who ≠ .banks t) → readBanks s tm gd.packet (bankLoads gd.packet) = .ok ws →
    ∃ u tm', exec (.teamStart t) s = .next u ∧ teamOf u t = some tm' ∧ tm'.phase = .running ∧ tm'.started = true ∧ (coreOf u tm.core).l1 = [] ∧
      (tm.gen = none → ∀ k, mgetD tm'.banks 0 k = if k = 0 then gd.slotAddr.extractLsb' 0 32 else if k = 1 then gd.slotAddr.extractLsb' 32 32 else match ws.reverse.find? (fun w => w.1 == k) with | some w => w.2 | none => 0)) ∧
  (∀ (s : State) (t : Nat) (tm : Team), teamOf s t = some tm →
    let ev := exec (.teamRetire t) s
    let finished := tm.phase = .aborting ∨ (tm.phase = .running ∨ tm.phase = .moving) ∧ ∀ gr ∈ tm.groups, gr.retired = true
    (¬finished ∨ teamSettled s t tm = false → ev = .refused .eventNotEnabled) ∧
    (finished → teamSettled s t tm = true → ∃ u, ev = .next u ∧
      (∀ q, ctxOf s tm.ctx = some q → q.phase = .running → teamOf u t = none ∧ ∃ q', ctxOf u tm.ctx = some q' ∧ q'.handleFreed = q.handleFreed ++ [tm.handle]) ∧
      ∀ gd q, mget s.grids tm.grid = some gd → ctxOf s tm.ctx = some q → q.phase = .running → gd.retired + 1 ≠ gd.total → gd.aborted = false → mget u.grids tm.grid = some { gd with retired := gd.retired + 1 })) ∧
  (∀ (s : State) (t : Nat) (tm : Team) (q : Ctx), teamOf s t = some tm → ctxOf s tm.ctx = some q →
    let ev := exec (.teamSave t) s
    let mine := tm.phase = .moving ∨ (tm.phase = .running ∨ tm.phase = .placed) ∧ q.phase = .saving ∨ tm.phase = .placed ∧ q.phase = .draining
    let retires := tm.started = true ∧ (∀ gr ∈ tm.groups, gr.retired = true) ∧ teamSettled s t tm = true
    (¬mine ∨ retires ∨ tm.started = true ∧ drained s t tm = false → ev = .refused .eventNotEnabled) ∧
    (mine → ¬retires → tm.started = false ∨ drained s t tm = true → ∃ u, ev = .next u ∧ (q.phase = .running → tm.doom = none → ∃ tm', teamOf u t = some tm' ∧ tm'.phase = .saved ∧ tm'.resident = false ∧ t ∈ u.saved ∧ u.mem = s.mem ∧ tm'.scratch = tm.scratch ∧ tm'.tiles = tm.tiles ∧
      tm'.groups = tm.groups.map (fun gr => { gr with slices := gr.slices.map (fun x => { x with pc := x.rentry, replay := x.barPass }), gangs := gr.gangs.map (fun q => { q with wait := none }), returns := [], acqSeq := 0, acqs := [] })))) ∧
  (∀ (s : State) (t g : Nat) (tm : Team) (gr : Group), teamOf s t = some tm → tm.groups[g]? = some gr →
    exec (.priorityPromotion t g) s = if gr.gangs.any (gangReady s t tm gr) = true ∧ gr.readySince + 64 ≤ s.cycle.toNat ∧ gr.curPrio < 3 then .next (modGroup s t g (fun _ => { gr with curPrio := gr.curPrio + 1, readySince := s.cycle.toNat }))
      else .refused .eventNotEnabled)

/-- R376 to R378, R390, R394: WAIT_WATCHDOG completes once a gang has waited a full interval at an object and is not released: it posts one
7.3. STARVED_LANES completes once a running gang has issued for a full interval beyond the last issue at which some of its lanes were active:
it posts one 7.4. RESIDENCY_REPORT_OVERDUE completes once a tracked LAUNCH has had no report for a full interval: it posts one 7.12. None of
the three changes anything else.
Model's choices: log 5, 99, 123, 124 and 167. -/
def Obligations.Watchdogs : Prop :=
  (∀ (s : State) (t g k : Nat) (tm : Team) (gr : Group) (q : Gang), teamOf s t = some tm → tm.groups[g]? = some gr → gangAt gr k = some q →
    let rec_ := fun (code : Nat) (mask : W32) (addr detail : Nat) => postRecord s tm.ctx { cls := 7, code := code, mask := mask, addr := BitVec.ofNat 64 addr, detail := some (BitVec.ofNat 32 detail), pc := (sliceOf gr k).pc, rentry := (sliceOf gr k).rentry, x := tm.x, y := tm.y, z := tm.z, core := tm.core, group := g, role := gr.role }
    (q.wait = none → exec (.waitWatchdog t g k) s = .refused .eventNotEnabled) ∧
    (∀ w kind obj, q.wait = some w →
      ((∃ n, w.kind = .mwait obj n) ∧ kind = (2, 0) ∨ w.kind = .bar obj ∧ kind = (4, obj) ∨ (∃ ph n, w.kind = .bwait obj ph n) ∧ kind = (1, obj) ∨ (∃ v n, w.kind = .tlwait obj v n) ∧ kind = (3, obj) ∨
        (∃ u, w.kind = .fill obj u) ∧ kind = (6, 2 ^ 16 * obj) ∨ (∃ tags next, w.kind = .regang tags next ∧ obj = (tags.getD k 0).toNat) ∧ kind = (5, obj)) →
      (w.posted = true ∨ waitOver s t tm gr w.kind = true ∨ s.cycle.toNat < w.since + 2 ^ 32 → exec (.waitWatchdog t g k) s = .refused .eventNotEnabled) ∧
      (w.posted = false → waitOver s t tm gr w.kind = false → w.since + 2 ^ 32 ≤ s.cycle.toNat →
        exec (.waitWatchdog t g k) s = .next (modGroup (rec_ 3 (gangExec gr q.members) kind.2 kind.1) t g (fun gr => modGang gr k (fun q => { q with wait := some { w with posted := true } }))))) ∧
    (∀ w, q.wait = some w → w.kind = .retry ∨ (∃ a b, w.kind = .refill a b) ∨ (∃ a b, w.kind = .sleep a b) → exec (.waitWatchdog t g k) s = .refused .eventNotEnabled) ∧
    (let m := starvedLanes gr q
     (∀ l, l < 32 → (m.getLsbD l = true ↔ q.members.getLsbD (l / 4) = true ∧ (sliceOf gr (l / 4)).exited = false ∧ gr.fmask.getLsbD l = false ∧
        ∃ last ∈ q.seen, q.spinSince + 2 ^ 32 ≤ last.1 ∧ ∀ e ∈ q.seen, e.2.getLsbD l = true → e.1 + 2 ^ 32 ≤ last.1)) ∧
     (m = 0 ∨ q.wait ≠ none ∨ q.starved ≠ 0 ∨ tm.phase ≠ .running → exec (.starvedLanes t g k) s = .refused .eventNotEnabled) ∧
     (m ≠ 0 → q.wait = none → q.starved = 0 → tm.phase = .running → exec (.starvedLanes t g k) s = .next (modGroup (rec_ 4 m 0 0) t g (fun gr => modGang gr k (fun q => { q with starved := m })))))) ∧
  (∀ (s : State) (c id : Nat) (q : Ctx) (x : Tracked), ctxOf s c = some q → q.tracked.find? (fun y => y.id == id) = some x →
    (q.phase = .stopped ∨ s.cycle.toNat < x.since + 2 ^ 32 → exec (.residencyReportOverdue c id) s = .refused .eventNotEnabled) ∧
    (q.phase ≠ .stopped → x.since + 2 ^ 32 ≤ s.cycle.toNat →
      exec (.residencyReportOverdue c id) s = .next (postRecord (modCtx s c (fun _ => { q with tracked := q.tracked.filter (fun y => y.id != id) })) c
        { cls := 7, code := 12, addr := BitVec.ofNat 64 (match targetOf s x.target with | .local _ => s.deviceId.toNat | .peer d _ => d | .host _ => 1023), detail := some x.target })))

/-! ### The outside world -/

/-- R309, R340 to R342, R399, R456, R461 to R463: a host Send becomes a message; the packets of a Write store their bytes through the context's
translation, and its timeline advances once the last has; a Read answers with the bytes; a packet that fails authentication only counts towards
the end of its session; the acknowledgement of an outbound message advances its copy's timeline.
Model's choices: log 105, 106 and 114. -/
def Obligations.HostEvents : Prop :=
  (∀ (s : State) (f : Flow) (c mb tl offset n : Nat) (bytes : List Byte) (more : Bool),
    -- firmware of any kind ends sessions; main firmware alone takes operations
    let up := (s.boot.running = true ∨ s.bridge.failed = true) ∧ s.eth.up = true
    let reach := s.boot.running = true ∧ s.boot.recovery = false ∧ s.eth.up = true ∧ ∃ x ∈ s.sessions, x.2.stage = .established
    let off := fun (i : Instr) => exec i s = .refused .eventNotEnabled
    let ops := [Instr.hostSend f c mb bytes, .hostWrite f c offset tl ⟨bytes, more⟩, .hostRead f c offset n]
    (¬reach → (∀ ss, f ≠ .forged ss) → ∀ i ∈ ops, off i) ∧
    -- a packet that fails authentication has no effect of its own
    (∀ ss, f = .forged ss →
      (¬up ∨ (∀ x, mget s.sessions ss = some x → x.stage ≠ .established) → ∀ i ∈ ops, off i) ∧
      (up → ∀ x, mget s.sessions ss = some x → x.stage = .established → ∃ s1, s1 = { s with sessions := s1.sessions } ∧ mget s1.sessions ss = some { x with authFails := x.authFails + 1 } ∧ (∀ k, k ≠ ss → mget s1.sessions k = mget s.sessions k) ∧
        ∀ i ∈ ops, exec i s = .next (if 1024 ≤ x.authFails + 1 then endHostSession s1 ss true else s1))) ∧
    (reach → (∀ ss, f ≠ .forged ss) →
      (1 ≤ bytes.length → bytes.length ≤ 256 → c < 64 → mb < 1024 → ∃ u m, exec (.hostSend f c mb bytes) s = .next u ∧ u = { s with nextId := s.nextId + 1, msgs := s.msgs ++ [m], sessions := u.sessions } ∧
        m.id = s.nextId ∧ m.kind = .host f ∧ m.ctx = c ∧ m.mb = mb ∧ m.bytes = bytes ∧ m.slot = none ∧ m.reply = none) ∧
      (∀ q id, ctxOf s c = some q →
        -- the first packets of an operation, or the next of a Write that goes on
        (s.hostOps = [] ∧ id = s.nextId ∨ bytes ≠ [] ∧ ∃ o, s.hostOps = [o] ∧ o.id = id ∧ o.write = true ∧ o.more = true ∧ o.failed = false ∧ o.flow = f ∧ o.ctx = c ∧ o.tl = tl ∧ o.offset = offset ∧ o.bytes = [] ∧ o.waitTouch = none) →
        (∀ r ∈ s.peerReqs, r.who ≠ .host id) → (∀ m ∈ s.msgs, m.kind ≠ .host f ∨ f = .rud) → s.badLines = [] → s.lost = [] →
        ∀ va : Nat → Nat, (∀ i, va i = (q.dlvbase.toNat + offset + i) % 2 ^ 57) → (q.dlvbase.toNat + offset) % 2 ^ 16 + (if bytes = [] then n else bytes.length) ≤ 2 ^ 16 →
        (1 ≤ bytes.length → offset + bytes.length ≤ 2 ^ 40 → tl < 4096 → ∀ xs : List EByte, engineXlat s (segmentWho c) .write false ((List.range bytes.length).map va) = .ok xs → xs.length = bytes.length → (∀ x ∈ xs, x.pa < 2 ^ 39 ∧ x.others = []) → (xs.map (fun x => x.pa)).Nodup →
          ∃ u, exec (.hostWrite f c offset tl ⟨bytes, more⟩) s = .next u ∧
            (more = false → u.hostOps = [] ∧ u.outbox = s.outbox ++ [.hostDone id true] ∧ (timelineOf u c tl).toNat = min ((timelineOf s c tl).toNat + 1) (2 ^ 64 - 1)) ∧
            (more = true → u.outbox = s.outbox ∧ u.ctxs = s.ctxs ∧ ∃ o, u.hostOps = [o] ∧ o.id = id ∧ o.write = true ∧ o.more = true ∧ o.failed = false ∧ o.flow = f ∧ o.ctx = c ∧ o.tl = tl ∧ o.offset = offset + bytes.length ∧ o.bytes = [] ∧ o.waitTouch = none) ∧
            (∀ (i : Nat) (x : EByte), xs[i]? = some x → homeByte u c x.pa = bytes.getD i 0) ∧ ∀ a, a < 2 ^ 39 → (∀ x ∈ xs, x.pa ≠ a) → homeByte u c a = homeByte s c a) ∧
        (bytes = [] → 1 ≤ n → offset + n ≤ 2 ^ 40 → ∀ bs, engineRead s (segmentWho c) false [] ((List.range n).map va) = .ok bs → ∃ u, exec (.hostRead f c offset n) s = .next u ∧ u.hostOps = [] ∧ u.outbox = s.outbox ++ [.hostRead id bs] ∧ u.mem = s.mem ∧ u.ctxs = s.ctxs)))) ∧
  -- a Write that has met a condition goes on to its last packet and stores nothing more
  (∀ (s : State) (o : HostOp) (cls code addr detail : Nat), s.hostOps = [o] → o.write = true → o.more = true →
    let u := hostFails s o cls code addr detail
    u.hostOps = [{ o with offset := o.offset + o.bytes.length, bytes := [], failed := true, waitTouch := none }] ∧ u.mem = s.mem ∧ u.outbox = s.outbox ++ [.hostDone o.id false]) ∧
  (∀ (s : State) (o : HostOp) (bytes : List Byte) (more : Bool), s.hostOps = [o] → o.write = true → o.more = true → o.failed = true → o.bytes = [] → (∀ ss, o.flow ≠ .forged ss) → s.boot.running = true → s.boot.recovery = false → s.eth.up = true →
    (∃ x ∈ s.sessions, x.2.stage = .established) → (ctxOf s o.ctx).isSome = true → 1 ≤ bytes.length → bytes.length ≤ 2 ^ 32 → o.offset + bytes.length ≤ 2 ^ 40 → o.tl < 4096 →
    ∃ u, exec (.hostWrite o.flow o.ctx o.offset o.tl ⟨bytes, more⟩) s = .next u ∧ u = { s with hostOps := u.hostOps, sessions := u.sessions } ∧
      u.hostOps = if more then [{ o with offset := o.offset + bytes.length }] else []) ∧
  (∀ (s : State) (msg : Nat), (∀ e ∈ s.ctxs, ∀ a ∈ e.2.outAcks, a.msg ≠ msg) → exec (.hostAcknowledgement msg) s = .refused .eventNotEnabled) ∧
  (∀ (s : State) (msg c : Nat) (q : Ctx) (a : OutAck), mwf s.ctxs = true → ctxOf s c = some q → q.outAcks.find? (fun a => a.msg == msg) = some a → (∀ e ∈ s.ctxs, e.1 ≠ c → ∀ a ∈ e.2.outAcks, a.msg ≠ msg) →
    ∃ u q', exec (.hostAcknowledgement msg) s = .next u ∧ ctxOf u c = some q' ∧ q'.outAcks = q.outAcks.filter (fun a => a.msg != msg) ∧
      (a.tl = none → ∀ d, d ≠ c → ctxOf u d = ctxOf s d) ∧
      ∀ x, a.tl = some x → (ctxOf s x.ctx).isSome = true → (timelineOf u x.ctx x.index).toNat = min ((timelineOf s x.ctx x.index).toNat + 1) (2 ^ 64 - 1) ∧ ∀ d, d ≠ c → d ≠ x.ctx → ctxOf u d = ctxOf s d)

/-- R345, R346, R462: the requests of the handshake and of an established session, each answered in its stages (whose order is the SPDM
standard's, a choice of the model) and turned away in others; what is measured; a session without a sign of life for 20 seconds, or with
1,024 packets in a row that fail authentication, ends, and every context bound to it loses its endpoint, with its records.
Model's choices: log 112, 113, 114, 122 and 135. -/
def Obligations.SpdmSessions : Prop :=
  (∀ (s : State) (n : Nat),
    let up := (s.boot.running = true ∨ s.bridge.failed = true) ∧ s.eth.up = true
    let st := (mget s.sessions n).map (fun x => x.stage)
    let after := [some SessionStage.negotiated, some .exchanging, some .established]
    let early := [none, some SessionStage.version, some .capabilities, some .negotiated, some .exchanging]
    -- the certificates of the two identity keys; a report and its signatures by both
    let digestOf := fun (k : Nat) => [(Config.sha384 (Config.certificates k)).toNat]
    let chainOf := fun (k : Nat) => (Config.certificates k).length :: (Config.certificates k).map (fun b => b.toNat)
    let signed := measurements s ++ [Config.signature 0 (measurements s), Config.signature 1 (measurements s)]
    let off := fun (i : Instr) => ¬up → exec i s = .refused .eventNotEnabled
    let turned := fun (i : Instr) (name : String) (from_ : List (Option SessionStage)) => up → st ∉ from_ → ∃ u, exec i s = .next u ∧ u = { s with outbox := s.outbox ++ [.spdm n name false []], sessions := u.sessions } ∧
      -- a request of an established session is a sign of life, answered or not
      (∀ x, mget s.sessions n = some x → mget u.sessions n = some (if x.stage = .established then { x with last := s.cycle.toNat, authFails := 0 } else x)) ∧ ∀ k, k ≠ n → mget u.sessions k = mget s.sessions k
    let answered := fun (i : Instr) (name : String) (from_ : List (Option SessionStage)) (dest : Option SessionStage) (data : List Nat) => off i ∧ turned i name from_ ∧ (up → st ∈ from_ → ∃ u, exec i s = .next u ∧
      u = { s with outbox := s.outbox ++ [.spdm n name true data], sessions := u.sessions } ∧ (mget u.sessions n).map (fun x => x.stage) = dest.or st)
    answered (.getVersion n) "GET_VERSION" early (some .version) [0x13] ∧ answered (.getCapabilities n) "GET_CAPABILITIES" [some .version] (some .capabilities) [] ∧
    answered (.negotiateAlgorithms n) "NEGOTIATE_ALGORITHMS" [some .capabilities] (some .negotiated) [] ∧ answered (.getDigests n) "GET_DIGESTS" after none (digestOf 0 ++ digestOf 1) ∧ answered (.getCertificate n) "GET_CERTIFICATE" after none (chainOf 0 ++ chainOf 1) ∧
    answered (.challenge n) "CHALLENGE" after none signed ∧ answered (.getMeasurements n) "GET_MEASUREMENTS" after none signed ∧
    answered (.keyExchange n) "KEY_EXCHANGE" [some .negotiated] (some .exchanging) [10] ∧ answered (.heartbeat n) "HEARTBEAT" [some .established] none [] ∧
    off (.finish n) ∧ turned (.finish n) "FINISH" [some .exchanging] ∧ off (.keyUpdate n) ∧ turned (.keyUpdate n) "KEY_UPDATE" [some .established] ∧ off (.endSession n) ∧ turned (.endSession n) "END_SESSION" [some .established] ∧
    (up → st = some .exchanging → ∃ u, exec (.finish n) s = .next u ∧ u.outbox = s.outbox ++ [.spdm n "FINISH" true []] ∧ mget u.sessions n = some { stage := .established, keys := s.nextId + 1, last := s.cycle.toNat, authFails := 0 }) ∧
    (up → st = some .established →
      (∃ u x, exec (.keyUpdate n) s = .next u ∧ u.outbox = s.outbox ++ [.spdm n "KEY_UPDATE" true []] ∧ mget u.sessions n = some x ∧ x.stage = .established ∧ x.keys = s.nextId + 1 ∧ x.last = s.cycle.toNat) ∧
      (exec (.endSession n) s = .next (endHostSession { s with outbox := s.outbox ++ [.spdm n "END_SESSION" true []] } n false))) ∧
    (∀ x, mget s.sessions n = some x →
      let lapsed := x.stage = .established ∧ (1024 ≤ x.authFails ∨ x.last + Config.heartbeatBound ≤ s.cycle.toNat)
      (¬lapsed → exec (.sessionHeartbeatExpiry n) s = .refused .eventNotEnabled) ∧ (lapsed → exec (.sessionHeartbeatExpiry n) s = .next (endHostSession s n (decide (1024 ≤ x.authFails)))))) ∧
  -- what is measured: the boot ROM, the stages of firmware, the handler images loaded and the boot record
  (∀ s : State, measurements s = (if s.boot.recovery then 1 else 0) :: ([Config.bootImage 0, Config.bootImage 1, if s.boot.recovery then Config.bootImage 2 else s.boot.image].map (fun b => (Config.sha384 b).toNat)) ++
    (s.ctxs.flatMap (fun e => e.2.images)).map (fun d => d.toNat) ++ [(Config.sha384 (bootBytes s.boot)).toNat] ++ s.boot.entries.map (fun e => e.toNat)) ∧
  -- the end of a session, for every context bound to it: held outbound messages and slots being filled are given up, each with its record
  (∀ (s : State) (n : Nat) (auth : Bool), mwf s.ctxs = true →
    let u := endHostSession s n auth
    mget u.sessions n = none ∧ (∀ d, (∀ q, ctxOf s d = some q → q.endpoint ≠ some n) → ctxOf u d = ctxOf s d) ∧
    ∀ c q, ctxOf s c = some q → q.endpoint = some n →
      let filling := s.msgs.filter (fun m => m.ctx == c && (match m.kind with | .host _ => true | _ => false) && m.slot.isSome)
      let records := (if auth then 2 else 1) + q.outAcks.length + filling.length
      ∃ q', ctxOf u c = some q' ∧ q'.endpoint = none ∧ q'.outAcks = [] ∧ q'.recSeq = q.recSeq + BitVec.ofNat 32 records ∧ (∀ o ∈ u.hostOps, o.ctx ≠ c) ∧ (∀ m ∈ u.msgs, m.ctx = c → ∀ f, m.kind ≠ .host f) ∧
        (records + q.records.length ≤ 64 → q'.records.length = q.records.length + records))

/-- R109, R294, R346, R350, R437, R438, R452, R465: CREATE_CONTEXT takes the lowest free number with a fresh key and mailbox 0; DESTROY_CONTEXT
stops a context first; BIND_ENDPOINT and GET_TELEMETRY; VACATE_CORES makes cores ineligible and moves their teams, RESTORE_CORES brings them
back. None acts without an established session.
Model's choices: log 109. -/
def Obligations.FirmwareRequests : Prop :=
  (∀ (s : State) (n c count : Nat) (mask : BitVec 256) (r : CreateRequest), r.session = n → sessionOn s n = false →
    ∀ i ∈ [Instr.createContext r, .destroyContext n c, .bindEndpoint n c, .getTelemetry n, .vacateCores n mask count, .restoreCores n mask], exec i s = .refused .eventNotEnabled) ∧
  (∀ (s : State) (n : Nat), sessionOn s n = true →
    (∀ r : CreateRequest, r.session = n →
      (createOk s r = false ∨ (∀ c, c < 64 → (ctxOf s c).isSome = true) → ∃ u, exec (.createContext r) s = .next u ∧ u.ctxs = s.ctxs ∧ u.outbox = s.outbox ++ [.spdm n "CREATE_CONTEXT" false []]) ∧
      (∀ c, c < 64 → ctxOf s c = none → (∀ d, d < c → (ctxOf s d).isSome = true) → createOk s r = true → ∃ u q, exec (.createContext r) s = .next u ∧ u.outbox = s.outbox ++ [.spdm n "CREATE_CONTEXT" true [c]] ∧ ctxOf u c = some q ∧
        q.phase = .running ∧ q.key = s.nextId + 1 ∧ q.xlroot = r.root ∧ q.endpoint = some n ∧ q.hentry = 0 ∧ q.errmb = 0 ∧ q.tagcount = 0 ∧ q.allot0 = [] ∧ q.allot1 = [] ∧ q.timelines = [] ∧ q.records = [] ∧ q.recSeq = 1 ∧
        q.mailboxes = [(0, { n := r.slots, base := r.slotBase, packet := r.packet, priv := true, slots := [] })] ∧ (∀ f ∈ r.frames, ownerOf u (localise s f) = c) ∧ u.mem = s.mem ∧ ∀ d, d ≠ c → ctxOf u d = ctxOf s d)) ∧
    (∀ c, ctxOf s c = none → ∃ u, exec (.destroyContext n c) s = .next u ∧ u.ctxs = s.ctxs ∧ u.outbox = s.outbox ++ [.spdm n "DESTROY_CONTEXT" false []]) ∧
    (∀ c q, ctxOf s c = some q →
      (q.phase = .stopped → ∃ u, exec (.destroyContext n c) s = .next u ∧ ctxOf u c = none ∧ (∀ e ∈ u.teams, e.2.ctx ≠ c) ∧ (∀ e ∈ u.owner, e.2 ≠ c) ∧ (∀ m ∈ u.msgs, m.ctx ≠ c) ∧ Out.spdm n "DESTROY_CONTEXT" true [c] ∈ u.outbox ∧ ∀ d, d ≠ c → ctxOf u d = ctxOf s d) ∧
      (q.phase = .running → ∃ u q', exec (.destroyContext n c) s = .next u ∧ ctxOf u c = some q' ∧ q'.phase = .draining ∧ q'.destroying = some n) ∧
      (∃ u, exec (.bindEndpoint n c) s = .next u ∧ ctxOf u c = some { q with endpoint := some n } ∧ u.outbox = s.outbox ++ [.spdm n "BIND_ENDPOINT" true []])) ∧
    (∃ u, exec (.getTelemetry n) s = .next u ∧ u.mem = s.mem ∧ u.tele = s.tele ∧
      u.outbox = s.outbox ++ [.spdm n "GET_TELEMETRY" true ([s.tele.power.toNat, s.tele.clock.toNat, s.tele.throttles.toNat, s.tele.hottest.toNat, s.tele.alerts0.toNat, s.tele.alerts1.toNat, s.tele.corrected0.toNat, s.tele.corrected1.toNat] ++ List.replicate 8 0)]) ∧
    (∀ (mask : BitVec 256) (count : Nat),
      -- a count without a mask names the eligible cores with the fewest groups, of equals the higher
      (mask = 0 → 1 ≤ count → count ≤ 255 →
        let free := (List.range 256).filter (fun k => octetOn s k && !(coreOf s k).vacated)
        ∃ (u : State) (cs : List Nat), exec (.vacateCores n mask count) s = .next u ∧ u.outbox = s.outbox ∧ cs.Nodup ∧ cs.length = min count free.length ∧ (∀ k ∈ cs, k ∈ free) ∧
          (∀ k ∈ cs, ∀ j ∈ free, j ∉ cs → groupsOn s k < groupsOn s j ∨ groupsOn s k = groupsOn s j ∧ j < k) ∧ (∀ k, k < 256 → (coreOf u k).vacated = ((coreOf s k).vacated || decide (k ∈ cs))) ∧
          ∀ t tm, teamOf s t = some tm → tm.core ∈ cs → tm.resident = true → tm.phase = .running → ctxRuns s tm.ctx = true → (teamOf u t).map (fun x => x.phase) = some .moving) ∧
      (mask = 0 → count = 0 ∨ 255 < count → ∃ u, exec (.vacateCores n mask count) s = .next u ∧ u.outbox = s.outbox ++ [.spdm n "VACATE_CORES" false []] ∧ u.cores = s.cores) ∧
      (mask ≠ 0 → ∃ u, exec (.vacateCores n mask count) s = .next u ∧ u.outbox = s.outbox ∧ (∀ k, k < 256 → (coreOf u k).vacated = ((coreOf s k).vacated || (octetOn s k && mask.getLsbD k))) ∧
        ∀ t tm, teamOf s t = some tm → tm.core < 256 → mask.getLsbD tm.core = true → octetOn s tm.core = true ∨ (coreOf s tm.core).vacated = true → tm.resident = true → tm.phase = .running → ctxRuns s tm.ctx = true → (teamOf u t).map (fun x => x.phase) = some .moving) ∧
      ∃ u, exec (.restoreCores n mask) s = .next u ∧ u.outbox = s.outbox ++ [.spdm n "RESTORE_CORES" true []] ∧ u.teams = s.teams ∧ ∀ k, k < 256 → (coreOf u k).vacated = ((coreOf s k).vacated && !mask.getLsbD k)))

/-- R24, R343, R347, R350, R410 to R412, R455 to R461: requests of peers complete at the home segments; requests to peers are answered, or
time out with 9.1; the Ethernet link, UALink lanes, port keys and paths change with their records; the die bridge replaces lanes while it has
spares; row-disturbance alerts and throttling only count; flits that fail authentication are replayed, 16 in a
row take their port out of service, and an answer counts its flits against the port's key.
Model's choices: log 8, 25, 28, 31, 32, 34, 67, 114, 120, 121, 123 and 134. -/
def Obligations.LinkEvents : Prop :=
  (∀ (s : State) (dev id addr n : Nat) (bytes : List Byte), s.boot.running = true → s.boot.recovery = false →
    (addr + n ≤ 2 ^ 39 → 1 ≤ n → addr % 128 + n ≤ 128 →
      (dataError s addr n = none → exec (.peerRequest (.read dev id addr n)) s = .next (sendAnswer s dev addr n (.peerAnswer dev id true (homeBytes s 64 addr n)))) ∧
      (∀ code a m, dataError s addr n = some (code, a, m) → exec (.peerRequest (.read dev id addr n)) s = .next (sendAnswer s dev addr 2 (.peerAnswer dev id false (bytesOf 1 code ++ bytesOf 1 m.toNat))))) ∧
    (addr + bytes.length ≤ 2 ^ 39 → bytes ≠ [] → addr % 128 + bytes.length ≤ 128 → s.badLines = [] → s.lost = [] → ∃ u, exec (.peerRequest (.write dev id addr bytes)) s = .next u ∧ u.outbox = s.outbox ++ [.peerAnswer dev id true []] ∧
      homeBytes u 64 addr bytes.length = bytes ∧ ∀ a, a < 2 ^ 39 → a < addr ∨ addr + bytes.length ≤ a → homeByte u 64 a = homeByte s 64 a) ∧
    (∀ aop x y ret, addr + 8 ≤ 2 ^ 39 → aop ≤ 16 → addr % atomBytes aop = 0 →
      let n := atomBytes aop
      let merged := fun (u : State) => homeBytes u 64 addr n = bytesOf n (atomNew aop (BitVec.ofNat 64 (leNat (homeBytes s 64 addr n))) x y).toNat
      (dataError s addr n = none → ∃ u, exec (.peerRequest (.atomic dev id addr aop x y ret)) s = .next u ∧ merged u ∧
        u.outbox = s.outbox ++ [.peerAnswer dev id true (if ret = true then homeBytes s 64 addr n else [])]) ∧
      (∀ code a m, dataError s addr n = some (code, a, m) → code ≠ 1 ∨ ret = true → exec (.peerRequest (.atomic dev id addr aop x y ret)) s = .next (sendAnswer s dev addr 2 (.peerAnswer dev id false (bytesOf 1 code ++ bytesOf 1 m.toNat)))) ∧
      -- without a return it merges into a damaged line, with no error
      (∀ a m, dataError s addr n = some (1, a, m) → s.lost.length < 32 → ∃ u, exec (.peerRequest (.atomic dev id addr aop x y false)) s = .next u ∧ merged u ∧ u.outbox = s.outbox ++ [.peerAnswer dev id true []])) ∧
    (∀ c mb kind, bytes ≠ [] → bytes.length ≤ 256 → mb < 1024 → c < 64 → ∃ u m, exec (.peerRequest (.message dev id c mb kind bytes)) s = .next u ∧ u.msgs = s.msgs ++ [m] ∧ m.ctx = c ∧ m.mb = mb ∧ m.bytes = bytes ∧ m.device = dev ∧ m.ack = some id ∧ m.slot = none) ∧
    (∀ c tl, tl < 4096 → ∃ u, exec (.peerRequest (.timeline dev id c tl)) s = .next u ∧ u.outbox = s.outbox ++ [.peerAnswer dev id (ctxOf s c).isSome []] ∧
      ∀ q, ctxOf s c = some q → (timelineOf u c tl).toNat = min ((timelineOf s c tl).toNat + 1) (2 ^ 64 - 1))) ∧
  -- an answer leaves by the port of its line, whose keys are fresh for every 2^32 flits
  (∀ (s : State) (dev addr n : Nat) (o : Out), let u := sendAnswer s dev addr n o
    u = { s with nextId := s.nextId + 1, outbox := s.outbox ++ [o], ports := u.ports } ∧ u.ports.length = s.ports.length ∧
    ∀ p x, s.ports[p]? = some x → u.ports[p]? = some (if portOf s dev addr ≠ some p then x else if x.flits + Config.flitsOf n ≤ 2 ^ 32 then { x with flits := x.flits + Config.flitsOf n } else { x with keys := s.nextId, flits := Config.flitsOf n })) ∧
  -- flits that fail authentication are replayed; 16 in a row take the port out of service
  (∀ (s : State) (p n : Nat) (x : Port), s.boot.running = true → s.boot.recovery = false → s.ports[p]? = some x → x.up = true →
    exec (.peerRequest (.forged p n)) s = .next (if n < 16 then s else setPort (postRunning s { cls := 10, code := 3, detail := some (BitVec.ofNat 32 (p * 2 ^ 16)) }) p x.bad 0)) ∧
  (∀ (s : State) (q : PeerReq) (bytes : List Byte), s.peerReqs.find? (fun x => x.id == q.id) = some q →
    let gone := { s with peerReqs := s.peerReqs.filter (fun x => x.id != q.id) }
    -- the bound has elapsed, or no port is left to the device
    let late := q.since + Config.peerBound ≤ s.cycle.toNat ∨ (mgetD s.hops 0x3C000000 q.device).toNat % 2 ^ 18 = 0
    (¬late → exec (.peerRequestTimeout q.id) s = .refused .eventNotEnabled) ∧ (late → exec (.peerRequestTimeout q.id) s = .next (reqFails gone q 9 1 q.device)) ∧
    -- in the cycle in which the bound elapses a response still wins
    let inTime := ¬late ∨ q.since + Config.peerBound = s.cycle.toNat
    (inTime → bytes.length ∈ answerSize q s → exec (.peerResponse q.id bytes 0) s = .next (reqDone gone q bytes)) ∧
    (¬inTime → exec (.peerResponse q.id bytes 0) s = .refused .eventNotEnabled) ∧
    (∀ t g n, q.who = .store t g n none → reqFails gone q 9 1 q.device = faultTeam gone t g { cls := 9, code := 1, addr := BitVec.ofNat 64 q.addr, detail := some (BitVec.ofNat 32 q.device), pc := q.pc }) ∧
    (∀ t g n va, q.who = .store t g n (some va) → reqFails gone q 9 1 q.device = faultTeam gone t g { cls := 9, code := 4, addr := BitVec.ofNat 64 va.1, detail := some (BitVec.ofNat 32 q.device), pc := q.pc })) ∧
  (∀ s : State,
    let tells := fun (s' : State) (cls code detail : Nat) => postRunning s' { cls := cls, code := code, detail := some (BitVec.ofNat 32 detail) }
    (exec .ethernetLossOfLock s = if (s.boot.running = true ∨ s.bridge.failed = true) ∧ s.eth.up = true then .next { s with eth := { up := false, lostAt := some s.cycle.toNat, downPosted := false } } else .refused .eventNotEnabled) ∧
    (exec .ethernetLinkDown s = if lostLong s = true ∧ s.eth.downPosted = false then .next (tells { s with eth := { s.eth with downPosted := true } } 9 6 0) else .refused .eventNotEnabled) ∧
    (s.eth.up = false → s.eth.lostAt ≠ none → lostLong s = false ∨ s.eth.downPosted = true →
      let s' := { s with eth := { up := true, lostAt := none, downPosted := false } }
      exec .ethernetLinkUp s = .next (if s.eth.downPosted then tells s' 9 6 1 else s')) ∧
    (∀ p lane (x : Port), s.ports[p]? = some x → x.up = true → lane < 4 → x.bad.getLsbD lane = false →
      let bad := x.bad ||| BitVec.ofNat 4 (2 ^ lane)
      (portWidth bad = x.width → exec (.ualinkLaneFail p lane) s = .next { s with ports := lmod s.ports p (fun x => { x with bad := bad }) }) ∧
      (portWidth bad ≠ x.width → exec (.ualinkLaneFail p lane) s = .next (setPort s p bad (portWidth bad)))) ∧
    (∀ bad : BitVec 4, portWidth bad = match ((List.range 4).filter (fun l => !bad.getLsbD l)).length with | 4 => 4 | 3 => 2 | 2 => 2 | 1 => 1 | _ => 0) ∧
    (∀ p (x : Port), s.ports[p]? = some x → x.up = true →
      (∃ u, exec (.portKeyRefresh p true) s = .next u ∧ u = { s with nextId := s.nextId + 1, ports := u.ports } ∧ u.ports[p]? = some { x with keys := s.nextId + 1, flits := 0 }) ∧
      exec (.portKeyRefresh p false) s = .next (setPort (tells s 10 3 (p * 2 ^ 16)) p x.bad 0)) ∧
    (∀ dev (cls : BitVec 2) (hops : BitVec 4), s.boot.running = true → dev < 640 → dev ≠ s.deviceId.toNat → ∃ u w, exec (.pathChange dev cls hops) s = .next u ∧ mget u.hops dev = some w ∧ w.toNat / 2 ^ 30 = cls.toNat ∧ w.toNat / 2 ^ 26 % 16 = hops.toNat ∧
      (∀ d, d ≠ dev → mget u.hops d = mget s.hops d) ∧ (pclsOf s dev ≤ cls.toNat → hops ≠ 15 → u.ctxs = s.ctxs)) ∧
    (∀ die, die < 2 → ∃ u, exec (.rowDisturbanceAlert die) s = .next u ∧ u = { s with tele := u.tele } ∧ u.tele.alerts0 = s.tele.alerts0 + (if die = 0 then 1 else 0) ∧ u.tele.alerts1 = s.tele.alerts1 + (if die = 1 then 1 else 0)) ∧
    (∀ mw hottest, mw < 2 ^ 32 → hottest < 2 ^ 32 →
      let measured := { s.tele with power := BitVec.ofNat 32 mw, hottest := BitVec.ofNat 32 hottest }
      exec (.powerThrottle ⟨mw, hottest⟩) s = .next { s with tele := if 4000000 < mw ∧ 1000 < s.tele.clock.toNat then { measured with clock := s.tele.clock - 100, throttles := s.tele.throttles + 1 } else measured }) ∧
    (∀ dir bulk n, s.boot.running = true → dir < 2 → s.bridge.failed = false →
      let used := if dir = 0 then s.bridge.spares0 else s.bridge.spares1
      (n < 16 → exec (.bridgeFlitFail dir bulk n) s = .next s) ∧
      (16 ≤ n → used < (Config.spareLanes dir).val → exec (.bridgeFlitFail dir bulk n) s = .next { s with bridge := if dir = 0 then { s.bridge with spares0 := used + 1 } else { s.bridge with spares1 := used + 1 } }) ∧
      (16 ≤ n → (Config.spareLanes dir).val ≤ used → ∃ u, exec (.bridgeFlitFail dir bulk n) s = .next u ∧ u.bridge.failed = true ∧ u.boot.running = false ∧ u.teams = [] ∧ ∀ e ∈ u.ctxs, e.2.phase = .stopped ∧ e.2.fatal = true)))

/-- R349, R466 to R470: a start whose sixteen steps pass ends with main firmware running, an entry of 'passed' for every step and its counts at
zero; a step that fails counts against it; a mandatory one that failed three times leads to the recovery image, and a failure of the recovery
image's signatures to the hold in reset. RESTART, RESET_DEGRADATION and UPDATE_FIRMWARE need an established session.
Model's choices: log 7, 10, 115, 116, 117, 118, 119, 136 and 167. -/
def Obligations.StartUp : Prop :=
  (∀ (s : State) (id : BitVec 10) (hops : List (Nat × W32)) (reports : List PeerReport), id.toNat < 640 → s.bridge.failed = false → s.boot.counters = List.replicate 16 0 → s.boot.bases = List.replicate 16 0 → s.boot.failing = List.replicate 16 none →
    s.boot.entries.length = 16 → s.boot.degr.alone = false → s.boot.degr.pins = List.replicate 8 0 → s.boot.rollback = 0 →
    (∃ u, exec (.powerOnReset [] id ⟨hops, reports⟩) s = .next u ∧ u.boot.running = true ∧ u.boot.recovery = false ∧ u.boot.held = false ∧ u.boot.entries = List.replicate 16 0x4000 ∧ u.boot.i3c = (!s.boot.degr.i3cOff) ∧ u.boot.counters = List.replicate 16 1 ∧ u.boot.bases = u.boot.counters ∧
      u.deviceId = id ∧ u.mem = s.mem ∧ u.ctxs = [] ∧ u.teams = [] ∧ u.eth.up = true ∧ u.tele.clock = 3000 ∧
      (s.boot.degr.i3cOff = false → Out.i3c u.boot.entries ∈ u.outbox) ∧
      -- a port carries traffic, under keys of its own, once its peer attests and both signatures of its report verify
      ∀ p, p < 18 → ∃ x : Port, u.ports[p]? = some x ∧ x.flits = 0 ∧
        (x.up = true ↔ portWidth (BitVec.ofNat 4 (s.boot.degr.lanes.toNat / 2 ^ (4 * p) % 16)) ≠ 0 ∧ ∃ r ∈ reports, r.port = p ∧ r.attested = true ∧ r.rsaOk = true ∧ r.slhOk = true) ∧
        (x.up = true → x.attested = true ∧ x.keys = s.nextId + 1 + p)) ∧
    (s.boot.exitFlag = false → ∃ u, exec (.powerOnReset [.fail 0, .fail 0, .fail 0] id ⟨hops, reports⟩) s = .next u ∧ u.boot.recovery = true ∧ u.boot.running = true ∧ u.boot.entries.getD 0 0 = 0x4000 ∧ u.boot.counters.getD 0 0 = 4 ∧ u.boot.bases.getD 0 0 = 4 ∧ u.deviceId = 0) ∧
    (s.boot.exitFlag = false → ∃ u, exec (.powerOnReset [.fail 0, .fail 0, .fail 0, .fail 0] id ⟨hops, reports⟩) s = .next u ∧ u.boot.held = true ∧ u.boot.running = false ∧ Out.i3c u.boot.entries ∈ u.outbox)) ∧
  (∀ (s : State) (steps : List StepResult) (id : BitVec 10) (hops : List (Nat × W32)) (reports : List PeerReport), if id.toNat < 640 then ∃ u, exec (.powerOnReset steps id ⟨hops, reports⟩) s = .next u else exec (.powerOnReset steps id ⟨hops, reports⟩) s = .refused .eventNotEnabled) ∧
  -- one step of a start, of main firmware or the recovery image: its counter rises as it begins, its base is written as it passes
  (∀ (n : Nat) (more : List Nat) (main : Bool) (rs : List StepResult) (b : Boot) (u lanes : BitVec 72), 1 ≤ n → n ≤ 16 → n ≠ 3 → b.counters.length = 16 → b.bases.length = 16 → b.entries.length = 16 → b.failing.getD (n - 1) none = none →
    let k := b.counters.getD (n - 1) 0
    let failed := fun (d : Nat) => BitVec.ofNat 16 (3 * 2 ^ 14 + min 3 (k + 1 - b.bases.getD (n - 1) 0) * 2 ^ 12 + d)
    (k < 4096 → runSteps (n :: more) main false (.pass :: rs) b = runSteps more main false rs { b with counters := b.counters.set (n - 1) (k + 1), bases := b.bases.set (n - 1) (k + 1), entries := b.entries.set (n - 1) 0x4000, spent := b.spent && n != 7 }) ∧
    (k < 4096 → ∃ b', runSteps (n :: more) main false (.fail u :: rs) b = (.failed, rs, b') ∧ b'.counters = b.counters.set (n - 1) (k + 1) ∧ b'.bases = b.bases ∧ b'.entries = b.entries.set (n - 1) (failed (stepDetail n u))) ∧
    -- a step that hangs counts as one that has failed
    (k < 4096 → ∃ b', runSteps (n :: more) main false (.hang :: rs) b = (.hung, rs, b') ∧ b'.counters = b.counters.set (n - 1) (k + 1) ∧ b'.bases = b.bases ∧ (b'.entries.getD (n - 1) 0).toNat / 2 ^ 12 % 4 = min 3 (k + 1 - b.bases.getD (n - 1) 0)) ∧
    -- lanes that fail in the same start are marked at step 12, too
    (k < 4096 → n ≠ 12 → ∃ b', runSteps (n :: more) main false (.failLanes u lanes :: rs) b = (.failed, rs, b') ∧ b'.entries.getD (n - 1) 0 = failed (stepDetail n u) ∧ (b'.entries.getD 11 0).toNat / 2 ^ 14 = 3 ∧ (b'.entries.getD 11 0).toNat % 2 ^ 12 = stepDetail 12 lanes % 2 ^ 12) ∧
    (4096 ≤ k → ∃ b', runSteps (n :: more) main false rs b = (.failed, rs, b') ∧ b'.bases = b.bases)) ∧
  (∀ s : State, s.boot.held = true → (∀ a b c r, s.agenda ≠ .event (.powerOnReset a b c) :: r) → step s = .fault .heldInReset) ∧
  (∀ (s : State) (n : Nat) (image : List Byte) (rsa slh : Bool),
    let on := ((s.boot.running = true ∨ s.bridge.failed = true) ∧ s.eth.up = true) ∧ stageOf s n = some .established
    (¬on → ∀ i ∈ [Instr.resetDegradation n, .restart n, .updateFirmware n image rsa slh], exec i s = .refused .eventNotEnabled) ∧
    (on →
      (∃ u, exec (.resetDegradation n) s = .next u ∧ u.boot = { s.boot with degr := Degradation.clear } ∧ u.outbox = s.outbox ++ [.spdm n "RESET_DEGRADATION" true []] ∧ u.mem = s.mem) ∧
      (∃ u, exec (.restart n) s = .next u ∧ u.boot.running = false ∧ u.boot.exitFlag = (s.boot.exitFlag || s.boot.recovery) ∧ u.boot.counters = s.boot.counters ∧ u.ctxs = [] ∧ u.mem = s.mem ∧ u.teams = []) ∧
      -- main firmware turns it away; it is a sign of life all the same
      (s.boot.recovery = false → ∃ u, exec (.updateFirmware n image rsa slh) s = .next u ∧ u = { s with outbox := s.outbox ++ [.spdm n "UPDATE_FIRMWARE" false []], sessions := u.sessions } ∧
        ∀ x, mget s.sessions n = some x → mget u.sessions n = some { x with last := s.cycle.toNat, authFails := 0 }) ∧
      (s.boot.recovery = true → ∃ u, exec (.updateFirmware n image rsa slh) s = .next u ∧ u.boot = (if rsa && slh then { s.boot with image := image } else s.boot) ∧ u.outbox = s.outbox ++ [.spdm n "UPDATE_FIRMWARE" (rsa && slh) []])))

/-! ### Operands, words, steps -/

/-- R39, R150 to R154: what source operands read: inline and long literals by operand type, constants, general and special registers, 64-bit
pairs, and uniform operands in vector registers.
Model's choices: log 41 and 46. -/
def Obligations.OperandValues : Prop :=
  (∀ (o : Operands) (n : BitVec 11),
    let long := o.form ≠ .f64 ∧ n = 0x400
    let k := n.toInt
    (long → (∀ ty, litVal o ty n = BitVec.ofNat 32 (o.lit.toNat % 2 ^ 32)) ∧ (o.form = .f128l → litVal64 o n = o.lit) ∧ (o.form ≠ .f128l → litVal64 o n = (o.lit.setWidth 32).signExtend 64)) ∧
    (¬long → litVal o .i32 n = BitVec.ofInt 32 k ∧ litVal64 o n = BitVec.ofInt 64 k ∧ litVal o .f32 n = f32 (.ofInt k) ∧
      (∀ e, e < 2 → (litVal o .i16x2 n).extractLsb' (16 * e) 16 = BitVec.ofInt 16 k) ∧ (∀ e, e < 4 → (litVal o .i8x4 n).extractLsb' (8 * e) 8 = BitVec.ofInt 8 k) ∧
      (∀ e, e < 2 → (litVal o .f16x2 n).extractLsb' (16 * e) 16 = BitVec.ofNat 16 (encodeF fmtF16 .rne (.ofInt k))) ∧ (∀ e, e < 2 → (litVal o .bf16x2 n).extractLsb' (16 * e) 16 = BitVec.ofNat 16 (encodeF fmtBF16 .rne (.ofInt k))))) ∧
  (∀ (s : State) (iss : Iss) (i l : Nat) (n : BitVec 11),
    let r := n.toNat
    scal32 s iss i (.lit n) = litVal iss.o .i32 n ∧ scal32 s iss i (.const n) = mgetD iss.tm.banks 0 r ∧ scal64 s iss i (.const n) = mgetD iss.tm.banks 0 (r + 1) ++ mgetD iss.tm.banks 0 r ∧
    (r < 64 → scal32 s iss i (.scal n) = sreg iss.gr i r ∧ scal64 s iss i (.scal n) = sreg iss.gr i (r + 1) ++ sreg iss.gr i r) ∧
    (r = 64 → scal32 s iss i (.scal n) = gangExec iss.gr iss.q.members) ∧ (r = 65 → scal32 s iss i (.scal n) = gangVcc iss.gr iss.q.members) ∧
    (r = 66 → scal32 s iss i (.scal n) = if (sliceOf iss.gr i).scc then 1 else 0) ∧ (r = 67 → scal32 s iss i (.scal n) = (sliceOf iss.gr i).fmt) ∧
    (r = 68 → scal32 s iss i (.scal n) = iss.gr.lastProgress.extractLsb' 0 32) ∧ (r = 69 → scal32 s iss i (.scal n) = iss.gr.fmask) ∧
    (r = 70 → scal32 s iss i (.scal n) = s.cycle.extractLsb' 0 32 ∧ scal64 s iss i (.scal n) = s.cycle) ∧ (r = 71 → scal32 s iss i (.scal n) = s.cycle.extractLsb' 32 32) ∧
    (r = 72 → scal32 s iss i (.scal n) = (sliceOf iss.gr i).rentry.extractLsb' 0 32 ∧ scal64 s iss i (.scal n) = (sliceOf iss.gr i).rentry) ∧
    (∀ ty, lane32 s iss ty l (.vec n) = vreg iss.gr r l ∧ lane32 s iss ty l (.lit n) = litVal iss.o ty n ∧ lane32 s iss ty l (.scal n) = scal32 s iss (l / 4) (.scal n)) ∧
    (uniform32 s iss (.scal n) = .ok (some (scal32 s iss iss.k (.scal n)))) ∧ (iss.act = 0 → uniform32 s iss (.vec n) = .ok none) ∧
    (∀ l0, l0 < 32 → iss.act.getLsbD l0 = true → (∀ j, j < l0 → iss.act.getLsbD j = false) →
      ((∀ j, j < 32 → iss.act.getLsbD j = true → vreg iss.gr r j = vreg iss.gr r l0) → uniform32 s iss (.vec n) = .ok (some (vreg iss.gr r l0))) ∧
      ((∃ j, j < 32 ∧ iss.act.getLsbD j = true ∧ vreg iss.gr r j ≠ vreg iss.gr r l0) → ∃ mask, uniform32 s iss (.vec n) = .error { cls := 0, code := 11, mask := mask } ∧
        ∀ j, j < 32 → (mask.getLsbD j = true ↔ iss.act.getLsbD j = true ∧ vreg iss.gr r j ≠ vreg iss.gr r l0)))) ∧
  (∀ (gr : Group) (m : BitVec 8) (l : Nat), l < 32 → m.getLsbD (l / 4) = true → l / 4 < gr.slices.length →
    (gangExec gr m).getLsbD l = ((sliceOf gr (l / 4)).exec.getLsbD (l % 4) && !gr.fmask.getLsbD l) ∧ (gangVcc gr m).getLsbD l = (sliceOf gr (l / 4)).vcc.getLsbD (l % 4))

/-- R349, R346, R24: after reset nothing runs and no context, team or session exists; the memory's canonical form holds. (That memory reads
as zero and the counters start at 0 is the model's choice: log entries 4 and 5.)
Model's choices: log 4, 5, 6, 7, 8, 9 and 10. -/
def Obligations.ResetState : Prop :=
  let s := State.reset
  s.boot.running = false ∧ s.ctxs = [] ∧ s.teams = [] ∧ s.grids = [] ∧ s.sessions = [] ∧ s.msgs = [] ∧ s.eth.up = false ∧ s.tele.clock = 3000 ∧ s.ports.length = 18 ∧ (∀ p ∈ s.ports, p.up = false) ∧ s.boot.entries = List.replicate 16 0 ∧ Inv s

/-- R41, R44, R142 to R146: when a gang that may issue stands at bytes that decode to an instruction within one 32-byte block, a step is that
instruction's meaning at that state, with the gang's issue noted before it and the end of the cycle after it.
Model's choices: log 3, 5, 11, 13, 14 and 65. -/
def Obligations.StepRunsDecoded : Prop :=
  (∀ (s : State) (c : Issuer) (rest : List Act) (tm : Team) (gr : Group) (q : Gang) (i : Instr), s.agenda = .issue c.t c.g c.k :: rest → s.boot.held = false →
    let s0 := { s with agenda := rest }
    teamOf s c.t = some tm → tm.groups[c.g]? = some gr → gangAt gr c.k = some q → gangReady s0 c.t tm gr q = true → (∃ r ∈ choices s0, r.t = c.t ∧ r.g = c.g ∧ nextGang r = c.k) → fetch s0 c.t c.g c.k tm gr q = .word i →
    let s1 := tlbNote s0 (whoOf tm) ((sliceOf gr c.k).pc.toNat % 2 ^ 57)
    let s2 := if (operands i).isSome then markIssue s1 c.t c.g c.k else { s1 with cur := some c }
    step s = match exec i s2 with
      | .next s' => .next (endCycle exec (unmark gr s' c.t c.g c.k))
      | x => x) ∧
  (∀ (s : State) (t g k : Nat) (tm : Team) (gr : Group) (q : Gang) (pa : Nat) (block : Option Nat) (i : Instr),
    let pc := (sliceOf gr k).pc.toNat % 2 ^ 57
    let n := 32 - pc % 32
    let runs := fun (bytes : List Byte) => let w := BitVec.ofNat 128 (leNat bytes)
      (w.extractLsb' 0 2 = 0#2 ∨ pc % 32 + 4 * wordCount w ≤ 32) → decode w = .ok i → fetch s t g k tm gr q = .word i
    translate s (whoOf tm) .fetch false 0 pc = .ok pa [] block → pa < 2 ^ 39 → dataError s (pa - pa % 32) 32 = none →
      -- a change is hidden from the grid where it is not released, or was released or made by an engine after the grid's launch
      let hidden := fun (j : OldBlock) => j.by_ ≠ none ∨ tm.grid < j.stamp
      let js := s.journal.filter (fun j => j.block == pa / 32)
      ((∀ j ∈ js, ¬hidden j) → runs (homeBytes s tm.ctx pa n)) ∧
      -- with every change hidden the block is fetched as it was before the first
      (∀ j rest, js = j :: rest → (∀ x ∈ js, hidden x) → readsUnder s tm.ctx (pa / 128) j.key = true → runs ((List.range n).map (fun i => j.bytes.getD (pa % 32 + i) 0))) ∧
      -- of two changes the one that is not hidden shows
      (∀ i j, js = [i, j] → i.bytes.length = 32 → j.bytes.length = 32 →
        (¬hidden i → hidden j → readsUnder s tm.ctx (pa / 128) j.key = true → runs ((List.range n).map (fun b => j.bytes.getD (pa % 32 + b) 0))) ∧
        (hidden i → ¬hidden j → readsUnder s tm.ctx (pa / 128) i.key = true → runs ((List.range n).map (fun b =>
          let now := readByte s.mem (pa + b)
          if j.bytes.getD (pa % 32 + b) 0 = now then i.bytes.getD (pa % 32 + b) 0 else now))))) ∧
  (∀ (s : State) (i : Instr) (rest : List Act), s.agenda = .event i :: rest → s.boot.held = false → isEvent i = true → step s = match exec i { s with agenda := rest } with
      | .next s' => .next (endCycle exec s')
      | x => x) ∧
  (∀ s : State, let u := endCycle exec s; s.hostOps = [] → s.vacates = [] → (∀ e ∈ s.ctxs, e.2.owed = []) → (∀ q ∈ s.peerReqs, overdue s q = false) →
    -- no gang waits
    (allGangs s).Nodup → (∀ e ∈ s.teams, ∀ gr ∈ e.2.groups, ∀ q ∈ gr.gangs, q.wait = none) →
    u.cycle = s.cycle + 1 ∧ u.cur = none ∧ u.mem = s.mem ∧
    -- the L2 cycles that pass with one core cycle
    (0 < s.tele.clock.toNat → (u.l2cycle - s.l2cycle) * s.tele.clock.toNat + u.l2part = s.l2part + 2000 ∧ u.l2part < s.tele.clock.toNat ∧ s.l2cycle ≤ u.l2cycle))

/-- R142, R147, R148, R155: words of the spec's examples decode to the instructions they stand for. -/
def Obligations.WordsDecode : Prop :=
  let o := fun (f : Form) (dst : Dst) (a b c : Src) (m : BitVec 13) (x : BitVec 38) (lit : BitVec 64) => ({ form := f, dst := dst, a := a, b := b, c := c, d := .vec 0, m := m, x := x, lit := lit } : Operands)
  decodeTableWord 64 0x000003E000001401 = some (.vfadd (o .f64 (.vec 1) (.vec 0) (.lit 7) (.vec 0) 0 0 0)) ∧
  decodeTableWord 96 0x00000406000080400400240E = some (.vfma (o .f96c (.vec 2) (.vec 1) (.const 0x100) (.const 0x101) 0 0 0)) ∧
  decodeTableWord 128 0x0000000100000000800000100380821B = some (.smov64 (o .f128l (.scal 8) (.lit 0x400) (.vec 0) (.vec 0) 0 0 0x100000000)) ∧
  decodeTableWord 64 0x0000001FEB000015 = some (.brany (o .f64 (.vec 0) (.lit 0x7FA) (.vec 0) (.vec 0) 0 0 0)) ∧
  decodeTableWord 96 0x00080000203402001100C702 = some (.vld (o .f96c (.vec 12) (.scal 4) (.vec 4) (.vec 0) 0x80D 0x40 0)) ∧
  decodeTableWord 64 0x009000000000090D = some (.fenceSmp (o .f64 (.vec 0) (.vec 0) (.vec 0) (.vec 0) 0x24 0 0)) ∧
  decodeTableWord 64 0x0004000000000E09 = some (.tretOff (o .f64 (.vec 0) (.vec 0) (.vec 0) (.vec 0) 1 0 0)) ∧
  decodeTableWord 32 0 = some .filler

/-- R142 to R161: no bit of an encoding is dropped: for every well-formed instruction or non-instruction word, with every operand at every value,
the decoder gives back what the encoder encoded; it has an encoding exactly if it is no event; and the words above the instruction's own are
not examined. -/
def Obligations.DecodeEncode : Prop :=
  (∀ (i : Instr) (w : BitVec 128), WellFormed i = true → encode i = some w → decode w = .ok i) ∧
  (∀ i : Instr, (encode i).isSome = true ↔ i = .filler ∨ (∃ w, i = .poolHeader w) ∨ (operands i).isSome = true) ∧
  (∀ v w : BitVec 128, v.extractLsb' 0 2 ≠ 0#2 → (∀ b, b < 32 * wordCount v → v.getLsbD b = w.getLsbD b) → decode v = decode w)

/-- Every step keeps HBM in its canonical form: rising addresses, each listed byte different from what an unlisted address reads as.
Model's choices: log 4. -/
def Obligations.InvKept : Prop := ∀ s t : State, Inv s → step s = .next t → Inv t
end

