-- ==== Sys2Proof/Laws/Dispatch.lean ====
section
/-! SUPPORT. `exec` of each constructor is its meaning. -/

namespace Sys2Proof.Machine

theorem exec_nop (o : Operands) (s : State) : exec (.nop o) s = execNop o s := rfl
theorem exec_br (o : Operands) (s : State) : exec (.br o) s = execBr o s := rfl
theorem exec_brc (o : Operands) (s : State) : exec (.brc o) s = execBrc o s := rfl
theorem exec_bexecz (o : Operands) (s : State) : exec (.bexecz o) s = execBexecz o s := rfl
theorem exec_bexecnz (o : Operands) (s : State) : exec (.bexecnz o) s = execBexecnz o s := rfl
theorem exec_brany (o : Operands) (s : State) : exec (.brany o) s = execBrany o s := rfl
theorem exec_brall (o : Operands) (s : State) : exec (.brall o) s = execBrall o s := rfl
theorem exec_call (o : Operands) (s : State) : exec (.call o) s = execCall o s := rfl
theorem exec_ret (o : Operands) (s : State) : exec (.ret o) s = execRet o s := rfl
theorem exec_jmpi (o : Operands) (s : State) : exec (.jmpi o) s = execJmpi o s := rfl
theorem exec_regang (o : Operands) (s : State) : exec (.regang o) s = execRegang o s := rfl
theorem exec_region (o : Operands) (s : State) : exec (.region o) s = execRegion o s := rfl
theorem exec_yield (o : Operands) (s : State) : exec (.yield o) s = execYield o s := rfl
theorem exec_sleep (o : Operands) (s : State) : exec (.sleep o) s = execSleep o s := rfl
theorem exec_sleepExpiry (t : Nat) (g : Nat) (k : Nat) (s : State) : exec (.sleepExpiry t g k) s = execSleepExpiry t g k s := rfl
theorem exec_exit (o : Operands) (s : State) : exec (.exit o) s = execExit o s := rfl
theorem exec_trap (o : Operands) (s : State) : exec (.trap o) s = execTrap o s := rfl
theorem exec_bar (o : Operands) (s : State) : exec (.bar o) s = execBar o s := rfl
theorem exec_getid (o : Operands) (s : State) : exec (.getid o) s = execGetid o s := rfl
theorem exec_sfmt (o : Operands) (s : State) : exec (.sfmt o) s = execSfmt o s := rfl
theorem exec_smov (o : Operands) (s : State) : exec (.smov o) s = execSmov o s := rfl
theorem exec_sadd (o : Operands) (s : State) : exec (.sadd o) s = execSadd o s := rfl
theorem exec_ssub (o : Operands) (s : State) : exec (.ssub o) s = execSsub o s := rfl
theorem exec_smul (o : Operands) (s : State) : exec (.smul o) s = execSmul o s := rfl
theorem exec_smulhi (o : Operands) (s : State) : exec (.smulhi o) s = execSmulhi o s := rfl
theorem exec_smulhu (o : Operands) (s : State) : exec (.smulhu o) s = execSmulhu o s := rfl
theorem exec_sand (o : Operands) (s : State) : exec (.sand o) s = execSand o s := rfl
theorem exec_sor (o : Operands) (s : State) : exec (.sor o) s = execSor o s := rfl
theorem exec_sxor (o : Operands) (s : State) : exec (.sxor o) s = execSxor o s := rfl
theorem exec_sandn (o : Operands) (s : State) : exec (.sandn o) s = execSandn o s := rfl
theorem exec_sshl (o : Operands) (s : State) : exec (.sshl o) s = execSshl o s := rfl
theorem exec_sshr (o : Operands) (s : State) : exec (.sshr o) s = execSshr o s := rfl
theorem exec_ssra (o : Operands) (s : State) : exec (.ssra o) s = execSsra o s := rfl
theorem exec_smin (o : Operands) (s : State) : exec (.smin o) s = execSmin o s := rfl
theorem exec_smax (o : Operands) (s : State) : exec (.smax o) s = execSmax o s := rfl
theorem exec_sminu (o : Operands) (s : State) : exec (.sminu o) s = execSminu o s := rfl
theorem exec_smaxu (o : Operands) (s : State) : exec (.smaxu o) s = execSmaxu o s := rfl
theorem exec_scmp (o : Operands) (s : State) : exec (.scmp o) s = execScmp o s := rfl
theorem exec_ssel (o : Operands) (s : State) : exec (.ssel o) s = execSsel o s := rfl
theorem exec_sbfe (o : Operands) (s : State) : exec (.sbfe o) s = execSbfe o s := rfl
theorem exec_sbfi (o : Operands) (s : State) : exec (.sbfi o) s = execSbfi o s := rfl
theorem exec_sclz (o : Operands) (s : State) : exec (.sclz o) s = execSclz o s := rfl
theorem exec_spopc (o : Operands) (s : State) : exec (.spopc o) s = execSpopc o s := rfl
theorem exec_sff1 (o : Operands) (s : State) : exec (.sff1 o) s = execSff1 o s := rfl
theorem exec_sdivu (o : Operands) (s : State) : exec (.sdivu o) s = execSdivu o s := rfl
theorem exec_sremu (o : Operands) (s : State) : exec (.sremu o) s = execSremu o s := rfl
theorem exec_sbrev (o : Operands) (s : State) : exec (.sbrev o) s = execSbrev o s := rfl
theorem exec_sadd64 (o : Operands) (s : State) : exec (.sadd64 o) s = execSadd64 o s := rfl
theorem exec_ssub64 (o : Operands) (s : State) : exec (.ssub64 o) s = execSsub64 o s := rfl
theorem exec_smul64 (o : Operands) (s : State) : exec (.smul64 o) s = execSmul64 o s := rfl
theorem exec_sshl64 (o : Operands) (s : State) : exec (.sshl64 o) s = execSshl64 o s := rfl
theorem exec_sshr64 (o : Operands) (s : State) : exec (.sshr64 o) s = execSshr64 o s := rfl
theorem exec_scmp64 (o : Operands) (s : State) : exec (.scmp64 o) s = execScmp64 o s := rfl
theorem exec_smov64 (o : Operands) (s : State) : exec (.smov64 o) s = execSmov64 o s := rfl
theorem exec_msave (o : Operands) (s : State) : exec (.msave o) s = execMsave o s := rfl
theorem exec_mset (o : Operands) (s : State) : exec (.mset o) s = execMset o s := rfl
theorem exec_mnot (o : Operands) (s : State) : exec (.mnot o) s = execMnot o s := rfl
theorem exec_mcount (o : Operands) (s : State) : exec (.mcount o) s = execMcount o s := rfl
theorem exec_vmov (o : Operands) (s : State) : exec (.vmov o) s = execVmov o s := rfl
theorem exec_vadd (o : Operands) (s : State) : exec (.vadd o) s = execVadd o s := rfl
theorem exec_vsub (o : Operands) (s : State) : exec (.vsub o) s = execVsub o s := rfl
theorem exec_vmul (o : Operands) (s : State) : exec (.vmul o) s = execVmul o s := rfl
theorem exec_vmulhi (o : Operands) (s : State) : exec (.vmulhi o) s = execVmulhi o s := rfl
theorem exec_vmad (o : Operands) (s : State) : exec (.vmad o) s = execVmad o s := rfl
theorem exec_vand (o : Operands) (s : State) : exec (.vand o) s = execVand o s := rfl
theorem exec_vor (o : Operands) (s : State) : exec (.vor o) s = execVor o s := rfl
theorem exec_vxor (o : Operands) (s : State) : exec (.vxor o) s = execVxor o s := rfl
theorem exec_vshl (o : Operands) (s : State) : exec (.vshl o) s = execVshl o s := rfl
theorem exec_vshr (o : Operands) (s : State) : exec (.vshr o) s = execVshr o s := rfl
theorem exec_vsra (o : Operands) (s : State) : exec (.vsra o) s = execVsra o s := rfl
theorem exec_vmin (o : Operands) (s : State) : exec (.vmin o) s = execVmin o s := rfl
theorem exec_vmax (o : Operands) (s : State) : exec (.vmax o) s = execVmax o s := rfl
theorem exec_vcmp (o : Operands) (s : State) : exec (.vcmp o) s = execVcmp o s := rfl
theorem exec_vsel (o : Operands) (s : State) : exec (.vsel o) s = execVsel o s := rfl
theorem exec_vbfe (o : Operands) (s : State) : exec (.vbfe o) s = execVbfe o s := rfl
theorem exec_vbfi (o : Operands) (s : State) : exec (.vbfi o) s = execVbfi o s := rfl
theorem exec_vpopc (o : Operands) (s : State) : exec (.vpopc o) s = execVpopc o s := rfl
theorem exec_vclz (o : Operands) (s : State) : exec (.vclz o) s = execVclz o s := rfl
theorem exec_vaddc (o : Operands) (s : State) : exec (.vaddc o) s = execVaddc o s := rfl
theorem exec_vfadd (o : Operands) (s : State) : exec (.vfadd o) s = execVfadd o s := rfl
theorem exec_vfsub (o : Operands) (s : State) : exec (.vfsub o) s = execVfsub o s := rfl
theorem exec_vfmul (o : Operands) (s : State) : exec (.vfmul o) s = execVfmul o s := rfl
theorem exec_vfma (o : Operands) (s : State) : exec (.vfma o) s = execVfma o s := rfl
theorem exec_vfmin (o : Operands) (s : State) : exec (.vfmin o) s = execVfmin o s := rfl
theorem exec_vfmax (o : Operands) (s : State) : exec (.vfmax o) s = execVfmax o s := rfl
theorem exec_vfcmp (o : Operands) (s : State) : exec (.vfcmp o) s = execVfcmp o s := rfl
theorem exec_vfract (o : Operands) (s : State) : exec (.vfract o) s = execVfract o s := rfl
theorem exec_vfloor (o : Operands) (s : State) : exec (.vfloor o) s = execVfloor o s := rfl
theorem exec_vfceil (o : Operands) (s : State) : exec (.vfceil o) s = execVfceil o s := rfl
theorem exec_vfrnde (o : Operands) (s : State) : exec (.vfrnde o) s = execVfrnde o s := rfl
theorem exec_vftrunc (o : Operands) (s : State) : exec (.vftrunc o) s = execVftrunc o s := rfl
theorem exec_vfdot2 (o : Operands) (s : State) : exec (.vfdot2 o) s = execVfdot2 o s := rfl
theorem exec_vfclass (o : Operands) (s : State) : exec (.vfclass o) s = execVfclass o s := rfl
theorem exec_vrcp (o : Operands) (s : State) : exec (.vrcp o) s = execVrcp o s := rfl
theorem exec_vrsq (o : Operands) (s : State) : exec (.vrsq o) s = execVrsq o s := rfl
theorem exec_vsqrt (o : Operands) (s : State) : exec (.vsqrt o) s = execVsqrt o s := rfl
theorem exec_vexp2 (o : Operands) (s : State) : exec (.vexp2 o) s = execVexp2 o s := rfl
theorem exec_vlog2 (o : Operands) (s : State) : exec (.vlog2 o) s = execVlog2 o s := rfl
theorem exec_vsin (o : Operands) (s : State) : exec (.vsin o) s = execVsin o s := rfl
theorem exec_vcos (o : Operands) (s : State) : exec (.vcos o) s = execVcos o s := rfl
theorem exec_vdiv (o : Operands) (s : State) : exec (.vdiv o) s = execVdiv o s := rfl
theorem exec_vcvt (o : Operands) (s : State) : exec (.vcvt o) s = execVcvt o s := rfl
theorem exec_vpack (o : Operands) (s : State) : exec (.vpack o) s = execVpack o s := rfl
theorem exec_vunpack (o : Operands) (s : State) : exec (.vunpack o) s = execVunpack o s := rfl
theorem exec_vquant (o : Operands) (s : State) : exec (.vquant o) s = execVquant o s := rfl
theorem exec_vdeq (o : Operands) (s : State) : exec (.vdeq o) s = execVdeq o s := rfl
theorem exec_vscale (o : Operands) (s : State) : exec (.vscale o) s = execVscale o s := rfl
theorem exec_qrange (o : Operands) (s : State) : exec (.qrange o) s = execQrange o s := rfl
theorem exec_vlane (o : Operands) (s : State) : exec (.vlane o) s = execVlane o s := rfl
theorem exec_vbcast (o : Operands) (s : State) : exec (.vbcast o) s = execVbcast o s := rfl
theorem exec_vshuf (o : Operands) (s : State) : exec (.vshuf o) s = execVshuf o s := rfl
theorem exec_vrot (o : Operands) (s : State) : exec (.vrot o) s = execVrot o s := rfl
theorem exec_vswz (o : Operands) (s : State) : exec (.vswz o) s = execVswz o s := rfl
theorem exec_vreduce (o : Operands) (s : State) : exec (.vreduce o) s = execVreduce o s := rfl
theorem exec_vscan (o : Operands) (s : State) : exec (.vscan o) s = execVscan o s := rfl
theorem exec_vfirst (o : Operands) (s : State) : exec (.vfirst o) s = execVfirst o s := rfl
theorem exec_vballot (o : Operands) (s : State) : exec (.vballot o) s = execVballot o s := rfl
theorem exec_vreadl (o : Operands) (s : State) : exec (.vreadl o) s = execVreadl o s := rfl
theorem exec_vwritel (o : Operands) (s : State) : exec (.vwritel o) s = execVwritel o s := rfl
theorem exec_vunif (o : Operands) (s : State) : exec (.vunif o) s = execVunif o s := rfl
theorem exec_vld (o : Operands) (s : State) : exec (.vld o) s = execVld o s := rfl
theorem exec_vst (o : Operands) (s : State) : exec (.vst o) s = execVst o s := rfl
theorem exec_vstSequential (o : Operands) (s : State) : exec (.vstSequential o) s = execVstSequential o s := rfl
theorem exec_vldx (o : Operands) (s : State) : exec (.vldx o) s = execVldx o s := rfl
theorem exec_vstx (o : Operands) (s : State) : exec (.vstx o) s = execVstx o s := rfl
theorem exec_sld (o : Operands) (s : State) : exec (.sld o) s = execSld o s := rfl
theorem exec_sst (o : Operands) (s : State) : exec (.sst o) s = execSst o s := rfl
theorem exec_vpref (o : Operands) (s : State) : exec (.vpref o) s = execVpref o s := rfl
theorem exec_ldrec (o : Operands) (s : State) : exec (.ldrec o) s = execLdrec o s := rfl
theorem exec_vlds (o : Operands) (s : State) : exec (.vlds o) s = execVlds o s := rfl
theorem exec_vsts (o : Operands) (s : State) : exec (.vsts o) s = execVsts o s := rfl
theorem exec_slds (o : Operands) (s : State) : exec (.slds o) s = execSlds o s := rfl
theorem exec_ssts (o : Operands) (s : State) : exec (.ssts o) s = execSsts o s := rfl
theorem exec_acczero (o : Operands) (s : State) : exec (.acczero o) s = execAcczero o s := rfl
theorem exec_accrd (o : Operands) (s : State) : exec (.accrd o) s = execAccrd o s := rfl
theorem exec_accwr (o : Operands) (s : State) : exec (.accwr o) s = execAccwr o s := rfl
theorem exec_accst (o : Operands) (s : State) : exec (.accst o) s = execAccst o s := rfl
theorem exec_accld (o : Operands) (s : State) : exec (.accld o) s = execAccld o s := rfl
theorem exec_cbld (o : Operands) (s : State) : exec (.cbld o) s = execCbld o s := rfl
theorem exec_vatom (o : Operands) (s : State) : exec (.vatom o) s = execVatom o s := rfl
theorem exec_vatoms (o : Operands) (s : State) : exec (.vatoms o) s = execVatoms o s := rfl
theorem exec_satom (o : Operands) (s : State) : exec (.satom o) s = execSatom o s := rfl
theorem exec_fence (o : Operands) (s : State) : exec (.fence o) s = execFence o s := rfl
theorem exec_fenceSmp (o : Operands) (s : State) : exec (.fenceSmp o) s = execFenceSmp o s := rfl
theorem exec_vsample (o : Operands) (s : State) : exec (.vsample o) s = execVsample o s := rfl
theorem exec_vgather4 (o : Operands) (s : State) : exec (.vgather4 o) s = execVgather4 o s := rfl
theorem exec_vsamplel (o : Operands) (s : State) : exec (.vsamplel o) s = execVsamplel o s := rfl
theorem exec_samplerReturn (t : Nat) (g : Nat) (r : Nat) (s : State) : exec (.samplerReturn t g r) s = execSamplerReturn t g r s := rfl
theorem exec_tcopy (o : Operands) (s : State) : exec (.tcopy o) s = execTcopy o s := rfl
theorem exec_tcopyx (o : Operands) (s : State) : exec (.tcopyx o) s = execTcopyx o s := rfl
theorem exec_tpeer (o : Operands) (s : State) : exec (.tpeer o) s = execTpeer o s := rfl
theorem exec_copyBytesLand (copy : Nat) (s : State) : exec (.copyBytesLand copy) s = execCopyBytesLand copy s := rfl
theorem exec_copyComplete (copy : Nat) (s : State) : exec (.copyComplete copy) s = execCopyComplete copy s := rfl
theorem exec_barinit (o : Operands) (s : State) : exec (.barinit o) s = execBarinit o s := rfl
theorem exec_barexp (o : Operands) (s : State) : exec (.barexp o) s = execBarexp o s := rfl
theorem exec_bararv (o : Operands) (s : State) : exec (.bararv o) s = execBararv o s := rfl
theorem exec_bwait (o : Operands) (s : State) : exec (.bwait o) s = execBwait o s := rfl
theorem exec_btest (o : Operands) (s : State) : exec (.btest o) s = execBtest o s := rfl
theorem exec_tlwait (o : Operands) (s : State) : exec (.tlwait o) s = execTlwait o s := rfl
theorem exec_tlsig (o : Operands) (s : State) : exec (.tlsig o) s = execTlsig o s := rfl
theorem exec_tlrd (o : Operands) (s : State) : exec (.tlrd o) s = execTlrd o s := rfl
theorem exec_mbpost (o : Operands) (s : State) : exec (.mbpost o) s = execMbpost o s := rfl
theorem exec_launch (o : Operands) (s : State) : exec (.launch o) s = execLaunch o s := rfl
theorem exec_satrd (o : Operands) (s : State) : exec (.satrd o) s = execSatrd o s := rfl
theorem exec_mjob (o : Operands) (s : State) : exec (.mjob o) s = execMjob o s := rfl
theorem exec_commit (o : Operands) (s : State) : exec (.commit o) s = execCommit o s := rfl
theorem exec_mwait (o : Operands) (s : State) : exec (.mwait o) s = execMwait o s := rfl
theorem exec_mquery (o : Operands) (s : State) : exec (.mquery o) s = execMquery o s := rfl
theorem exec_jobStepCommit (core : Nat) (s : State) : exec (.jobStepCommit core) s = execJobStepCommit core s := rfl
theorem exec_tagalloc (o : Operands) (s : State) : exec (.tagalloc o) s = execTagalloc o s := rfl
theorem exec_tagset (o : Operands) (s : State) : exec (.tagset o) s = execTagset o s := rfl
theorem exec_tagfree (o : Operands) (s : State) : exec (.tagfree o) s = execTagfree o s := rfl
theorem exec_rvsend (o : Operands) (s : State) : exec (.rvsend o) s = execRvsend o s := rfl
theorem exec_rvsendg (o : Operands) (s : State) : exec (.rvsendg o) s = execRvsendg o s := rfl
theorem exec_rendezvousArrival (send : Nat) (s : State) : exec (.rendezvousArrival send) s = execRendezvousArrival send s := rfl
theorem exec_rendezvousTimeout (ctx : Nat) (index : Nat) (s : State) : exec (.rendezvousTimeout ctx index) s = execRendezvousTimeout ctx index s := rfl
theorem exec_rendezvousDelivery (entry : Nat) (dest : Nat) (s : State) : exec (.rendezvousDelivery entry dest) s = execRendezvousDelivery entry dest s := rfl
theorem exec_gdone (o : Operands) (s : State) : exec (.gdone o) s = execGdone o s := rfl
theorem exec_gfail (o : Operands) (s : State) : exec (.gfail o) s = execGfail o s := rfl
theorem exec_prblk (o : Operands) (s : State) : exec (.prblk o) s = execPrblk o s := rfl
theorem exec_previct (o : Operands) (s : State) : exec (.previct o) s = execPrevict o s := rfl
theorem exec_proceduralTouch (touch : Nat) (s : State) : exec (.proceduralTouch touch) s = execProceduralTouch touch s := rfl
theorem exec_blockUnpin (ctx : Nat) (block : Nat) (s : State) : exec (.blockUnpin ctx block) s = execBlockUnpin ctx block s := rfl
theorem exec_generatorAttemptEnd (ctx : Nat) (block : Nat) (s : State) : exec (.generatorAttemptEnd ctx block) s = execGeneratorAttemptEnd ctx block s := rfl
theorem exec_sysrd (o : Operands) (s : State) : exec (.sysrd o) s = execSysrd o s := rfl
theorem exec_syswr (o : Operands) (s : State) : exec (.syswr o) s = execSyswr o s := rfl
theorem exec_apush (o : Operands) (s : State) : exec (.apush o) s = execApush o s := rfl
theorem exec_hentryWrite (o : Operands) (s : State) : exec (.hentryWrite o) s = execHentryWrite o s := rfl
theorem exec_tret (o : Operands) (s : State) : exec (.tret o) s = execTret o s := rfl
theorem exec_tretOff (o : Operands) (s : State) : exec (.tretOff o) s = execTretOff o s := rfl
theorem exec_pmap (o : Operands) (s : State) : exec (.pmap o) s = execPmap o s := rfl
theorem exec_punmap (o : Operands) (s : State) : exec (.punmap o) s = execPunmap o s := rfl
theorem exec_punmapRet (o : Operands) (s : State) : exec (.punmapRet o) s = execPunmapRet o s := rfl
theorem exec_tlbinvAll (o : Operands) (s : State) : exec (.tlbinvAll o) s = execTlbinvAll o s := rfl
theorem exec_tlbinvPage (o : Operands) (s : State) : exec (.tlbinvPage o) s = execTlbinvPage o s := rfl
theorem exec_tlbinvRange (o : Operands) (s : State) : exec (.tlbinvRange o) s = execTlbinvRange o s := rfl
theorem exec_poolget (o : Operands) (s : State) : exec (.poolget o) s = execPoolget o s := rfl
theorem exec_haltctx (o : Operands) (s : State) : exec (.haltctx o) s = execHaltctx o s := rfl
theorem exec_haltctxRes (o : Operands) (s : State) : exec (.haltctxRes o) s = execHaltctxRes o s := rfl
theorem exec_mbreg (o : Operands) (s : State) : exec (.mbreg o) s = execMbreg o s := rfl
theorem exec_prdecl (o : Operands) (s : State) : exec (.prdecl o) s = execPrdecl o s := rfl
theorem exec_prdeclDel (o : Operands) (s : State) : exec (.prdeclDel o) s = execPrdeclDel o s := rfl
theorem exec_tagpool (o : Operands) (s : State) : exec (.tagpool o) s = execTagpool o s := rfl
theorem exec_poolHeader (w : BitVec 30) (s : State) : exec (.poolHeader w) s = execPoolHeader w s := rfl
theorem exec_storeQueueDrain (t : Nat) (entry : QueuePlace) (s : State) : exec (.storeQueueDrain t entry) s = execStoreQueueDrain t entry s := rfl
theorem exec_loadReturn (t : Nat) (g : Nat) (r : Nat) (s : State) : exec (.loadReturn t g r) s = execLoadReturn t g r s := rfl
theorem exec_l2Fill (line : Nat) (victim : Option Nat) (read : FillRead) (s : State) : exec (.l2Fill line victim read) s = execL2Fill line victim read s := rfl
theorem exec_mailboxMessage (msg : Nat) (s : State) : exec (.mailboxMessage msg) s = execMailboxMessage msg s := rfl
theorem exec_recordDelivery (ctx : Nat) (mb : Nat) (s : State) : exec (.recordDelivery ctx mb) s = execRecordDelivery ctx mb s := rfl
theorem exec_teamStart (t : Nat) (s : State) : exec (.teamStart t) s = execTeamStart t s := rfl
theorem exec_teamRetire (t : Nat) (s : State) : exec (.teamRetire t) s = execTeamRetire t s := rfl
theorem exec_priorityPromotion (t : Nat) (g : Nat) (s : State) : exec (.priorityPromotion t g) s = execPriorityPromotion t g s := rfl
theorem exec_waitWatchdog (t : Nat) (g : Nat) (k : Nat) (s : State) : exec (.waitWatchdog t g k) s = execWaitWatchdog t g k s := rfl
theorem exec_starvedLanes (t : Nat) (g : Nat) (k : Nat) (s : State) : exec (.starvedLanes t g k) s = execStarvedLanes t g k s := rfl
theorem exec_residencyReportOverdue (ctx : Nat) (launch : Nat) (s : State) : exec (.residencyReportOverdue ctx launch) s = execResidencyReportOverdue ctx launch s := rfl
theorem exec_hostSend (flow : Flow) (ctx : Nat) (mb : Nat) (bytes : List Byte) (s : State) : exec (.hostSend flow ctx mb bytes) s = execHostSend flow ctx mb bytes s := rfl
theorem exec_hostWrite (flow : Flow) (ctx : Nat) (offset : Nat) (tl : Nat) (packets : Packets) (s : State) : exec (.hostWrite flow ctx offset tl packets) s = execHostWrite flow ctx offset tl packets s := rfl
theorem exec_hostRead (flow : Flow) (ctx : Nat) (offset : Nat) (n : Nat) (s : State) : exec (.hostRead flow ctx offset n) s = execHostRead flow ctx offset n s := rfl
theorem exec_hostAcknowledgement (msg : Nat) (s : State) : exec (.hostAcknowledgement msg) s = execHostAcknowledgement msg s := rfl
theorem exec_getVersion (session : Nat) (s : State) : exec (.getVersion session) s = execGetVersion session s := rfl
theorem exec_getCapabilities (session : Nat) (s : State) : exec (.getCapabilities session) s = execGetCapabilities session s := rfl
theorem exec_negotiateAlgorithms (session : Nat) (s : State) : exec (.negotiateAlgorithms session) s = execNegotiateAlgorithms session s := rfl
theorem exec_keyExchange (session : Nat) (s : State) : exec (.keyExchange session) s = execKeyExchange session s := rfl
theorem exec_finish (session : Nat) (s : State) : exec (.finish session) s = execFinish session s := rfl
theorem exec_keyUpdate (session : Nat) (s : State) : exec (.keyUpdate session) s = execKeyUpdate session s := rfl
theorem exec_endSession (session : Nat) (s : State) : exec (.endSession session) s = execEndSession session s := rfl
theorem exec_createContext (r : CreateRequest) (s : State) : exec (.createContext r) s = execCreateContext r s := rfl
theorem exec_destroyContext (session : Nat) (ctx : Nat) (s : State) : exec (.destroyContext session ctx) s = execDestroyContext session ctx s := rfl
theorem exec_getTelemetry (session : Nat) (s : State) : exec (.getTelemetry session) s = execGetTelemetry session s := rfl
theorem exec_vacateCores (session : Nat) (mask : BitVec 256) (count : Nat) (s : State) : exec (.vacateCores session mask count) s = execVacateCores session mask count s := rfl
theorem exec_restoreCores (session : Nat) (mask : BitVec 256) (s : State) : exec (.restoreCores session mask) s = execRestoreCores session mask s := rfl
theorem exec_bindEndpoint (session : Nat) (ctx : Nat) (s : State) : exec (.bindEndpoint session ctx) s = execBindEndpoint session ctx s := rfl
theorem exec_restart (session : Nat) (s : State) : exec (.restart session) s = execRestart session s := rfl
theorem exec_updateFirmware (session : Nat) (image : List Byte) (rsaOk : Bool) (slhOk : Bool) (s : State) : exec (.updateFirmware session image rsaOk slhOk) s = execUpdateFirmware session image rsaOk slhOk s := rfl
theorem exec_sessionHeartbeatExpiry (session : Nat) (s : State) : exec (.sessionHeartbeatExpiry session) s = execSessionHeartbeatExpiry session s := rfl
theorem exec_peerRequest (r : PeerRequestIn) (s : State) : exec (.peerRequest r) s = execPeerRequest r s := rfl
theorem exec_peerResponse (req : Nat) (bytes : List Byte) (code : Nat) (s : State) : exec (.peerResponse req bytes code) s = execPeerResponse req bytes code s := rfl
theorem exec_peerRequestTimeout (req : Nat) (s : State) : exec (.peerRequestTimeout req) s = execPeerRequestTimeout req s := rfl
theorem exec_ualinkLaneFail (port : Nat) (lane : Nat) (s : State) : exec (.ualinkLaneFail port lane) s = execUalinkLaneFail port lane s := rfl
theorem exec_bridgeFlitFail (dir : Nat) (bulk : Bool) (retries : Nat) (s : State) : exec (.bridgeFlitFail dir bulk retries) s = execBridgeFlitFail dir bulk retries s := rfl
theorem exec_powerThrottle (sensors : SensorReading) (s : State) : exec (.powerThrottle sensors) s = execPowerThrottle sensors s := rfl
theorem exec_powerOnReset (steps : List StepResult) (id : BitVec 10) (around : Surroundings) (s : State) : exec (.powerOnReset steps id around) s = execPowerOnReset steps id around s := rfl
theorem exec_teamSave (t : Nat) (s : State) : exec (.teamSave t) s = execTeamSave t s := rfl
theorem exec_contextDrainEnd (ctx : Nat) (s : State) : exec (.contextDrainEnd ctx) s = execContextDrainEnd ctx s := rfl
theorem exec_pathChange (device : Nat) (pcls : BitVec 2) (hops : BitVec 4) (s : State) : exec (.pathChange device pcls hops) s = execPathChange device pcls hops s := rfl
theorem exec_getDigests (session : Nat) (s : State) : exec (.getDigests session) s = execGetDigests session s := rfl
theorem exec_getCertificate (session : Nat) (s : State) : exec (.getCertificate session) s = execGetCertificate session s := rfl
theorem exec_challenge (session : Nat) (s : State) : exec (.challenge session) s = execChallenge session s := rfl
theorem exec_getMeasurements (session : Nat) (s : State) : exec (.getMeasurements session) s = execGetMeasurements session s := rfl
theorem exec_heartbeat (session : Nat) (s : State) : exec (.heartbeat session) s = execHeartbeat session s := rfl
theorem exec_resetDegradation (session : Nat) (s : State) : exec (.resetDegradation session) s = execResetDegradation session s := rfl
theorem exec_portKeyRefresh (port : Nat) (ok : Bool) (s : State) : exec (.portKeyRefresh port ok) s = execPortKeyRefresh port ok s := rfl
theorem exec_rowDisturbanceAlert (die : Nat) (s : State) : exec (.rowDisturbanceAlert die) s = execRowDisturbanceAlert die s := rfl
theorem exec_filler (s : State) : exec .filler s = execFiller s := rfl
theorem exec_teamPlacement (s : State) : exec .teamPlacement s = execTeamPlacement s := rfl
theorem exec_ethernetLinkDown (s : State) : exec .ethernetLinkDown s = execEthernetLinkDown s := rfl
theorem exec_ethernetLinkUp (s : State) : exec .ethernetLinkUp s = execEthernetLinkUp s := rfl
theorem exec_ethernetLossOfLock (s : State) : exec .ethernetLossOfLock s = execEthernetLossOfLock s := rfl

end Sys2Proof.Machine
end

