-- ==== Sys2Proof/Laws/Maps.lean ====
section
/-! SUPPORT. Laws of the maps: what is read after a write, and that every operation keeps the canonical form. -/

namespace Sys2Proof.Machine

variable {α : Type}

@[simp] theorem mget_mput_same (m : Map α) (k : Nat) (v : α) : mget (mput m k v) k = some v := by
  induction m with
  | nil => simp [mput, mget]
  | cons e r ih =>
    obtain ⟨j, w⟩ := e
    simp only [mput]
    split
    · simp [mget]
    · split <;> simp_all [mget]

theorem mget_mput_other (m : Map α) {k k' : Nat} (v : α) (h : k' ≠ k) : mget (mput m k v) k' = mget m k' := by
  induction m with
  | nil => simp [mput, mget, Ne.symm h]
  | cons e r ih =>
    obtain ⟨j, w⟩ := e
    simp only [mput]
    split
    · next hj => subst hj; simp [mget, Ne.symm h]
    · split <;> simp_all [mget, Ne.symm h]

theorem mget_mput (m : Map α) (k k' : Nat) (v : α) : mget (mput m k v) k' = if k' = k then some v else mget m k' := by
  split
  · next h => subst h; simp
  · next h => exact mget_mput_other m v h

@[simp] theorem mget_mdel_same (m : Map α) (k : Nat) : mget (mdel m k) k = none := by
  induction m with
  | nil => rfl
  | cons e r ih =>
    obtain ⟨j, w⟩ := e
    simp only [mdel]
    split <;> simp_all [mget]

theorem mget_mdel_other (m : Map α) {k k' : Nat} (h : k' ≠ k) : mget (mdel m k) k' = mget m k' := by
  induction m with
  | nil => rfl
  | cons e r ih =>
    obtain ⟨j, w⟩ := e
    simp only [mdel]
    split
    · next hj => subst hj; simp [mget, Ne.symm h, ih]
    · simp_all [mget]

theorem mgetD_mputD [DecidableEq α] (m : Map α) (d : α) (k k' : Nat) (v : α) :
    mgetD (mputD m d k v) d k' = if k' = k then v else mgetD m d k' := by
  unfold mgetD mputD
  split
  · next h => subst h; split
              · next h => subst h; simp
              · next h => rw [mget_mdel_other m h]
  · rw [mget_mput]; split <;> rfl

theorem mget_mmod (m : Map α) (k k' : Nat) (f : α → α) :
    mget (mmod m k f) k' = if k' = k then (mget m k).map f else mget m k' := by
  unfold mmod
  split
  · next v h => rw [mget_mput]; split <;> simp [h]
  · next h => split
              · next e => subst e; simp [h]
              · rfl

/-! ### Lists -/

theorem lmod_getElem? (l : List α) (i j : Nat) (f : α → α) : (lmod l i f)[j]? = if j = i then l[i]?.map f else l[j]? := by
  induction l generalizing i j with
  | nil => simp [lmod]
  | cons x r ih =>
    cases i with
    | zero => cases j <;> simp [lmod]
    | succ i => cases j with
      | zero => simp [lmod]
      | succ j => simp [lmod, ih]

@[simp] theorem lmod_length (l : List α) (i : Nat) (f : α → α) : (lmod l i f).length = l.length := by
  induction l generalizing i with
  | nil => rfl
  | cons x r ih => cases i <;> simp [lmod, ih]

theorem lmod_lmod (l : List α) (i : Nat) (f g : α → α) : lmod (lmod l i f) i g = lmod l i (fun x => g (f x)) := by
  induction l generalizing i with
  | nil => rfl
  | cons x r ih => cases i <;> simp [lmod, ih]

theorem lmod_congr (l : List α) (i : Nat) (f g : α → α) (h : ∀ x, l[i]? = some x → f x = g x) : lmod l i f = lmod l i g := by
  induction l generalizing i with
  | nil => rfl
  | cons x r ih => cases i with
    | zero => simp [lmod, h x rfl]
    | succ i => simp [lmod, ih i (fun y hy => h y (by simpa using hy))]

/-! ### The canonical form -/

theorem risingFrom_head {lo : Option Nat} {j : Nat} {w : α} {r : Map α} :
    risingFrom lo ((j, w) :: r) = true ↔ (∀ l, lo = some l → l < j) ∧ risingFrom (some j) r = true := by
  cases lo <;> simp [risingFrom]

theorem risingFrom_weaken {lo lo' : Option Nat} {m : Map α} (h : risingFrom lo m = true) (hl : ∀ l', lo' = some l' → ∃ l, lo = some l ∧ l' ≤ l) :
    risingFrom lo' m = true := by
  cases m with
  | nil => rfl
  | cons e r =>
    obtain ⟨j, w⟩ := e
    rw [risingFrom_head] at h ⊢
    exact ⟨fun l' e' => by obtain ⟨l, e, hle⟩ := hl l' e'; have := h.1 l e; omega, h.2⟩

theorem risingFrom_mput {lo : Option Nat} {m : Map α} (k : Nat) (v : α) (h : risingFrom lo m = true) (hk : ∀ l, lo = some l → l < k) :
    risingFrom lo (mput m k v) = true := by
  induction m generalizing lo with
  | nil => rw [mput, risingFrom_head]; exact ⟨hk, rfl⟩
  | cons e r ih =>
    obtain ⟨j, w⟩ := e
    rw [risingFrom_head] at h
    simp only [mput]
    split
    · next hj => subst hj; rw [risingFrom_head]; exact h
    · split
      · next hlt =>
        rw [risingFrom_head, risingFrom_head]
        exact ⟨hk, fun l e => by cases e; exact hlt, h.2⟩
      · next hj hlt =>
        rw [risingFrom_head]
        exact ⟨h.1, ih h.2 (fun l e => by cases e; omega)⟩

theorem risingFrom_mdel {lo : Option Nat} {m : Map α} (k : Nat) (h : risingFrom lo m = true) : risingFrom lo (mdel m k) = true := by
  induction m generalizing lo with
  | nil => rfl
  | cons e r ih =>
    obtain ⟨j, w⟩ := e
    rw [risingFrom_head] at h
    simp only [mdel]
    split
    · exact ih (risingFrom_weaken h.2 (fun l' e => ⟨j, rfl, by have := h.1 l' e; omega⟩))
    · rw [risingFrom_head]; exact ⟨h.1, ih h.2⟩

theorem mwf_mput {m : Map α} (k : Nat) (v : α) (h : mwf m = true) : mwf (mput m k v) = true :=
  risingFrom_mput k v h (fun _ e => by cases e)

theorem mwf_mdel {m : Map α} (k : Nat) (h : mwf m = true) : mwf (mdel m k) = true := risingFrom_mdel k h

theorem all_mput {m : Map α} {p : Nat × α → Bool} (k : Nat) (v : α) (h : m.all p = true) (hv : p (k, v) = true) : (mput m k v).all p = true := by
  induction m with
  | nil => simpa [mput] using hv
  | cons e r ih =>
    obtain ⟨j, w⟩ := e
    simp only [List.all_cons, Bool.and_eq_true] at h
    simp only [mput]
    split
    · simp only [List.all_cons, hv, h.2, Bool.and_self]
    · split <;> simp_all

theorem all_mdel {m : Map α} {p : Nat × α → Bool} (k : Nat) (h : m.all p = true) : (mdel m k).all p = true := by
  induction m with
  | nil => rfl
  | cons e r ih =>
    obtain ⟨j, w⟩ := e
    simp only [List.all_cons, Bool.and_eq_true] at h
    simp only [mdel]
    split <;> simp_all

theorem mwfD_mputD [DecidableEq α] {d : α} {m : Map α} (k : Nat) (v : α) (h : mwfD d m = true) : mwfD d (mputD m d k v) = true := by
  simp only [mwfD, Bool.and_eq_true] at h ⊢
  unfold mputD
  split
  · exact ⟨mwf_mdel k h.1, all_mdel k h.2⟩
  · next hv => exact ⟨mwf_mput k v h.1, all_mput k v h.2 (by simpa using hv)⟩

/-! ### HBM -/

/-- A byte reads as what was last written there. -/
theorem readByte_writeByte (m : Memory) (a b : Nat) (v : Byte) :
    readByte (writeByte m a v) b = if b = a then v else readByte m b := mgetD_mputD m memDefault a b v

theorem wf_writeByte {m : Memory} (a : Nat) (v : Byte) (h : Memory.wf m = true) : Memory.wf (writeByte m a v) = true :=
  mwfD_mputD a v h

theorem wf_writeBytes {m : Memory} (a : Nat) (bs : List Byte) (h : Memory.wf m = true) : Memory.wf (writeBytes m a bs) = true := by
  induction bs generalizing m a with
  | nil => exact h
  | cons b r ih => exact ih (a + 1) (wf_writeByte a b h)

theorem wf_foldl_writeByte {β : Type} (f : β → Nat) (g : β → Byte) (bs : List β) {m : Memory} (h : Memory.wf m = true) :
    Memory.wf (bs.foldl (fun m b => writeByte m (f b) (g b)) m) = true := by
  induction bs generalizing m with
  | nil => exact h
  | cons b r ih => exact ih (wf_writeByte (f b) (g b) h)

end Sys2Proof.Machine
end

