-- ==== Sys2Proof/Laws/State.lean ====
section
/-! SUPPORT. One lemma per field and update: what the updates of Ops.lean leave as it was. -/

namespace Sys2Proof.Machine

/-! `modTeam` -/
@[simp] theorem modTeam_cycle (s : State) (t : Nat) (f : Team → Team) : (modTeam s t f).cycle = s.cycle := rfl
@[simp] theorem modTeam_l2cycle (s : State) (t : Nat) (f : Team → Team) : (modTeam s t f).l2cycle = s.l2cycle := rfl
@[simp] theorem modTeam_l2part (s : State) (t : Nat) (f : Team → Team) : (modTeam s t f).l2part = s.l2part := rfl
@[simp] theorem modTeam_mem (s : State) (t : Nat) (f : Team → Team) : (modTeam s t f).mem = s.mem := rfl
@[simp] theorem modTeam_lineKey (s : State) (t : Nat) (f : Team → Team) : (modTeam s t f).lineKey = s.lineKey := rfl
@[simp] theorem modTeam_journal (s : State) (t : Nat) (f : Team → Team) : (modTeam s t f).journal = s.journal := rfl
@[simp] theorem modTeam_owner (s : State) (t : Nat) (f : Team → Team) : (modTeam s t f).owner = s.owner := rfl
@[simp] theorem modTeam_withheld (s : State) (t : Nat) (f : Team → Team) : (modTeam s t f).withheld = s.withheld := rfl
@[simp] theorem modTeam_l2 (s : State) (t : Nat) (f : Team → Team) : (modTeam s t f).l2 = s.l2 := rfl
@[simp] theorem modTeam_badLines (s : State) (t : Nat) (f : Team → Team) : (modTeam s t f).badLines = s.badLines := rfl
@[simp] theorem modTeam_lost (s : State) (t : Nat) (f : Team → Team) : (modTeam s t f).lost = s.lost := rfl
@[simp] theorem modTeam_cores (s : State) (t : Nat) (f : Team → Team) : (modTeam s t f).cores = s.cores := rfl
@[simp] theorem modTeam_ctxs (s : State) (t : Nat) (f : Team → Team) : (modTeam s t f).ctxs = s.ctxs := rfl
@[simp] theorem modTeam_grids (s : State) (t : Nat) (f : Team → Team) : (modTeam s t f).grids = s.grids := rfl
@[simp] theorem modTeam_saved (s : State) (t : Nat) (f : Team → Team) : (modTeam s t f).saved = s.saved := rfl
@[simp] theorem modTeam_gridQueue (s : State) (t : Nat) (f : Team → Team) : (modTeam s t f).gridQueue = s.gridQueue := rfl
@[simp] theorem modTeam_sends (s : State) (t : Nat) (f : Team → Team) : (modTeam s t f).sends = s.sends := rfl
@[simp] theorem modTeam_entries (s : State) (t : Nat) (f : Team → Team) : (modTeam s t f).entries = s.entries := rfl
@[simp] theorem modTeam_touches (s : State) (t : Nat) (f : Team → Team) : (modTeam s t f).touches = s.touches := rfl
@[simp] theorem modTeam_hostOps (s : State) (t : Nat) (f : Team → Team) : (modTeam s t f).hostOps = s.hostOps := rfl
@[simp] theorem modTeam_peerReqs (s : State) (t : Nat) (f : Team → Team) : (modTeam s t f).peerReqs = s.peerReqs := rfl
@[simp] theorem modTeam_msgs (s : State) (t : Nat) (f : Team → Team) : (modTeam s t f).msgs = s.msgs := rfl
@[simp] theorem modTeam_outbox (s : State) (t : Nat) (f : Team → Team) : (modTeam s t f).outbox = s.outbox := rfl
@[simp] theorem modTeam_vacates (s : State) (t : Nat) (f : Team → Team) : (modTeam s t f).vacates = s.vacates := rfl
@[simp] theorem modTeam_deviceId (s : State) (t : Nat) (f : Team → Team) : (modTeam s t f).deviceId = s.deviceId := rfl
@[simp] theorem modTeam_hops (s : State) (t : Nat) (f : Team → Team) : (modTeam s t f).hops = s.hops := rfl
@[simp] theorem modTeam_octetOff (s : State) (t : Nat) (f : Team → Team) : (modTeam s t f).octetOff = s.octetOff := rfl
@[simp] theorem modTeam_ports (s : State) (t : Nat) (f : Team → Team) : (modTeam s t f).ports = s.ports := rfl
@[simp] theorem modTeam_bridge (s : State) (t : Nat) (f : Team → Team) : (modTeam s t f).bridge = s.bridge := rfl
@[simp] theorem modTeam_eth (s : State) (t : Nat) (f : Team → Team) : (modTeam s t f).eth = s.eth := rfl
@[simp] theorem modTeam_sessions (s : State) (t : Nat) (f : Team → Team) : (modTeam s t f).sessions = s.sessions := rfl
@[simp] theorem modTeam_boot (s : State) (t : Nat) (f : Team → Team) : (modTeam s t f).boot = s.boot := rfl
@[simp] theorem modTeam_tele (s : State) (t : Nat) (f : Team → Team) : (modTeam s t f).tele = s.tele := rfl
@[simp] theorem modTeam_nextId (s : State) (t : Nat) (f : Team → Team) : (modTeam s t f).nextId = s.nextId := rfl
@[simp] theorem modTeam_cur (s : State) (t : Nat) (f : Team → Team) : (modTeam s t f).cur = s.cur := rfl
@[simp] theorem modTeam_agenda (s : State) (t : Nat) (f : Team → Team) : (modTeam s t f).agenda = s.agenda := rfl
@[simp] theorem modTeam_putOff (s : State) (t : Nat) (f : Team → Team) : (modTeam s t f).putOff = s.putOff := rfl

/-! `modGroup` -/
@[simp] theorem modGroup_cycle (s : State) (t g : Nat) (f : Group → Group) : (modGroup s t g f).cycle = s.cycle := rfl
@[simp] theorem modGroup_l2cycle (s : State) (t g : Nat) (f : Group → Group) : (modGroup s t g f).l2cycle = s.l2cycle := rfl
@[simp] theorem modGroup_l2part (s : State) (t g : Nat) (f : Group → Group) : (modGroup s t g f).l2part = s.l2part := rfl
@[simp] theorem modGroup_mem (s : State) (t g : Nat) (f : Group → Group) : (modGroup s t g f).mem = s.mem := rfl
@[simp] theorem modGroup_lineKey (s : State) (t g : Nat) (f : Group → Group) : (modGroup s t g f).lineKey = s.lineKey := rfl
@[simp] theorem modGroup_journal (s : State) (t g : Nat) (f : Group → Group) : (modGroup s t g f).journal = s.journal := rfl
@[simp] theorem modGroup_owner (s : State) (t g : Nat) (f : Group → Group) : (modGroup s t g f).owner = s.owner := rfl
@[simp] theorem modGroup_withheld (s : State) (t g : Nat) (f : Group → Group) : (modGroup s t g f).withheld = s.withheld := rfl
@[simp] theorem modGroup_l2 (s : State) (t g : Nat) (f : Group → Group) : (modGroup s t g f).l2 = s.l2 := rfl
@[simp] theorem modGroup_badLines (s : State) (t g : Nat) (f : Group → Group) : (modGroup s t g f).badLines = s.badLines := rfl
@[simp] theorem modGroup_lost (s : State) (t g : Nat) (f : Group → Group) : (modGroup s t g f).lost = s.lost := rfl
@[simp] theorem modGroup_cores (s : State) (t g : Nat) (f : Group → Group) : (modGroup s t g f).cores = s.cores := rfl
@[simp] theorem modGroup_ctxs (s : State) (t g : Nat) (f : Group → Group) : (modGroup s t g f).ctxs = s.ctxs := rfl
@[simp] theorem modGroup_grids (s : State) (t g : Nat) (f : Group → Group) : (modGroup s t g f).grids = s.grids := rfl
@[simp] theorem modGroup_saved (s : State) (t g : Nat) (f : Group → Group) : (modGroup s t g f).saved = s.saved := rfl
@[simp] theorem modGroup_gridQueue (s : State) (t g : Nat) (f : Group → Group) : (modGroup s t g f).gridQueue = s.gridQueue := rfl
@[simp] theorem modGroup_sends (s : State) (t g : Nat) (f : Group → Group) : (modGroup s t g f).sends = s.sends := rfl
@[simp] theorem modGroup_entries (s : State) (t g : Nat) (f : Group → Group) : (modGroup s t g f).entries = s.entries := rfl
@[simp] theorem modGroup_touches (s : State) (t g : Nat) (f : Group → Group) : (modGroup s t g f).touches = s.touches := rfl
@[simp] theorem modGroup_hostOps (s : State) (t g : Nat) (f : Group → Group) : (modGroup s t g f).hostOps = s.hostOps := rfl
@[simp] theorem modGroup_peerReqs (s : State) (t g : Nat) (f : Group → Group) : (modGroup s t g f).peerReqs = s.peerReqs := rfl
@[simp] theorem modGroup_msgs (s : State) (t g : Nat) (f : Group → Group) : (modGroup s t g f).msgs = s.msgs := rfl
@[simp] theorem modGroup_outbox (s : State) (t g : Nat) (f : Group → Group) : (modGroup s t g f).outbox = s.outbox := rfl
@[simp] theorem modGroup_vacates (s : State) (t g : Nat) (f : Group → Group) : (modGroup s t g f).vacates = s.vacates := rfl
@[simp] theorem modGroup_deviceId (s : State) (t g : Nat) (f : Group → Group) : (modGroup s t g f).deviceId = s.deviceId := rfl
@[simp] theorem modGroup_hops (s : State) (t g : Nat) (f : Group → Group) : (modGroup s t g f).hops = s.hops := rfl
@[simp] theorem modGroup_octetOff (s : State) (t g : Nat) (f : Group → Group) : (modGroup s t g f).octetOff = s.octetOff := rfl
@[simp] theorem modGroup_ports (s : State) (t g : Nat) (f : Group → Group) : (modGroup s t g f).ports = s.ports := rfl
@[simp] theorem modGroup_bridge (s : State) (t g : Nat) (f : Group → Group) : (modGroup s t g f).bridge = s.bridge := rfl
@[simp] theorem modGroup_eth (s : State) (t g : Nat) (f : Group → Group) : (modGroup s t g f).eth = s.eth := rfl
@[simp] theorem modGroup_sessions (s : State) (t g : Nat) (f : Group → Group) : (modGroup s t g f).sessions = s.sessions := rfl
@[simp] theorem modGroup_boot (s : State) (t g : Nat) (f : Group → Group) : (modGroup s t g f).boot = s.boot := rfl
@[simp] theorem modGroup_tele (s : State) (t g : Nat) (f : Group → Group) : (modGroup s t g f).tele = s.tele := rfl
@[simp] theorem modGroup_nextId (s : State) (t g : Nat) (f : Group → Group) : (modGroup s t g f).nextId = s.nextId := rfl
@[simp] theorem modGroup_cur (s : State) (t g : Nat) (f : Group → Group) : (modGroup s t g f).cur = s.cur := rfl
@[simp] theorem modGroup_agenda (s : State) (t g : Nat) (f : Group → Group) : (modGroup s t g f).agenda = s.agenda := rfl
@[simp] theorem modGroup_putOff (s : State) (t g : Nat) (f : Group → Group) : (modGroup s t g f).putOff = s.putOff := rfl

/-! `modCtx` -/
@[simp] theorem modCtx_cycle (s : State) (c : Nat) (f : Ctx → Ctx) : (modCtx s c f).cycle = s.cycle := rfl
@[simp] theorem modCtx_l2cycle (s : State) (c : Nat) (f : Ctx → Ctx) : (modCtx s c f).l2cycle = s.l2cycle := rfl
@[simp] theorem modCtx_l2part (s : State) (c : Nat) (f : Ctx → Ctx) : (modCtx s c f).l2part = s.l2part := rfl
@[simp] theorem modCtx_mem (s : State) (c : Nat) (f : Ctx → Ctx) : (modCtx s c f).mem = s.mem := rfl
@[simp] theorem modCtx_lineKey (s : State) (c : Nat) (f : Ctx → Ctx) : (modCtx s c f).lineKey = s.lineKey := rfl
@[simp] theorem modCtx_journal (s : State) (c : Nat) (f : Ctx → Ctx) : (modCtx s c f).journal = s.journal := rfl
@[simp] theorem modCtx_owner (s : State) (c : Nat) (f : Ctx → Ctx) : (modCtx s c f).owner = s.owner := rfl
@[simp] theorem modCtx_withheld (s : State) (c : Nat) (f : Ctx → Ctx) : (modCtx s c f).withheld = s.withheld := rfl
@[simp] theorem modCtx_l2 (s : State) (c : Nat) (f : Ctx → Ctx) : (modCtx s c f).l2 = s.l2 := rfl
@[simp] theorem modCtx_badLines (s : State) (c : Nat) (f : Ctx → Ctx) : (modCtx s c f).badLines = s.badLines := rfl
@[simp] theorem modCtx_lost (s : State) (c : Nat) (f : Ctx → Ctx) : (modCtx s c f).lost = s.lost := rfl
@[simp] theorem modCtx_cores (s : State) (c : Nat) (f : Ctx → Ctx) : (modCtx s c f).cores = s.cores := rfl
@[simp] theorem modCtx_grids (s : State) (c : Nat) (f : Ctx → Ctx) : (modCtx s c f).grids = s.grids := rfl
@[simp] theorem modCtx_teams (s : State) (c : Nat) (f : Ctx → Ctx) : (modCtx s c f).teams = s.teams := rfl
@[simp] theorem modCtx_saved (s : State) (c : Nat) (f : Ctx → Ctx) : (modCtx s c f).saved = s.saved := rfl
@[simp] theorem modCtx_gridQueue (s : State) (c : Nat) (f : Ctx → Ctx) : (modCtx s c f).gridQueue = s.gridQueue := rfl
@[simp] theorem modCtx_sends (s : State) (c : Nat) (f : Ctx → Ctx) : (modCtx s c f).sends = s.sends := rfl
@[simp] theorem modCtx_entries (s : State) (c : Nat) (f : Ctx → Ctx) : (modCtx s c f).entries = s.entries := rfl
@[simp] theorem modCtx_touches (s : State) (c : Nat) (f : Ctx → Ctx) : (modCtx s c f).touches = s.touches := rfl
@[simp] theorem modCtx_hostOps (s : State) (c : Nat) (f : Ctx → Ctx) : (modCtx s c f).hostOps = s.hostOps := rfl
@[simp] theorem modCtx_peerReqs (s : State) (c : Nat) (f : Ctx → Ctx) : (modCtx s c f).peerReqs = s.peerReqs := rfl
@[simp] theorem modCtx_msgs (s : State) (c : Nat) (f : Ctx → Ctx) : (modCtx s c f).msgs = s.msgs := rfl
@[simp] theorem modCtx_outbox (s : State) (c : Nat) (f : Ctx → Ctx) : (modCtx s c f).outbox = s.outbox := rfl
@[simp] theorem modCtx_vacates (s : State) (c : Nat) (f : Ctx → Ctx) : (modCtx s c f).vacates = s.vacates := rfl
@[simp] theorem modCtx_deviceId (s : State) (c : Nat) (f : Ctx → Ctx) : (modCtx s c f).deviceId = s.deviceId := rfl
@[simp] theorem modCtx_hops (s : State) (c : Nat) (f : Ctx → Ctx) : (modCtx s c f).hops = s.hops := rfl
@[simp] theorem modCtx_octetOff (s : State) (c : Nat) (f : Ctx → Ctx) : (modCtx s c f).octetOff = s.octetOff := rfl
@[simp] theorem modCtx_ports (s : State) (c : Nat) (f : Ctx → Ctx) : (modCtx s c f).ports = s.ports := rfl
@[simp] theorem modCtx_bridge (s : State) (c : Nat) (f : Ctx → Ctx) : (modCtx s c f).bridge = s.bridge := rfl
@[simp] theorem modCtx_eth (s : State) (c : Nat) (f : Ctx → Ctx) : (modCtx s c f).eth = s.eth := rfl
@[simp] theorem modCtx_sessions (s : State) (c : Nat) (f : Ctx → Ctx) : (modCtx s c f).sessions = s.sessions := rfl
@[simp] theorem modCtx_boot (s : State) (c : Nat) (f : Ctx → Ctx) : (modCtx s c f).boot = s.boot := rfl
@[simp] theorem modCtx_tele (s : State) (c : Nat) (f : Ctx → Ctx) : (modCtx s c f).tele = s.tele := rfl
@[simp] theorem modCtx_nextId (s : State) (c : Nat) (f : Ctx → Ctx) : (modCtx s c f).nextId = s.nextId := rfl
@[simp] theorem modCtx_cur (s : State) (c : Nat) (f : Ctx → Ctx) : (modCtx s c f).cur = s.cur := rfl
@[simp] theorem modCtx_agenda (s : State) (c : Nat) (f : Ctx → Ctx) : (modCtx s c f).agenda = s.agenda := rfl
@[simp] theorem modCtx_putOff (s : State) (c : Nat) (f : Ctx → Ctx) : (modCtx s c f).putOff = s.putOff := rfl

/-! `modCore` -/
@[simp] theorem modCore_cycle (s : State) (c : Nat) (f : Core → Core) : (modCore s c f).cycle = s.cycle := rfl
@[simp] theorem modCore_l2cycle (s : State) (c : Nat) (f : Core → Core) : (modCore s c f).l2cycle = s.l2cycle := rfl
@[simp] theorem modCore_l2part (s : State) (c : Nat) (f : Core → Core) : (modCore s c f).l2part = s.l2part := rfl
@[simp] theorem modCore_mem (s : State) (c : Nat) (f : Core → Core) : (modCore s c f).mem = s.mem := rfl
@[simp] theorem modCore_lineKey (s : State) (c : Nat) (f : Core → Core) : (modCore s c f).lineKey = s.lineKey := rfl
@[simp] theorem modCore_journal (s : State) (c : Nat) (f : Core → Core) : (modCore s c f).journal = s.journal := rfl
@[simp] theorem modCore_owner (s : State) (c : Nat) (f : Core → Core) : (modCore s c f).owner = s.owner := rfl
@[simp] theorem modCore_withheld (s : State) (c : Nat) (f : Core → Core) : (modCore s c f).withheld = s.withheld := rfl
@[simp] theorem modCore_l2 (s : State) (c : Nat) (f : Core → Core) : (modCore s c f).l2 = s.l2 := rfl
@[simp] theorem modCore_badLines (s : State) (c : Nat) (f : Core → Core) : (modCore s c f).badLines = s.badLines := rfl
@[simp] theorem modCore_lost (s : State) (c : Nat) (f : Core → Core) : (modCore s c f).lost = s.lost := rfl
@[simp] theorem modCore_ctxs (s : State) (c : Nat) (f : Core → Core) : (modCore s c f).ctxs = s.ctxs := rfl
@[simp] theorem modCore_grids (s : State) (c : Nat) (f : Core → Core) : (modCore s c f).grids = s.grids := rfl
@[simp] theorem modCore_teams (s : State) (c : Nat) (f : Core → Core) : (modCore s c f).teams = s.teams := rfl
@[simp] theorem modCore_saved (s : State) (c : Nat) (f : Core → Core) : (modCore s c f).saved = s.saved := rfl
@[simp] theorem modCore_gridQueue (s : State) (c : Nat) (f : Core → Core) : (modCore s c f).gridQueue = s.gridQueue := rfl
@[simp] theorem modCore_sends (s : State) (c : Nat) (f : Core → Core) : (modCore s c f).sends = s.sends := rfl
@[simp] theorem modCore_entries (s : State) (c : Nat) (f : Core → Core) : (modCore s c f).entries = s.entries := rfl
@[simp] theorem modCore_touches (s : State) (c : Nat) (f : Core → Core) : (modCore s c f).touches = s.touches := rfl
@[simp] theorem modCore_hostOps (s : State) (c : Nat) (f : Core → Core) : (modCore s c f).hostOps = s.hostOps := rfl
@[simp] theorem modCore_peerReqs (s : State) (c : Nat) (f : Core → Core) : (modCore s c f).peerReqs = s.peerReqs := rfl
@[simp] theorem modCore_msgs (s : State) (c : Nat) (f : Core → Core) : (modCore s c f).msgs = s.msgs := rfl
@[simp] theorem modCore_outbox (s : State) (c : Nat) (f : Core → Core) : (modCore s c f).outbox = s.outbox := rfl
@[simp] theorem modCore_vacates (s : State) (c : Nat) (f : Core → Core) : (modCore s c f).vacates = s.vacates := rfl
@[simp] theorem modCore_deviceId (s : State) (c : Nat) (f : Core → Core) : (modCore s c f).deviceId = s.deviceId := rfl
@[simp] theorem modCore_hops (s : State) (c : Nat) (f : Core → Core) : (modCore s c f).hops = s.hops := rfl
@[simp] theorem modCore_octetOff (s : State) (c : Nat) (f : Core → Core) : (modCore s c f).octetOff = s.octetOff := rfl
@[simp] theorem modCore_ports (s : State) (c : Nat) (f : Core → Core) : (modCore s c f).ports = s.ports := rfl
@[simp] theorem modCore_bridge (s : State) (c : Nat) (f : Core → Core) : (modCore s c f).bridge = s.bridge := rfl
@[simp] theorem modCore_eth (s : State) (c : Nat) (f : Core → Core) : (modCore s c f).eth = s.eth := rfl
@[simp] theorem modCore_sessions (s : State) (c : Nat) (f : Core → Core) : (modCore s c f).sessions = s.sessions := rfl
@[simp] theorem modCore_boot (s : State) (c : Nat) (f : Core → Core) : (modCore s c f).boot = s.boot := rfl
@[simp] theorem modCore_tele (s : State) (c : Nat) (f : Core → Core) : (modCore s c f).tele = s.tele := rfl
@[simp] theorem modCore_nextId (s : State) (c : Nat) (f : Core → Core) : (modCore s c f).nextId = s.nextId := rfl
@[simp] theorem modCore_cur (s : State) (c : Nat) (f : Core → Core) : (modCore s c f).cur = s.cur := rfl
@[simp] theorem modCore_agenda (s : State) (c : Nat) (f : Core → Core) : (modCore s c f).agenda = s.agenda := rfl
@[simp] theorem modCore_putOff (s : State) (c : Nat) (f : Core → Core) : (modCore s c f).putOff = s.putOff := rfl

/-! `modGrid` -/
@[simp] theorem modGrid_cycle (s : State) (g : Nat) (f : Grid → Grid) : (modGrid s g f).cycle = s.cycle := rfl
@[simp] theorem modGrid_l2cycle (s : State) (g : Nat) (f : Grid → Grid) : (modGrid s g f).l2cycle = s.l2cycle := rfl
@[simp] theorem modGrid_l2part (s : State) (g : Nat) (f : Grid → Grid) : (modGrid s g f).l2part = s.l2part := rfl
@[simp] theorem modGrid_mem (s : State) (g : Nat) (f : Grid → Grid) : (modGrid s g f).mem = s.mem := rfl
@[simp] theorem modGrid_lineKey (s : State) (g : Nat) (f : Grid → Grid) : (modGrid s g f).lineKey = s.lineKey := rfl
@[simp] theorem modGrid_journal (s : State) (g : Nat) (f : Grid → Grid) : (modGrid s g f).journal = s.journal := rfl
@[simp] theorem modGrid_owner (s : State) (g : Nat) (f : Grid → Grid) : (modGrid s g f).owner = s.owner := rfl
@[simp] theorem modGrid_withheld (s : State) (g : Nat) (f : Grid → Grid) : (modGrid s g f).withheld = s.withheld := rfl
@[simp] theorem modGrid_l2 (s : State) (g : Nat) (f : Grid → Grid) : (modGrid s g f).l2 = s.l2 := rfl
@[simp] theorem modGrid_badLines (s : State) (g : Nat) (f : Grid → Grid) : (modGrid s g f).badLines = s.badLines := rfl
@[simp] theorem modGrid_lost (s : State) (g : Nat) (f : Grid → Grid) : (modGrid s g f).lost = s.lost := rfl
@[simp] theorem modGrid_cores (s : State) (g : Nat) (f : Grid → Grid) : (modGrid s g f).cores = s.cores := rfl
@[simp] theorem modGrid_ctxs (s : State) (g : Nat) (f : Grid → Grid) : (modGrid s g f).ctxs = s.ctxs := rfl
@[simp] theorem modGrid_teams (s : State) (g : Nat) (f : Grid → Grid) : (modGrid s g f).teams = s.teams := rfl
@[simp] theorem modGrid_saved (s : State) (g : Nat) (f : Grid → Grid) : (modGrid s g f).saved = s.saved := rfl
@[simp] theorem modGrid_gridQueue (s : State) (g : Nat) (f : Grid → Grid) : (modGrid s g f).gridQueue = s.gridQueue := rfl
@[simp] theorem modGrid_sends (s : State) (g : Nat) (f : Grid → Grid) : (modGrid s g f).sends = s.sends := rfl
@[simp] theorem modGrid_entries (s : State) (g : Nat) (f : Grid → Grid) : (modGrid s g f).entries = s.entries := rfl
@[simp] theorem modGrid_touches (s : State) (g : Nat) (f : Grid → Grid) : (modGrid s g f).touches = s.touches := rfl
@[simp] theorem modGrid_hostOps (s : State) (g : Nat) (f : Grid → Grid) : (modGrid s g f).hostOps = s.hostOps := rfl
@[simp] theorem modGrid_peerReqs (s : State) (g : Nat) (f : Grid → Grid) : (modGrid s g f).peerReqs = s.peerReqs := rfl
@[simp] theorem modGrid_msgs (s : State) (g : Nat) (f : Grid → Grid) : (modGrid s g f).msgs = s.msgs := rfl
@[simp] theorem modGrid_outbox (s : State) (g : Nat) (f : Grid → Grid) : (modGrid s g f).outbox = s.outbox := rfl
@[simp] theorem modGrid_vacates (s : State) (g : Nat) (f : Grid → Grid) : (modGrid s g f).vacates = s.vacates := rfl
@[simp] theorem modGrid_deviceId (s : State) (g : Nat) (f : Grid → Grid) : (modGrid s g f).deviceId = s.deviceId := rfl
@[simp] theorem modGrid_hops (s : State) (g : Nat) (f : Grid → Grid) : (modGrid s g f).hops = s.hops := rfl
@[simp] theorem modGrid_octetOff (s : State) (g : Nat) (f : Grid → Grid) : (modGrid s g f).octetOff = s.octetOff := rfl
@[simp] theorem modGrid_ports (s : State) (g : Nat) (f : Grid → Grid) : (modGrid s g f).ports = s.ports := rfl
@[simp] theorem modGrid_bridge (s : State) (g : Nat) (f : Grid → Grid) : (modGrid s g f).bridge = s.bridge := rfl
@[simp] theorem modGrid_eth (s : State) (g : Nat) (f : Grid → Grid) : (modGrid s g f).eth = s.eth := rfl
@[simp] theorem modGrid_sessions (s : State) (g : Nat) (f : Grid → Grid) : (modGrid s g f).sessions = s.sessions := rfl
@[simp] theorem modGrid_boot (s : State) (g : Nat) (f : Grid → Grid) : (modGrid s g f).boot = s.boot := rfl
@[simp] theorem modGrid_tele (s : State) (g : Nat) (f : Grid → Grid) : (modGrid s g f).tele = s.tele := rfl
@[simp] theorem modGrid_nextId (s : State) (g : Nat) (f : Grid → Grid) : (modGrid s g f).nextId = s.nextId := rfl
@[simp] theorem modGrid_cur (s : State) (g : Nat) (f : Grid → Grid) : (modGrid s g f).cur = s.cur := rfl
@[simp] theorem modGrid_agenda (s : State) (g : Nat) (f : Grid → Grid) : (modGrid s g f).agenda = s.agenda := rfl
@[simp] theorem modGrid_putOff (s : State) (g : Nat) (f : Grid → Grid) : (modGrid s g f).putOff = s.putOff := rfl

/-! `postRecord` -/
@[simp] theorem postRecord_cycle (s : State) (c : Nat) (r : RecIn) : (postRecord s c r).cycle = s.cycle := rfl
@[simp] theorem postRecord_l2cycle (s : State) (c : Nat) (r : RecIn) : (postRecord s c r).l2cycle = s.l2cycle := rfl
@[simp] theorem postRecord_l2part (s : State) (c : Nat) (r : RecIn) : (postRecord s c r).l2part = s.l2part := rfl
@[simp] theorem postRecord_mem (s : State) (c : Nat) (r : RecIn) : (postRecord s c r).mem = s.mem := rfl
@[simp] theorem postRecord_lineKey (s : State) (c : Nat) (r : RecIn) : (postRecord s c r).lineKey = s.lineKey := rfl
@[simp] theorem postRecord_journal (s : State) (c : Nat) (r : RecIn) : (postRecord s c r).journal = s.journal := rfl
@[simp] theorem postRecord_owner (s : State) (c : Nat) (r : RecIn) : (postRecord s c r).owner = s.owner := rfl
@[simp] theorem postRecord_withheld (s : State) (c : Nat) (r : RecIn) : (postRecord s c r).withheld = s.withheld := rfl
@[simp] theorem postRecord_l2 (s : State) (c : Nat) (r : RecIn) : (postRecord s c r).l2 = s.l2 := rfl
@[simp] theorem postRecord_badLines (s : State) (c : Nat) (r : RecIn) : (postRecord s c r).badLines = s.badLines := rfl
@[simp] theorem postRecord_lost (s : State) (c : Nat) (r : RecIn) : (postRecord s c r).lost = s.lost := rfl
@[simp] theorem postRecord_cores (s : State) (c : Nat) (r : RecIn) : (postRecord s c r).cores = s.cores := rfl
@[simp] theorem postRecord_grids (s : State) (c : Nat) (r : RecIn) : (postRecord s c r).grids = s.grids := rfl
@[simp] theorem postRecord_teams (s : State) (c : Nat) (r : RecIn) : (postRecord s c r).teams = s.teams := rfl
@[simp] theorem postRecord_saved (s : State) (c : Nat) (r : RecIn) : (postRecord s c r).saved = s.saved := rfl
@[simp] theorem postRecord_gridQueue (s : State) (c : Nat) (r : RecIn) : (postRecord s c r).gridQueue = s.gridQueue := rfl
@[simp] theorem postRecord_sends (s : State) (c : Nat) (r : RecIn) : (postRecord s c r).sends = s.sends := rfl
@[simp] theorem postRecord_entries (s : State) (c : Nat) (r : RecIn) : (postRecord s c r).entries = s.entries := rfl
@[simp] theorem postRecord_touches (s : State) (c : Nat) (r : RecIn) : (postRecord s c r).touches = s.touches := rfl
@[simp] theorem postRecord_hostOps (s : State) (c : Nat) (r : RecIn) : (postRecord s c r).hostOps = s.hostOps := rfl
@[simp] theorem postRecord_peerReqs (s : State) (c : Nat) (r : RecIn) : (postRecord s c r).peerReqs = s.peerReqs := rfl
@[simp] theorem postRecord_msgs (s : State) (c : Nat) (r : RecIn) : (postRecord s c r).msgs = s.msgs := rfl
@[simp] theorem postRecord_outbox (s : State) (c : Nat) (r : RecIn) : (postRecord s c r).outbox = s.outbox := rfl
@[simp] theorem postRecord_vacates (s : State) (c : Nat) (r : RecIn) : (postRecord s c r).vacates = s.vacates := rfl
@[simp] theorem postRecord_deviceId (s : State) (c : Nat) (r : RecIn) : (postRecord s c r).deviceId = s.deviceId := rfl
@[simp] theorem postRecord_hops (s : State) (c : Nat) (r : RecIn) : (postRecord s c r).hops = s.hops := rfl
@[simp] theorem postRecord_octetOff (s : State) (c : Nat) (r : RecIn) : (postRecord s c r).octetOff = s.octetOff := rfl
@[simp] theorem postRecord_ports (s : State) (c : Nat) (r : RecIn) : (postRecord s c r).ports = s.ports := rfl
@[simp] theorem postRecord_bridge (s : State) (c : Nat) (r : RecIn) : (postRecord s c r).bridge = s.bridge := rfl
@[simp] theorem postRecord_eth (s : State) (c : Nat) (r : RecIn) : (postRecord s c r).eth = s.eth := rfl
@[simp] theorem postRecord_sessions (s : State) (c : Nat) (r : RecIn) : (postRecord s c r).sessions = s.sessions := rfl
@[simp] theorem postRecord_boot (s : State) (c : Nat) (r : RecIn) : (postRecord s c r).boot = s.boot := rfl
@[simp] theorem postRecord_tele (s : State) (c : Nat) (r : RecIn) : (postRecord s c r).tele = s.tele := rfl
@[simp] theorem postRecord_nextId (s : State) (c : Nat) (r : RecIn) : (postRecord s c r).nextId = s.nextId := rfl
@[simp] theorem postRecord_cur (s : State) (c : Nat) (r : RecIn) : (postRecord s c r).cur = s.cur := rfl
@[simp] theorem postRecord_agenda (s : State) (c : Nat) (r : RecIn) : (postRecord s c r).agenda = s.agenda := rfl
@[simp] theorem postRecord_putOff (s : State) (c : Nat) (r : RecIn) : (postRecord s c r).putOff = s.putOff := rfl

/-! `sendLocal` -/
@[simp] theorem sendLocal_cycle (s : State) (m : Msg) : (sendLocal s m).cycle = s.cycle := rfl
@[simp] theorem sendLocal_l2cycle (s : State) (m : Msg) : (sendLocal s m).l2cycle = s.l2cycle := rfl
@[simp] theorem sendLocal_l2part (s : State) (m : Msg) : (sendLocal s m).l2part = s.l2part := rfl
@[simp] theorem sendLocal_mem (s : State) (m : Msg) : (sendLocal s m).mem = s.mem := rfl
@[simp] theorem sendLocal_lineKey (s : State) (m : Msg) : (sendLocal s m).lineKey = s.lineKey := rfl
@[simp] theorem sendLocal_journal (s : State) (m : Msg) : (sendLocal s m).journal = s.journal := rfl
@[simp] theorem sendLocal_owner (s : State) (m : Msg) : (sendLocal s m).owner = s.owner := rfl
@[simp] theorem sendLocal_withheld (s : State) (m : Msg) : (sendLocal s m).withheld = s.withheld := rfl
@[simp] theorem sendLocal_l2 (s : State) (m : Msg) : (sendLocal s m).l2 = s.l2 := rfl
@[simp] theorem sendLocal_badLines (s : State) (m : Msg) : (sendLocal s m).badLines = s.badLines := rfl
@[simp] theorem sendLocal_lost (s : State) (m : Msg) : (sendLocal s m).lost = s.lost := rfl
@[simp] theorem sendLocal_cores (s : State) (m : Msg) : (sendLocal s m).cores = s.cores := rfl
@[simp] theorem sendLocal_ctxs (s : State) (m : Msg) : (sendLocal s m).ctxs = s.ctxs := rfl
@[simp] theorem sendLocal_grids (s : State) (m : Msg) : (sendLocal s m).grids = s.grids := rfl
@[simp] theorem sendLocal_teams (s : State) (m : Msg) : (sendLocal s m).teams = s.teams := rfl
@[simp] theorem sendLocal_saved (s : State) (m : Msg) : (sendLocal s m).saved = s.saved := rfl
@[simp] theorem sendLocal_gridQueue (s : State) (m : Msg) : (sendLocal s m).gridQueue = s.gridQueue := rfl
@[simp] theorem sendLocal_sends (s : State) (m : Msg) : (sendLocal s m).sends = s.sends := rfl
@[simp] theorem sendLocal_entries (s : State) (m : Msg) : (sendLocal s m).entries = s.entries := rfl
@[simp] theorem sendLocal_touches (s : State) (m : Msg) : (sendLocal s m).touches = s.touches := rfl
@[simp] theorem sendLocal_hostOps (s : State) (m : Msg) : (sendLocal s m).hostOps = s.hostOps := rfl
@[simp] theorem sendLocal_peerReqs (s : State) (m : Msg) : (sendLocal s m).peerReqs = s.peerReqs := rfl
@[simp] theorem sendLocal_outbox (s : State) (m : Msg) : (sendLocal s m).outbox = s.outbox := rfl
@[simp] theorem sendLocal_vacates (s : State) (m : Msg) : (sendLocal s m).vacates = s.vacates := rfl
@[simp] theorem sendLocal_deviceId (s : State) (m : Msg) : (sendLocal s m).deviceId = s.deviceId := rfl
@[simp] theorem sendLocal_hops (s : State) (m : Msg) : (sendLocal s m).hops = s.hops := rfl
@[simp] theorem sendLocal_octetOff (s : State) (m : Msg) : (sendLocal s m).octetOff = s.octetOff := rfl
@[simp] theorem sendLocal_ports (s : State) (m : Msg) : (sendLocal s m).ports = s.ports := rfl
@[simp] theorem sendLocal_bridge (s : State) (m : Msg) : (sendLocal s m).bridge = s.bridge := rfl
@[simp] theorem sendLocal_eth (s : State) (m : Msg) : (sendLocal s m).eth = s.eth := rfl
@[simp] theorem sendLocal_sessions (s : State) (m : Msg) : (sendLocal s m).sessions = s.sessions := rfl
@[simp] theorem sendLocal_boot (s : State) (m : Msg) : (sendLocal s m).boot = s.boot := rfl
@[simp] theorem sendLocal_tele (s : State) (m : Msg) : (sendLocal s m).tele = s.tele := rfl
@[simp] theorem sendLocal_cur (s : State) (m : Msg) : (sendLocal s m).cur = s.cur := rfl
@[simp] theorem sendLocal_agenda (s : State) (m : Msg) : (sendLocal s m).agenda = s.agenda := rfl
@[simp] theorem sendLocal_putOff (s : State) (m : Msg) : (sendLocal s m).putOff = s.putOff := rfl

/-! `modMembers` -/
@[simp] theorem modMembers_role (gr : Group) (m : BitVec 8) (f : Nat → Slice → Slice) : (modMembers gr m f).role = gr.role := rfl
@[simp] theorem modMembers_roleIndex (gr : Group) (m : BitVec 8) (f : Nat → Slice → Slice) : (modMembers gr m f).roleIndex = gr.roleIndex := rfl
@[simp] theorem modMembers_budget (gr : Group) (m : BitVec 8) (f : Nat → Slice → Slice) : (modMembers gr m f).budget = gr.budget := rfl
@[simp] theorem modMembers_port (gr : Group) (m : BitVec 8) (f : Nat → Slice → Slice) : (modMembers gr m f).port = gr.port := rfl
@[simp] theorem modMembers_slot (gr : Group) (m : BitVec 8) (f : Nat → Slice → Slice) : (modMembers gr m f).slot = gr.slot := rfl
@[simp] theorem modMembers_gangs (gr : Group) (m : BitVec 8) (f : Nat → Slice → Slice) : (modMembers gr m f).gangs = gr.gangs := rfl
@[simp] theorem modMembers_vregs (gr : Group) (m : BitVec 8) (f : Nat → Slice → Slice) : (modMembers gr m f).vregs = gr.vregs := rfl
@[simp] theorem modMembers_queue (gr : Group) (m : BitVec 8) (f : Nat → Slice → Slice) : (modMembers gr m f).queue = gr.queue := rfl
@[simp] theorem modMembers_fmask (gr : Group) (m : BitVec 8) (f : Nat → Slice → Slice) : (modMembers gr m f).fmask = gr.fmask := rfl
@[simp] theorem modMembers_firstOff (gr : Group) (m : BitVec 8) (f : Nat → Slice → Slice) : (modMembers gr m f).firstOff = gr.firstOff := rfl
@[simp] theorem modMembers_basePrio (gr : Group) (m : BitVec 8) (f : Nat → Slice → Slice) : (modMembers gr m f).basePrio = gr.basePrio := rfl
@[simp] theorem modMembers_curPrio (gr : Group) (m : BitVec 8) (f : Nat → Slice → Slice) : (modMembers gr m f).curPrio = gr.curPrio := rfl
@[simp] theorem modMembers_lastIssue (gr : Group) (m : BitVec 8) (f : Nat → Slice → Slice) : (modMembers gr m f).lastIssue = gr.lastIssue := rfl
@[simp] theorem modMembers_yielded (gr : Group) (m : BitVec 8) (f : Nat → Slice → Slice) : (modMembers gr m f).yielded = gr.yielded := rfl
@[simp] theorem modMembers_readySince (gr : Group) (m : BitVec 8) (f : Nat → Slice → Slice) : (modMembers gr m f).readySince = gr.readySince := rfl
@[simp] theorem modMembers_lastGang (gr : Group) (m : BitVec 8) (f : Nat → Slice → Slice) : (modMembers gr m f).lastGang = gr.lastGang := rfl
@[simp] theorem modMembers_cg (gr : Group) (m : BitVec 8) (f : Nat → Slice → Slice) : (modMembers gr m f).cg = gr.cg := rfl
@[simp] theorem modMembers_openJobs (gr : Group) (m : BitVec 8) (f : Nat → Slice → Slice) : (modMembers gr m f).openJobs = gr.openJobs := rfl
@[simp] theorem modMembers_pending (gr : Group) (m : BitVec 8) (f : Nat → Slice → Slice) : (modMembers gr m f).pending = gr.pending := rfl
@[simp] theorem modMembers_doneCg (gr : Group) (m : BitVec 8) (f : Nat → Slice → Slice) : (modMembers gr m f).doneCg = gr.doneCg := rfl
@[simp] theorem modMembers_lastJob (gr : Group) (m : BitVec 8) (f : Nat → Slice → Slice) : (modMembers gr m f).lastJob = gr.lastJob := rfl
@[simp] theorem modMembers_lastProgress (gr : Group) (m : BitVec 8) (f : Nat → Slice → Slice) : (modMembers gr m f).lastProgress = gr.lastProgress := rfl
@[simp] theorem modMembers_handler (gr : Group) (m : BitVec 8) (f : Nat → Slice → Slice) : (modMembers gr m f).handler = gr.handler := rfl
@[simp] theorem modMembers_returns (gr : Group) (m : BitVec 8) (f : Nat → Slice → Slice) : (modMembers gr m f).returns = gr.returns := rfl
@[simp] theorem modMembers_allocs (gr : Group) (m : BitVec 8) (f : Nat → Slice → Slice) : (modMembers gr m f).allocs = gr.allocs := rfl
@[simp] theorem modMembers_hallocs (gr : Group) (m : BitVec 8) (f : Nat → Slice → Slice) : (modMembers gr m f).hallocs = gr.hallocs := rfl
@[simp] theorem modMembers_acqSeq (gr : Group) (m : BitVec 8) (f : Nat → Slice → Slice) : (modMembers gr m f).acqSeq = gr.acqSeq := rfl
@[simp] theorem modMembers_relFence (gr : Group) (m : BitVec 8) (f : Nat → Slice → Slice) : (modMembers gr m f).relFence = gr.relFence := rfl
@[simp] theorem modMembers_acqs (gr : Group) (m : BitVec 8) (f : Nat → Slice → Slice) : (modMembers gr m f).acqs = gr.acqs := rfl
@[simp] theorem modMembers_retired (gr : Group) (m : BitVec 8) (f : Nat → Slice → Slice) : (modMembers gr m f).retired = gr.retired := rfl

/-! `modGang` -/
@[simp] theorem modGang_role (gr : Group) (k : Nat) (f : Gang → Gang) : (modGang gr k f).role = gr.role := rfl
@[simp] theorem modGang_roleIndex (gr : Group) (k : Nat) (f : Gang → Gang) : (modGang gr k f).roleIndex = gr.roleIndex := rfl
@[simp] theorem modGang_budget (gr : Group) (k : Nat) (f : Gang → Gang) : (modGang gr k f).budget = gr.budget := rfl
@[simp] theorem modGang_port (gr : Group) (k : Nat) (f : Gang → Gang) : (modGang gr k f).port = gr.port := rfl
@[simp] theorem modGang_slot (gr : Group) (k : Nat) (f : Gang → Gang) : (modGang gr k f).slot = gr.slot := rfl
@[simp] theorem modGang_slices (gr : Group) (k : Nat) (f : Gang → Gang) : (modGang gr k f).slices = gr.slices := rfl
@[simp] theorem modGang_vregs (gr : Group) (k : Nat) (f : Gang → Gang) : (modGang gr k f).vregs = gr.vregs := rfl
@[simp] theorem modGang_queue (gr : Group) (k : Nat) (f : Gang → Gang) : (modGang gr k f).queue = gr.queue := rfl
@[simp] theorem modGang_fmask (gr : Group) (k : Nat) (f : Gang → Gang) : (modGang gr k f).fmask = gr.fmask := rfl
@[simp] theorem modGang_firstOff (gr : Group) (k : Nat) (f : Gang → Gang) : (modGang gr k f).firstOff = gr.firstOff := rfl
@[simp] theorem modGang_basePrio (gr : Group) (k : Nat) (f : Gang → Gang) : (modGang gr k f).basePrio = gr.basePrio := rfl
@[simp] theorem modGang_curPrio (gr : Group) (k : Nat) (f : Gang → Gang) : (modGang gr k f).curPrio = gr.curPrio := rfl
@[simp] theorem modGang_lastIssue (gr : Group) (k : Nat) (f : Gang → Gang) : (modGang gr k f).lastIssue = gr.lastIssue := rfl
@[simp] theorem modGang_yielded (gr : Group) (k : Nat) (f : Gang → Gang) : (modGang gr k f).yielded = gr.yielded := rfl
@[simp] theorem modGang_readySince (gr : Group) (k : Nat) (f : Gang → Gang) : (modGang gr k f).readySince = gr.readySince := rfl
@[simp] theorem modGang_lastGang (gr : Group) (k : Nat) (f : Gang → Gang) : (modGang gr k f).lastGang = gr.lastGang := rfl
@[simp] theorem modGang_cg (gr : Group) (k : Nat) (f : Gang → Gang) : (modGang gr k f).cg = gr.cg := rfl
@[simp] theorem modGang_openJobs (gr : Group) (k : Nat) (f : Gang → Gang) : (modGang gr k f).openJobs = gr.openJobs := rfl
@[simp] theorem modGang_pending (gr : Group) (k : Nat) (f : Gang → Gang) : (modGang gr k f).pending = gr.pending := rfl
@[simp] theorem modGang_doneCg (gr : Group) (k : Nat) (f : Gang → Gang) : (modGang gr k f).doneCg = gr.doneCg := rfl
@[simp] theorem modGang_lastJob (gr : Group) (k : Nat) (f : Gang → Gang) : (modGang gr k f).lastJob = gr.lastJob := rfl
@[simp] theorem modGang_lastProgress (gr : Group) (k : Nat) (f : Gang → Gang) : (modGang gr k f).lastProgress = gr.lastProgress := rfl
@[simp] theorem modGang_handler (gr : Group) (k : Nat) (f : Gang → Gang) : (modGang gr k f).handler = gr.handler := rfl
@[simp] theorem modGang_returns (gr : Group) (k : Nat) (f : Gang → Gang) : (modGang gr k f).returns = gr.returns := rfl
@[simp] theorem modGang_allocs (gr : Group) (k : Nat) (f : Gang → Gang) : (modGang gr k f).allocs = gr.allocs := rfl
@[simp] theorem modGang_hallocs (gr : Group) (k : Nat) (f : Gang → Gang) : (modGang gr k f).hallocs = gr.hallocs := rfl
@[simp] theorem modGang_acqSeq (gr : Group) (k : Nat) (f : Gang → Gang) : (modGang gr k f).acqSeq = gr.acqSeq := rfl
@[simp] theorem modGang_relFence (gr : Group) (k : Nat) (f : Gang → Gang) : (modGang gr k f).relFence = gr.relFence := rfl
@[simp] theorem modGang_acqs (gr : Group) (k : Nat) (f : Gang → Gang) : (modGang gr k f).acqs = gr.acqs := rfl
@[simp] theorem modGang_retired (gr : Group) (k : Nat) (f : Gang → Gang) : (modGang gr k f).retired = gr.retired := rfl

end Sys2Proof.Machine
end

