-- ==== Sys2Proof/Laws/Issue.lean ====
section
/-! SUPPORT. What one issue can do: the parts of the state after an update, the operands an issue reads, and the state a group
effect leaves. -/

namespace Sys2Proof.Machine

open Sys2Proof.Safety

/-! ### Parts of the state -/

theorem teamOf_modTeam (s : State) (t u : Nat) (f : Team → Team) :
    teamOf (modTeam s t f) u = if u = t then (teamOf s t).map f else teamOf s u := mget_mmod s.teams t u f

theorem teamOf_modGroup (s : State) (t g u : Nat) (f : Group → Group) :
    teamOf (modGroup s t g f) u =
      if u = t then (teamOf s t).map (fun tm => { tm with groups := lmod tm.groups g f }) else teamOf s u := teamOf_modTeam s t u _

theorem ctxOf_modCtx (s : State) (c d : Nat) (f : Ctx → Ctx) :
    ctxOf (modCtx s c f) d = if d = c then (ctxOf s c).map f else ctxOf s d := mget_mmod s.ctxs c d f

theorem coreOf_modCore (s : State) (c d : Nat) (f : Core → Core) :
    coreOf (modCore s c f) d = if d = c then f (coreOf s c) else coreOf s d := by
  unfold coreOf modCore mgetD
  rw [mget_mput]
  split <;> rfl

@[simp] theorem ctxOf_modTeam (s : State) (t c : Nat) (f : Team → Team) : ctxOf (modTeam s t f) c = ctxOf s c := rfl
@[simp] theorem ctxOf_modGroup (s : State) (t g c : Nat) (f : Group → Group) : ctxOf (modGroup s t g f) c = ctxOf s c := rfl
@[simp] theorem coreOf_modTeam (s : State) (t c : Nat) (f : Team → Team) : coreOf (modTeam s t f) c = coreOf s c := rfl
@[simp] theorem coreOf_modGroup (s : State) (t g c : Nat) (f : Group → Group) : coreOf (modGroup s t g f) c = coreOf s c := rfl
@[simp] theorem teamOf_modCtx (s : State) (c t : Nat) (f : Ctx → Ctx) : teamOf (modCtx s c f) t = teamOf s t := rfl
@[simp] theorem teamOf_modCore (s : State) (c t : Nat) (f : Core → Core) : teamOf (modCore s c f) t = teamOf s t := rfl

/-! ### Slices and registers of a group -/

theorem slices_modMembers (gr : Group) (m : BitVec 8) (f : Nat → Slice → Slice) (j : Nat) :
    (modMembers gr m f).slices[j]? = (gr.slices[j]?).map (fun x => if m.getLsbD j then f j x else x) := by
  simp [modMembers, List.getElem?_mapIdx]

theorem sliceOf_modMembers (gr : Group) (m : BitVec 8) (f : Nat → Slice → Slice) (j : Nat) (h : j < gr.slices.length) :
    sliceOf (modMembers gr m f) j = if m.getLsbD j then f j (sliceOf gr j) else sliceOf gr j := by
  unfold sliceOf
  rw [slices_modMembers, List.getElem?_eq_getElem h]
  rfl

@[simp] theorem slices_length_modMembers (gr : Group) (m : BitVec 8) (f : Nat → Slice → Slice) :
    (modMembers gr m f).slices.length = gr.slices.length := by simp [modMembers]

@[simp] theorem sliceOf_modGang (gr : Group) (k : Nat) (f : Gang → Gang) (j : Nat) : sliceOf (modGang gr k f) j = sliceOf gr j := rfl
@[simp] theorem shadowed_modMembers (gr : Group) (m : BitVec 8) (f : Nat → Slice → Slice) (j : Nat) :
    shadowed (modMembers gr m f) j = shadowed gr j := rfl
@[simp] theorem shadowed_modGang (gr : Group) (k : Nat) (f : Gang → Gang) (j : Nat) : shadowed (modGang gr k f) j = shadowed gr j := rfl
@[simp] theorem vreg_modMembers (gr : Group) (m : BitVec 8) (f : Nat → Slice → Slice) (r l : Nat) :
    vreg (modMembers gr m f) r l = vreg gr r l := rfl
@[simp] theorem vreg_modGang (gr : Group) (k : Nat) (f : Gang → Gang) (r l : Nat) : vreg (modGang gr k f) r l = vreg gr r l := rfl
@[simp] theorem sreg_modGang (gr : Group) (k : Nat) (f : Gang → Gang) (j n : Nat) : sreg (modGang gr k f) j n = sreg gr j n := rfl

/-- A change of slices that leaves their scalar registers leaves `sreg`. -/
theorem sreg_modMembers (gr : Group) (m : BitVec 8) (f : Nat → Slice → Slice) (j n : Nat) (h : ∀ j x, (f j x).sregs = x.sregs) :
    sreg (modMembers gr m f) j n = sreg gr j n := by
  unfold sreg
  rw [shadowed_modMembers]
  split
  · rfl
  · unfold sliceOf
    rw [slices_modMembers]
    cases gr.slices[j]? with
    | none => rfl
    | some x => simp only [Option.map_some, Option.getD_some]; split <;> simp [h]

theorem handler_setSreg (gr : Group) (i n : Nat) (v : W32) :
    (setSreg gr i n v).handler.map (fun h => { h with ss := [], vs := [] }) = gr.handler.map (fun h => { h with ss := [], vs := [] }) := by
  unfold setSreg; split
  · cases gr.handler <;> rfl
  · rfl

theorem handler_setVreg (gr : Group) (r l : Nat) (v : W32) :
    (setVreg gr r l v).handler.map (fun h => { h with ss := [], vs := [] }) = gr.handler.map (fun h => { h with ss := [], vs := [] }) := by
  unfold setVreg; split
  · cases gr.handler <;> rfl
  · rfl

theorem shadowed_of_handler {gr gr' : Group}
    (h : gr'.handler.map (fun h => { h with ss := [], vs := [] }) = gr.handler.map (fun h => { h with ss := [], vs := [] })) (j : Nat) :
    shadowed gr' j = shadowed gr j := by
  unfold shadowed
  cases h1 : gr'.handler <;> cases h2 : gr.handler <;> rw [h1, h2] at h
  · cases h
  · cases h
  · simp only [Option.map_some, Option.some.injEq, Handler.mk.injEq] at h
    simp [h.2.1]

@[simp] theorem shadowed_setSreg (gr : Group) (i n : Nat) (v : W32) (j : Nat) : shadowed (setSreg gr i n v) j = shadowed gr j :=
  shadowed_of_handler (handler_setSreg gr i n v) j

@[simp] theorem shadowed_setVreg (gr : Group) (r l : Nat) (v : W32) (j : Nat) : shadowed (setVreg gr r l v) j = shadowed gr j :=
  shadowed_of_handler (handler_setVreg gr r l v) j

/-- A scalar register reads as what was last written to it. -/
theorem sreg_setSreg (gr : Group) (i n j k : Nat) (v : W32) (hn : n < 64) (hk : k < 64) (hi : i < gr.slices.length) :
    sreg (setSreg gr i n v) j k = if j = i ∧ k = n then v else sreg gr j k := by
  unfold sreg
  rw [shadowed_setSreg]
  unfold setSreg
  by_cases hsi : shadowed gr i = true
  · simp only [hsi, if_true]
    have : ∃ h, gr.handler = some h := by
      unfold shadowed at hsi; cases hh : gr.handler with
      | none => rw [hh] at hsi; cases hsi
      | some h => exact ⟨h, rfl⟩
    obtain ⟨h, hh⟩ := this
    simp only [hh, Option.map_some, mgetD_mputD]
    by_cases hj : j = i
    · subst hj; simp [hsi]
    · have : 64 * j + k ≠ 64 * i + n := by omega
      simp [hj, this, sliceOf]
  · simp only [hsi, Bool.false_eq_true, if_false]
    unfold sliceOf
    simp only [lmod_getElem?]
    by_cases hj : j = i
    · subst hj
      rw [List.getElem?_eq_getElem hi]
      simp [hsi, mgetD_mputD]
    · simp [hj]

/-- A lane of a vector register reads as what was last written to it. -/
theorem vreg_setVreg (gr : Group) (r l q k : Nat) (v : W32) (hl : l < 32) (hk : k < 32) :
    vreg (setVreg gr r l v) q k = if q = r ∧ k = l then v else vreg gr q k := by
  unfold vreg
  rw [shadowed_setVreg]
  unfold setVreg
  by_cases hs : shadowed gr (l / 4) = true
  · simp only [hs, if_true]
    have : ∃ h, gr.handler = some h := by
      unfold shadowed at hs; cases hh : gr.handler with
      | none => rw [hh] at hs; cases hs
      | some h => exact ⟨h, rfl⟩
    obtain ⟨h, hh⟩ := this
    simp only [hh, Option.map_some, mgetD_mputD]
    by_cases hq : q = r ∧ k = l
    · obtain ⟨rfl, rfl⟩ := hq; simp [hs]
    · have : 32 * q + k ≠ 32 * r + l := by omega
      simp [hq, this]
  · simp only [hs, Bool.false_eq_true, if_false, mgetD_mputD]
    by_cases hq : q = r ∧ k = l
    · obtain ⟨rfl, rfl⟩ := hq; simp [hs]
    · have : 32 * q + k ≠ 32 * r + l := by omega
      simp [hq, this]

theorem handler_setVreg_ss (gr : Group) (r l : Nat) (v : W32) :
    (setVreg gr r l v).handler.map (fun h => h.ss) = gr.handler.map (fun h => h.ss) := by
  unfold setVreg; split
  · cases gr.handler <;> rfl
  · rfl

theorem handler_setSreg_vs (gr : Group) (i n : Nat) (v : W32) :
    (setSreg gr i n v).handler.map (fun h => h.vs) = gr.handler.map (fun h => h.vs) := by
  unfold setSreg; split
  · cases gr.handler <;> rfl
  · rfl

theorem sreg_setVreg (gr : Group) (r l : Nat) (v : W32) (j n : Nat) : sreg (setVreg gr r l v) j n = sreg gr j n := by
  have e : sliceOf (setVreg gr r l v) j = sliceOf gr j := by unfold setVreg; split <;> rfl
  have k := handler_setVreg_ss gr r l v
  unfold sreg
  rw [shadowed_setVreg, e]
  cases h1 : (setVreg gr r l v).handler <;> cases h2 : gr.handler <;> rw [h1, h2] at k <;> simp_all

theorem vreg_setSreg (gr : Group) (i n : Nat) (v : W32) (r l : Nat) : vreg (setSreg gr i n v) r l = vreg gr r l := by
  have e : (setSreg gr i n v).vregs = gr.vregs := by unfold setSreg; split <;> rfl
  have k := handler_setSreg_vs gr i n v
  unfold vreg
  rw [shadowed_setSreg, e]
  cases h1 : (setSreg gr i n v).handler <;> cases h2 : gr.handler <;> rw [h1, h2] at k <;> simp_all

/-- What a register write leaves of a slice. -/
theorem sliceOf_setSreg (gr : Group) (i n : Nat) (v : W32) (j : Nat) :
    { sliceOf (setSreg gr i n v) j with sregs := [] } = { sliceOf gr j with sregs := [] } := by
  unfold setSreg
  split
  · rfl
  · unfold sliceOf
    simp only [lmod_getElem?]
    by_cases hj : j = i
    · subst hj; simp only [if_true]; cases gr.slices[j]? <;> rfl
    · simp [hj]

@[simp] theorem sliceOf_setVreg (gr : Group) (r l : Nat) (v : W32) (j : Nat) : sliceOf (setVreg gr r l v) j = sliceOf gr j := by
  unfold setVreg; split <;> rfl

/-- What stays of a group when only slices and registers change. -/
abbrev RegsOnly (gr gr' : Group) : Prop :=
  gr' = { gr with slices := gr'.slices, vregs := gr'.vregs, handler := gr'.handler } ∧ gr'.slices.length = gr.slices.length ∧
  gr'.handler.map (fun h => { h with ss := [], vs := [] }) = gr.handler.map (fun h => { h with ss := [], vs := [] })

theorem RegsOnly.refl (gr : Group) : RegsOnly gr gr := ⟨rfl, rfl, rfl⟩

theorem RegsOnly.trans {a b c : Group} (h : RegsOnly a b) (h' : RegsOnly b c) : RegsOnly a c := by
  obtain ⟨h1, h2, h3⟩ := h
  obtain ⟨h1', h2', h3'⟩ := h'
  refine ⟨?_, h2'.trans h2, h3'.trans h3⟩
  rw [h1'] ; simp only
  rw [h1]

theorem regsOnly_modMembers (gr : Group) (m : BitVec 8) (f : Nat → Slice → Slice) : RegsOnly gr (modMembers gr m f) :=
  ⟨rfl, by simp, rfl⟩

theorem regsOnly_setSreg (gr : Group) (i n : Nat) (v : W32) : RegsOnly gr (setSreg gr i n v) := by
  refine ⟨?_, ?_, handler_setSreg gr i n v⟩
  · unfold setSreg; split <;> rfl
  · unfold setSreg; split <;> simp

theorem regsOnly_setVreg (gr : Group) (r l : Nat) (v : W32) : RegsOnly gr (setVreg gr r l v) := by
  refine ⟨?_, ?_, handler_setVreg gr r l v⟩
  · unfold setVreg; split <;> rfl
  · unfold setVreg; split <;> rfl

theorem mem_membersOf (m : BitVec 8) (i : Nat) : i ∈ membersOf m ↔ m.getLsbD i = true := by
  simp only [membersOf, List.mem_filter, List.mem_range, and_iff_right_iff_imp]
  intro h
  exact BitVec.lt_of_getLsbD h

theorem mem_lanes (m : W32) (l : Nat) : l ∈ lanes m ↔ laneIn m l = true := by
  simp only [lanes, laneIn, List.mem_filter, List.mem_range, and_iff_right_iff_imp]
  intro h
  exact BitVec.lt_of_getLsbD h

theorem lanes_lt {m : W32} {l : Nat} (h : laneIn m l = true) : l < 32 := BitVec.lt_of_getLsbD h

/-- Lane l of register r after the lanes of a list are written. -/
theorem vreg_foldl_setVreg (r : Nat) (v : Nat → W32) (ls : List Nat) (gr : Group) (q k : Nat) (hls : ∀ l ∈ ls, l < 32) (hk : k < 32) :
    vreg (ls.foldl (fun gr l => setVreg gr r l (v l)) gr) q k = if q = r ∧ k ∈ ls then v k else vreg gr q k := by
  induction ls generalizing gr with
  | nil => simp
  | cons l ls ih =>
    rw [List.foldl_cons, ih _ (fun x hx => hls x (List.mem_cons_of_mem _ hx)), vreg_setVreg _ _ _ _ _ _ (hls l (by simp)) hk]
    by_cases hq : q = r <;> by_cases h1 : k ∈ ls <;> by_cases h2 : k = l <;> simp [hq, h1, h2]

theorem regsOnly_foldl_setVreg (r : Nat) (v : Nat → W32) (ls : List Nat) (gr : Group) :
    RegsOnly gr (ls.foldl (fun gr l => setVreg gr r l (v l)) gr) := by
  induction ls generalizing gr with
  | nil => exact RegsOnly.refl gr
  | cons l ls ih => exact (regsOnly_setVreg gr r l (v l)).trans (ih _)

theorem sreg_foldl_setVreg (r : Nat) (v : Nat → W32) (ls : List Nat) (gr : Group) (j n : Nat) :
    sreg (ls.foldl (fun gr l => setVreg gr r l (v l)) gr) j n = sreg gr j n := by
  induction ls generalizing gr with
  | nil => rfl
  | cons l ls ih => rw [List.foldl_cons, ih, sreg_setVreg]

theorem sliceOf_foldl_setVreg (r : Nat) (v : Nat → W32) (ls : List Nat) (gr : Group) (j : Nat) :
    sliceOf (ls.foldl (fun gr l => setVreg gr r l (v l)) gr) j = sliceOf gr j := by
  induction ls generalizing gr with
  | nil => rfl
  | cons l ls ih => rw [List.foldl_cons, ih, sliceOf_setVreg]

/-- The lanes of a mask written: what each lane of each register holds afterwards. -/
theorem vreg_setLanes (gr : Group) (r : Nat) (m : W32) (v : Nat → W32) (q l : Nat) (hl : l < 32) :
    vreg (setLanes gr r m v) q l = if q = r ∧ laneIn m l = true then v l else vreg gr q l := by
  unfold setLanes
  rw [vreg_foldl_setVreg r v (lanes m) gr q l (fun k hk => lanes_lt ((mem_lanes m k).1 hk)) hl]
  simp [mem_lanes]

@[simp] theorem sreg_setLanes (gr : Group) (r : Nat) (m : W32) (v : Nat → W32) (j n : Nat) : sreg (setLanes gr r m v) j n = sreg gr j n :=
  sreg_foldl_setVreg r v (lanes m) gr j n
@[simp] theorem sliceOf_setLanes (gr : Group) (r : Nat) (m : W32) (v : Nat → W32) (j : Nat) : sliceOf (setLanes gr r m v) j = sliceOf gr j :=
  sliceOf_foldl_setVreg r v (lanes m) gr j
theorem regsOnly_setLanes (gr : Group) (r : Nat) (m : W32) (v : Nat → W32) : RegsOnly gr (setLanes gr r m v) :=
  regsOnly_foldl_setVreg r v (lanes m) gr

/-- The scalar registers after those of a list of slices are written. -/
theorem sreg_foldl_setSreg (n : Nat) (v : Nat → W32) (is : List Nat) (gr : Group) (j k : Nat) (hn : n < 64) (hk : k < 64) (hj : j < gr.slices.length) :
    sreg (is.foldl (fun gr i => setSreg gr i n (v i)) gr) j k = if j ∈ is ∧ k = n then v j else sreg gr j k := by
  induction is generalizing gr with
  | nil => simp
  | cons i is ih =>
    rw [List.foldl_cons, ih _ (by rw [(regsOnly_setSreg gr i n (v i)).2.1]; exact hj)]
    by_cases hi : i < gr.slices.length
    · rw [sreg_setSreg gr i n j k (v i) hn hk hi]
      by_cases h1 : j ∈ is <;> by_cases h2 : j = i <;> by_cases h3 : k = n <;> simp [h1, h2, h3]
    · have hne : j ≠ i := by omega
      have : sreg (setSreg gr i n (v i)) j k = sreg gr j k := by
        unfold sreg
        rw [shadowed_setSreg]
        unfold setSreg
        by_cases hs : shadowed gr i = true
        · simp only [hs, if_true]
          cases hh : gr.handler with
          | none => rfl
          | some h =>
            have : 64 * j + k ≠ 64 * i + n := by omega
            simp [mgetD_mputD, this, sliceOf]
        · simp only [hs, Bool.false_eq_true, if_false, sliceOf, lmod_getElem?, hne]
      rw [this]
      by_cases h1 : j ∈ is <;> simp [h1, hne]

theorem regsOnly_foldl_setSreg (n : Nat) (v : Nat → W32) (is : List Nat) (gr : Group) :
    RegsOnly gr (is.foldl (fun gr i => setSreg gr i n (v i)) gr) := by
  induction is generalizing gr with
  | nil => exact RegsOnly.refl gr
  | cons l ls ih => exact (regsOnly_setSreg gr l n (v l)).trans (ih _)

theorem vreg_foldl_setSreg (n : Nat) (v : Nat → W32) (is : List Nat) (gr : Group) (r l : Nat) :
    vreg (is.foldl (fun gr i => setSreg gr i n (v i)) gr) r l = vreg gr r l := by
  induction is generalizing gr with
  | nil => rfl
  | cons i is ih => rw [List.foldl_cons, ih, vreg_setSreg]

theorem sliceOf_foldl_setSreg (n : Nat) (v : Nat → W32) (is : List Nat) (gr : Group) (j : Nat) :
    { sliceOf (is.foldl (fun gr i => setSreg gr i n (v i)) gr) j with sregs := [] } = { sliceOf gr j with sregs := [] } := by
  induction is generalizing gr with
  | nil => rfl
  | cons i is ih => rw [List.foldl_cons, ih, sliceOf_setSreg]

/-! ### A scalar destination -/

theorem regsOnly_setScalar (gr : Group) (m : BitVec 8) (n : Nat) (v : Nat → W32) : RegsOnly gr (setScalar gr m n v) := by
  unfold setScalar
  split
  · exact regsOnly_foldl_setSreg n v (membersOf m) gr
  · split <;> first | exact regsOnly_modMembers gr m _ | exact RegsOnly.refl gr

theorem vreg_setScalar (gr : Group) (m : BitVec 8) (n : Nat) (v : Nat → W32) (r l : Nat) : vreg (setScalar gr m n v) r l = vreg gr r l := by
  unfold setScalar
  split
  · exact vreg_foldl_setSreg n v (membersOf m) gr r l
  · split <;> rfl

theorem sreg_setScalar (gr : Group) (m : BitVec 8) (n : Nat) (v : Nat → W32) (j k : Nat) (hk : k < 64) (hj : j < gr.slices.length) :
    sreg (setScalar gr m n v) j k = if m.getLsbD j = true ∧ k = n then v j else sreg gr j k := by
  unfold setScalar
  split
  · next hn => rw [sreg_foldl_setSreg n v (membersOf m) gr j k hn hk hj]; simp [mem_membersOf]
  · next hn =>
    have : ¬(m.getLsbD j = true ∧ k = n) := by omega
    rw [if_neg this]
    split <;> first | exact sreg_modMembers gr m _ j k (fun _ _ => rfl) | rfl

/-- Slices after a scalar destination is written, registers apart. -/
theorem sliceOf_setScalar (gr : Group) (m : BitVec 8) (n : Nat) (v : Nat → W32) (j : Nat) (hj : j < gr.slices.length) :
    { sliceOf (setScalar gr m n v) j with sregs := [] } =
      { (if m.getLsbD j = true then
          (let x := sliceOf gr j
           { x with exec := if n = 64 then nibble (v j &&& ~~~gr.fmask) j else x.exec
                    vcc := if n = 65 then nibble (v j) j else x.vcc
                    scc := if n = 66 then (v j).getLsbD 0 else x.scc })
         else sliceOf gr j) with sregs := [] } := by
  unfold setScalar
  split
  · next hn =>
    rw [sliceOf_foldl_setSreg]
    have h4 : n ≠ 64 := by omega
    have h5 : n ≠ 65 := by omega
    have h6 : n ≠ 66 := by omega
    split <;> simp [h4, h5, h6]
  · next hn =>
    split
    · simp only [setExec, sliceOf_modMembers gr m _ j hj]; split <;> simp
    · simp only [setVcc, sliceOf_modMembers gr m _ j hj]; split <;> simp
    · simp only [setScc, sliceOf_modMembers gr m _ j hj]; split <;> simp
    · next h4 h5 h6 =>
      split
      · simp [h4, h5, h6]
      · rfl

/-! ### One issue -/

/-- What `issOf` answers. -/
theorem issOf_some {s : State} {i : Instr} {o : Operands} {iss : Iss} (h : issOf s i o = some iss) :
    s.cur = some { t := iss.t, g := iss.g, k := iss.k } ∧ sig i = some iss.sg ∧ teamOf s iss.t = some iss.tm ∧
    iss.tm.groups[iss.g]? = some iss.gr ∧ gangAt iss.gr iss.k = some iss.q ∧ iss.i = i ∧ iss.o = o ∧
    iss.pc = (sliceOf iss.gr iss.k).pc ∧ iss.act = gangExec iss.gr iss.q.members := by
  unfold issOf at h
  repeat' split at h
  all_goals first
    | cases h; done
    | (cases h; simp_all)

/-- The group of an issue gone on at an address. -/
def movedGroup (iss : Iss) (gr : Group) (pc : W64) : Group :=
  let gr := modMembers gr iss.q.members (fun _ x => movedTo iss.sg.closes pc x)
  let gr := if iss.sg.closes then { gr with allocs := if shadowed gr iss.k then gr.allocs else [], hallocs := [] } else gr
  modGang gr iss.k (fun q => { q with wait := none })

theorem moveOn_eq (s : State) (iss : Iss) (pc : W64) : moveOn s iss pc = modGroup s iss.t iss.g (fun gr => movedGroup iss gr pc) := rfl

theorem healDest_eq (s : State) (iss : Iss) : ∃ f : List BadWord → List BadWord, healDest s iss = modTeam s iss.t (fun tm => { tm with bad := f tm.bad }) ∨ healDest s iss = s := by
  unfold healDest
  split
  · exact ⟨id, .inr rfl⟩
  · exact ⟨_, .inl rfl⟩

/-- An instruction that replaces its group and goes on leaves the rest of the package. -/
theorem onlyGroup_finish {s : State} {iss : Iss} (gr : Group) (ht : teamOf s iss.t = some iss.tm) (hg : iss.tm.groups[iss.g]? = some iss.gr) :
    OnlyGroup s (moveOn (healDest (modGroup s iss.t iss.g (fun _ => gr)) iss) iss (nextPc iss)) iss (movedGroup iss gr (nextPc iss)) := by
  rw [moveOn_eq]
  have key : ∀ s1, (s1 = modGroup s iss.t iss.g (fun _ => gr) ∨ ∃ f : List BadWord → List BadWord, s1 = modTeam (modGroup s iss.t iss.g (fun _ => gr)) iss.t (fun tm => { tm with bad := f tm.bad })) →
      OnlyGroup s (modGroup s1 iss.t iss.g (fun gr => movedGroup iss gr (nextPc iss))) iss (movedGroup iss gr (nextPc iss)) := by
    intro s1 h1
    have hgr : lmod (lmod iss.tm.groups iss.g (fun _ => gr)) iss.g (fun gr => movedGroup iss gr (nextPc iss)) =
        lmod iss.tm.groups iss.g (fun _ => movedGroup iss gr (nextPc iss)) := by rw [lmod_lmod]
    rcases h1 with rfl | ⟨f, rfl⟩
    · refine ⟨rfl, fun _ => rfl, fun u hu => ?_, iss.tm.bad, ?_⟩
      · simp [teamOf_modGroup, hu]
      · simp [teamOf_modGroup, ht, hgr]
    · refine ⟨rfl, fun _ => rfl, fun u hu => ?_, f iss.tm.bad, ?_⟩
      · simp [teamOf_modGroup, teamOf_modTeam, hu]
      · simp [teamOf_modGroup, teamOf_modTeam, ht, hgr]
  obtain ⟨f, h | h⟩ := healDest_eq (modGroup s iss.t iss.g (fun _ => gr)) iss
  · exact key _ (.inr ⟨f, h⟩)
  · exact key _ (.inl h)

/-- A group effect of an undisturbed issue answers the next state its result gives. -/
theorem groupEffect_next {s : State} {i : Instr} {o : Operands} {iss : Iss} {f : Iss → Except Flt Group} {gr : Group}
    (h : Issues s i o iss) (hf : f iss = .ok gr) :
    groupEffect i o s f = .next (moveOn (healDest (modGroup s iss.t iss.g (fun _ => gr)) iss) iss (nextPc iss)) := by
  obtain ⟨h1, h2, h3, hm, h4, h5⟩ := h
  simp [groupEffect, issued, h1, h2, h3, hm, h4, h5, hf]

/-- What an undisturbed issue of an instruction answers, from its effect. -/
theorem issued_eq {s : State} {i : Instr} {o : Operands} {iss : Iss} {f : Iss → State → Res} (h : Issues s i o iss) :
    issued i o s f = match f iss s with
      | .ok (.adv s') => .next (moveOn (healDest s' iss) iss (nextPc iss))
      | .ok (.stay s') => .next s'
      | .ok (.wait k s') => .next (setWait s' iss.t iss.g iss.k k)
      | .error (fl, s') => .next (deliver s' iss.t iss.g iss.k iss.pc (iss.sg.kind != .lane) fl) := by
  obtain ⟨h1, h2, h3, hm, h4, h5⟩ := h
  simp only [issued, h1, h2, h3, hm, h4, h5, Bool.or_self, Bool.false_eq_true, if_false] <;>
  rfl

/-- From the group an effect leaves to what `Done` says: slices, scalar registers, vector registers. -/
theorem done_of_groupEffect {s : State} {i : Instr} {o : Operands} {iss : Iss} {f : Iss → Except Flt Group} {gr : Group}
    {F : Nat → Slice → Slice} {sw vw : Nat → Nat → Option W32}
    (h : Issues s i o iss) (hx : exec i s = groupEffect i o s f) (hf : f iss = .ok gr) (hk : RegsOnly iss.gr gr)
    (hs : ∀ j, j < iss.gr.slices.length → { sliceOf gr j with sregs := [] } =
      { (if iss.q.members.getLsbD j then F j (sliceOf iss.gr j) else sliceOf iss.gr j) with sregs := [] })
    (hr : ∀ j n, j < iss.gr.slices.length → n < 64 → sreg gr j n = (sw j n).getD (sreg iss.gr j n))
    (hv : ∀ r l, l < 32 → vreg gr r l = (vw r l).getD (vreg iss.gr r l)) :
    Done i s iss F sw vw := by
  obtain ⟨-, -, ht, hg, -⟩ := issOf_some h.1
  refine ⟨_, _, hx.trans (groupEffect_next h hf), onlyGroup_finish gr ht hg, ?_, ?_, ?_, ?_⟩
  · have hsh : shadowed gr iss.k = shadowed iss.gr iss.k := shadowed_of_handler hk.2.2 iss.k
    have ha : gr.allocs = iss.gr.allocs := by rw [hk.1]
    have hb : gr.hallocs = iss.gr.hallocs := by rw [hk.1]
    refine ⟨?_, ?_, ?_, ?_, ?_, ?_⟩
    · unfold movedGroup
      rw [hk.1]
      split <;> rfl
    · unfold movedGroup
      simp only [shadowed_modMembers, hsh]
      cases iss.sg.closes <;> cases shadowed iss.gr iss.k <;> exact (by first | rfl | exact ha)
    · unfold movedGroup
      cases iss.sg.closes <;> first | rfl | exact hb
    · unfold movedGroup
      rw [← hk.2.1]
      split <;> simp [modMembers]
    · have : gr.gangs = iss.gr.gangs := by rw [hk.1]
      unfold movedGroup
      rw [← this]
      split <;> (simp only [modGang, modMembers, List.map_map]; congr 1; funext q; simp only [Function.comp]; split <;> rfl)
    · rw [← hk.2.2]
      unfold movedGroup
      split <;> rfl
  · intro j hj
    have e : sliceOf (movedGroup iss gr (nextPc iss)) j = if iss.q.members.getLsbD j then movedTo iss.sg.closes (nextPc iss) (sliceOf gr j) else sliceOf gr j := by
      have hl : j < gr.slices.length := by rw [hk.2.1]; exact hj
      unfold movedGroup
      simp only [sliceOf_modGang]
      split <;> exact sliceOf_modMembers gr iss.q.members _ j hl
    rw [e]
    have := hs j hj
    by_cases hm : iss.q.members.getLsbD j = true
    · rw [if_pos hm, if_pos hm]
      rw [if_pos hm] at this
      have e2 : ∀ x : Slice, { movedTo iss.sg.closes (nextPc iss) x with sregs := [] } = movedTo iss.sg.closes (nextPc iss) { x with sregs := [] } := by
        intro x; unfold movedTo; split <;> rfl
      rw [e2, e2, this]
    · rw [if_neg hm, if_neg hm]
      rwa [if_neg hm] at this
  · intro j n hj hn
    rw [← hr j n hj hn]
    unfold movedGroup
    simp only [sreg_modGang]
    have : ∀ (j : Nat) x, (movedTo iss.sg.closes (nextPc iss) x).sregs = x.sregs := by intro j x; unfold movedTo; split <;> rfl
    split
    · exact sreg_modMembers gr iss.q.members _ j n this
    · exact sreg_modMembers gr iss.q.members _ j n this
  · intro r l hl
    rw [← hv r l hl]
    unfold movedGroup
    split <;> rfl

/-! ### From an effect to what an issue comes to -/

theorem goesOn_of {s s' : State} {i : Instr} {o : Operands} {iss : Iss} {f : Iss → State → Res} (h : Issues s i o iss)
    (hx : exec i s = issued i o s f) (hf : f iss s = .ok (.adv s')) : GoesOn i s iss s' := by
  unfold GoesOn goneOn; rw [hx, issued_eq h, hf]

theorem stays_of {s s' : State} {i : Instr} {o : Operands} {iss : Iss} {f : Iss → State → Res} (h : Issues s i o iss)
    (hx : exec i s = issued i o s f) (hf : f iss s = .ok (.stay s')) : exec i s = .next s' := by
  rw [hx, issued_eq h, hf]

theorem waits_of {s : State} {i : Instr} {o : Operands} {iss : Iss} {k : WaitKind} {f : Iss → State → Res} (h : Issues s i o iss)
    (hx : exec i s = issued i o s f) (hf : f iss s = .ok (.wait k s)) : Waits i s iss k := by
  unfold Waits; rw [hx, issued_eq h, hf]

theorem stops_of {s : State} {i : Instr} {o : Operands} {iss : Iss} {fl : Flt} {f : Iss → State → Res} (h : Issues s i o iss)
    (hx : exec i s = issued i o s f) (hf : f iss s = .error (fl, s)) : Stops i s iss fl := by
  unfold Stops; rw [hx, issued_eq h, hf]

theorem group_goesOn {s : State} {i : Instr} {o : Operands} {iss : Iss} {gr : Group} {f : Iss → Except Flt Group} (h : Issues s i o iss)
    (hx : exec i s = groupEffect i o s f) (hf : f iss = .ok gr) : GoesOn i s iss (withGroup s iss gr) :=
  hx.trans (groupEffect_next h hf)

theorem group_stops {s : State} {i : Instr} {o : Operands} {iss : Iss} {fl : Flt} {f : Iss → Except Flt Group} (h : Issues s i o iss)
    (hx : exec i s = groupEffect i o s f) (hf : f iss = .error fl) : Stops i s iss fl := by
  refine stops_of h hx ?_; simp only [hf]

theorem iss_o {s : State} {i : Instr} {o : Operands} {iss : Iss} (h : Issues s i o iss) : iss.o = o := (issOf_some h.1).2.2.2.2.2.2.1

end Sys2Proof.Machine
end

