-- ==== Sys2Proof/Laws/Shapes.lean ====
section
/-! SUPPORT. What each shape of result can do: a scalar, a register pair, scc, the active lanes of a register, a lane mask. -/

namespace Sys2Proof.Machine

open Sys2Proof.Safety

theorem lo_eq (w : W64) : Word.lo w = w.extractLsb' 0 32 := by
  apply BitVec.eq_of_getLsbD_eq; intro i hi; simp [Word.lo, hi]
theorem hi_eq (w : W64) : Word.hi w = w.extractLsb' 32 32 := by
  apply BitVec.eq_of_getLsbD_eq; intro i hi; simp [Word.hi, hi]

theorem sreg_sccWrite (iss : Iss) (b : Nat → Option Bool) (j n : Nat) : sreg (sccWrite iss b) j n = sreg iss.gr j n :=
  sreg_modMembers _ _ _ _ _ (fun _ _ => rfl)

@[simp] theorem slices_length_sccWrite (iss : Iss) (b : Nat → Option Bool) : (sccWrite iss b).slices.length = iss.gr.slices.length := by
  simp [sccWrite]

theorem sliceOf_sccWrite (iss : Iss) (b : Nat → Option Bool) (j : Nat) (hj : j < iss.gr.slices.length) :
    sliceOf (sccWrite iss b) j =
      if iss.q.members.getLsbD j then { sliceOf iss.gr j with scc := (b j).getD (sliceOf iss.gr j).scc } else sliceOf iss.gr j :=
  sliceOf_modMembers _ _ _ _ hj

theorem regsOnly_sliceWrite (iss : Iss) (r : Nat → W32 × Option Bool) : RegsOnly iss.gr (sliceWrite iss r) :=
  (regsOnly_modMembers _ _ _).trans (regsOnly_setScalar _ _ _ _)

/-- A scalar result, slice by slice. -/
theorem sliceOf_sliceWrite (iss : Iss) (r : Nat → W32 × Option Bool) (j : Nat) (hj : j < iss.gr.slices.length) :
    { sliceOf (sliceWrite iss r) j with sregs := [] } =
      { (if iss.q.members.getLsbD j then scalarSlice iss r j (sliceOf iss.gr j) else sliceOf iss.gr j) with sregs := [] } := by
  unfold sliceWrite
  rw [sliceOf_setScalar _ _ _ _ _ (by simpa using hj), sliceOf_sccWrite _ _ _ hj]
  unfold scalarSlice
  by_cases hm : iss.q.members.getLsbD j = true
  · simp only [hm, if_true]; rfl
  · simp only [hm, Bool.false_eq_true, if_false]

theorem sreg_sliceWrite (iss : Iss) (r : Nat → W32 × Option Bool) (j n : Nat) (hj : j < iss.gr.slices.length) (hn : n < 64) :
    sreg (sliceWrite iss r) j n = (scalarRegs iss r j n).getD (sreg iss.gr j n) := by
  unfold sliceWrite
  rw [sreg_setScalar _ _ _ _ _ _ hn (by simpa using hj), sreg_sccWrite]
  unfold scalarRegs
  by_cases h : iss.q.members.getLsbD j = true ∧ n = dstNum iss.o.dst
  · simp [h]
  · rw [if_neg h]
    have : (iss.q.members.getLsbD j && n == dstNum iss.o.dst) = false := by
      by_cases h1 : iss.q.members.getLsbD j = true <;> by_cases h2 : n = dstNum iss.o.dst <;> simp_all
    rw [this]; rfl

theorem vreg_sliceWrite (iss : Iss) (r : Nat → W32 × Option Bool) (q l : Nat) : vreg (sliceWrite iss r) q l = vreg iss.gr q l := by
  unfold sliceWrite
  rw [vreg_setScalar]; rfl

/-- An instruction whose whole effect is a scalar result. -/
theorem sliceWrite_done {s : State} {i : Instr} {o : Operands} {iss : Iss} {f : Iss → Except Flt Group} {r : Nat → W32 × Option Bool}
    (h : Issues s i o iss) (hx : exec i s = groupEffect i o s f) (hf : f iss = .ok (sliceWrite iss r)) : ScalarDone i s iss r :=
  done_of_groupEffect h hx hf (regsOnly_sliceWrite iss r) (fun j hj => sliceOf_sliceWrite iss r j hj)
    (fun j n hj hn => sreg_sliceWrite iss r j n hj hn) (fun q l _ => vreg_sliceWrite iss r q l)

theorem scalarOp_done {s : State} {i : Instr} {o : Operands} {iss : Iss} {f : W32 → W32 → W32 → W32 × Option Bool} {r : Nat → W32 × Option Bool}
    (h : Issues s i o iss) (hx : exec i s = scalarOp i o s f)
    (hr : ∀ j, f (scal32 s iss j o.a) (scal32 s iss j o.b) (scal32 s iss j o.c) = r j) : ScalarDone i s iss r :=
  funext hr ▸ sliceWrite_done h hx rfl

/-- The destination pair of a 64-bit instruction is aligned below s64. -/
theorem pair_lt {n : Nat} (h : n < 64) (h2 : n % 2 = 0) : n + 1 < 64 := by omega

theorem regsOnly_sliceWrite64 (iss : Iss) (r : Nat → W64 × Option Bool) : RegsOnly iss.gr (sliceWrite64 iss r) :=
  ((regsOnly_modMembers _ _ _).trans (regsOnly_setScalar _ _ _ _)).trans (regsOnly_setScalar _ _ _ _)

theorem sliceOf_sliceWrite64 (iss : Iss) (r : Nat → W64 × Option Bool) (j : Nat) (hj : j < iss.gr.slices.length) (hd : dstNum iss.o.dst + 1 < 64) :
    { sliceOf (sliceWrite64 iss r) j with sregs := [] } =
      { (if iss.q.members.getLsbD j then { sliceOf iss.gr j with scc := (r j).2.getD (sliceOf iss.gr j).scc } else sliceOf iss.gr j) with sregs := [] } := by
  have low : ∀ (gr : Group) (m : BitVec 8) (n : Nat) (v : Nat → W32), n < 64 → { sliceOf (setScalar gr m n v) j with sregs := [] } = { sliceOf gr j with sregs := [] } := by
    intro gr m n v hn
    unfold setScalar
    rw [if_pos hn, sliceOf_foldl_setSreg]
  unfold sliceWrite64
  rw [low _ _ _ _ (by omega), low _ _ _ _ (by omega), sliceOf_sccWrite _ _ _ hj]

theorem sreg_sliceWrite64 (iss : Iss) (r : Nat → W64 × Option Bool) (j n : Nat) (hj : j < iss.gr.slices.length) (hn : n < 64) :
    sreg (sliceWrite64 iss r) j n =
      (if iss.q.members.getLsbD j && n == dstNum iss.o.dst then some ((r j).1.extractLsb' 0 32)
        else if iss.q.members.getLsbD j && n == dstNum iss.o.dst + 1 then some ((r j).1.extractLsb' 32 32) else none).getD (sreg iss.gr j n) := by
  unfold sliceWrite64
  have hl : j < (sccWrite iss (fun i => (r i).2)).slices.length := by simpa using hj
  rw [sreg_setScalar _ _ _ _ _ _ hn (by rw [(regsOnly_setScalar _ _ _ _).2.1]; exact hl), sreg_setScalar _ _ _ _ _ _ hn hl, sreg_sccWrite]
  by_cases hm : iss.q.members.getLsbD j = true <;> by_cases h1 : n = dstNum iss.o.dst <;> by_cases h2 : n = dstNum iss.o.dst + 1 <;>
    simp_all [lo_eq, hi_eq]

/-- A 64-bit scalar result. -/
theorem scalarOp64_done {s : State} {i : Instr} {o : Operands} {iss : Iss} {f : W64 → W64 → W32 → W64 × Option Bool} {r : Nat → W64 × Option Bool}
    (h : Issues s i o iss) (hx : exec i s = scalarOp64 i o s f) (hd : dstNum iss.o.dst + 1 < 64)
    (hr : ∀ j, f (scal64 s iss j o.a) (scal64 s iss j o.b) (scal32 s iss j o.b) = r j) : PairDone i s iss r :=
  funext hr ▸ done_of_groupEffect h hx rfl (regsOnly_sliceWrite64 iss _) (fun j hj => sliceOf_sliceWrite64 iss _ j hj hd)
    (fun j n hj hn => sreg_sliceWrite64 iss _ j n hj hn)
    (fun q l _ => by unfold sliceWrite64; rw [vreg_setScalar, vreg_setScalar]; rfl)

/-- An instruction whose whole effect is scc. -/
theorem setScc_done {s : State} {i : Instr} {o : Operands} {iss : Iss} {f : Iss → Except Flt Group} {r : Nat → Bool}
    (h : Issues s i o iss) (hx : exec i s = groupEffect i o s f) (hf : f iss = .ok (setScc iss.gr iss.q.members r)) : SccDone i s iss r :=
  done_of_groupEffect h hx hf (regsOnly_modMembers _ _ _)
    (fun j hj => by unfold setScc; rw [sliceOf_modMembers _ _ _ _ hj])
    (fun j n _ _ => sreg_modMembers _ _ _ _ _ (fun _ _ => rfl)) (fun _ _ _ => rfl)

/-- A lane instruction. -/
theorem setLanes_done {s : State} {i : Instr} {o : Operands} {iss : Iss} {f : Iss → Except Flt Group} {v : Nat → W32}
    (h : Issues s i o iss) (hx : exec i s = groupEffect i o s f) (hf : f iss = .ok (setLanes iss.gr (dstNum iss.o.dst) iss.act v)) : LaneDone i s iss v :=
  done_of_groupEffect h hx hf (regsOnly_setLanes _ _ _ _)
    (fun j _ => by rw [sliceOf_setLanes]; split <;> rfl) (fun j n _ _ => by rw [sreg_setLanes]; rfl)
    (fun q l hl => by
      rw [vreg_setLanes _ _ _ _ _ _ hl]
      by_cases h1 : q = dstNum iss.o.dst <;> by_cases h2 : laneIn iss.act l = true <;> simp [h1, h2])

theorem laneOp_done {s : State} {i : Instr} {o : Operands} {iss : Iss} {f : Iss → Nat → W32} {r : Nat → W32}
    (h : Issues s i o iss) (hx : exec i s = laneOp i o s f) (hr : ∀ l, f iss l = r l) : LaneDone i s iss r := by
  have ho : iss.o = o := iss_o h
  rw [← funext hr]
  exact setLanes_done h hx (by rw [ho])

/-- A lane instruction whose result is a mask. -/
theorem lmaskOp_done {s : State} {i : Instr} {o : Operands} {iss : Iss} {f : Iss → Nat → Bool} {r : Nat → Bool}
    (h : Issues s i o iss) (hx : exec i s = lmaskOp i o s f) (hr : ∀ l, f iss l = r l) : MaskDone i s iss r :=
  funext hr ▸ done_of_groupEffect h hx rfl (regsOnly_setScalar _ _ _ _)
    (fun j hj => by
      unfold maskWrite
      rw [sliceOf_setScalar _ _ _ _ _ hj]
      rfl)
    (fun j n hj hn => by
      unfold maskWrite
      rw [sreg_setScalar _ _ _ _ _ _ hn hj]
      unfold scalarRegs activeMask
      by_cases h1 : iss.q.members.getLsbD j = true <;> by_cases h2 : n = dstNum iss.o.dst <;> simp [h1, h2])
    (fun q l _ => by unfold maskWrite; rw [vreg_setScalar]; rfl)

end Sys2Proof.Machine
end

