-- ==== Sys2Proof/Tests/Slice0.lean ====
section
/-! SUPPORT. Tests: ill-formed terms refused, words written out from the encodings of the spec, single steps with results taken from
the spec's worked examples or worked out by hand, and for each obligation with hypotheses a state and operands that meet them. -/

namespace Sys2Proof.Tests

open Sys2Proof.Machine Sys2Proof.Safety

set_option Elab.async false

/-! ### Helpers -/

def op (f : Form) (d : Dst) (a b : Src) (c : Src := .vec 0) (m : BitVec 13 := 0) (x : BitVec 38 := 0) (lit : BitVec 64 := 0) (e : Src := .vec 0) : Operands :=
  { form := f, dst := d, a := a, b := b, c := c, d := e, m := m, x := x, lit := lit }
def none_ : Dst := .vec 0
def z : Src := .vec 0

/-- Context 0 with a privileged team of one group on core 0, whose one gang is about to issue. -/
def base : State := { placedState State.reset [] with cur := some { t := 0, g := 0, k := 0 }, agenda := [] }
def modG (f : Group → Group) (s : State) : State := modGroup s 0 0 f
def modT (f : Team → Team) (s : State) : State := modTeam s 0 f
def modC (f : Ctx → Ctx) (s : State) : State := modCtx s 0 f
/-- Scalar register n of every slice. -/
def setS (n : Nat) (v : W32) (s : State) : State := modG (fun gr => { gr with slices := gr.slices.map (fun x => { x with sregs := mputD x.sregs 0 n v }) }) s
/-- Vector register r, lane by lane. -/
def setV (r : Nat) (v : Nat → W32) (s : State) : State := modG (fun gr => setLanes gr r 0xFFFFFFFF v) s
def setFmt (v : W32) (s : State) : State := modG (fun gr => { gr with slices := gr.slices.map (fun x => { x with fmt := v }) }) s
def setExec4 (v : BitVec 4) (s : State) : State := modG (fun gr => { gr with slices := gr.slices.map (fun x => { x with exec := v }) }) s
/-- exec of every slice from a lane mask. -/
def only (m : W32) (s : State) : State := modG (fun gr => { gr with slices := gr.slices.mapIdx (fun j x => { x with exec := nibble m j }) }) s
/-- Vector registers as listed, at 32 r + lane. -/
def withV (m : Map W32) (s : State) : State := modG (fun gr => { gr with vregs := m }) s
/-- A 1-D record in b1 (s4 to s7): base, extent, stride, element size log2. -/
def setRec (base extent stride esz fmt : Nat) (s : State) : State :=
  setS 7 (BitVec.ofNat 32 (esz * 2 ^ 22 + fmt * 2 ^ 16 + stride)) (setS 6 (BitVec.ofNat 32 extent) (setS 5 (BitVec.ofNat 32 (base / 2 ^ 32)) (setS 4 (BitVec.ofNat 32 base) s)))

def go (i : Instr) (s : State) : Option State := match exec i s with | .next t => some t | _ => none
def goS (i : Instr) (s : State) : State := (go i s).getD s
def gr0 (s : State) : Option Group := groupOf s 0 0
def sr (s : Option State) (j n : Nat) : Option W32 := s.bind (fun s => (gr0 s).map (fun g => sreg g j n))
def vr (s : Option State) (r l : Nat) : Option W32 := s.bind (fun s => (gr0 s).map (fun g => vreg g r l))
def pc0 (s : Option State) (j : Nat) : Option W64 := s.bind (fun s => (gr0 s).map (fun g => (sliceOf g j).pc))
def scc0 (s : Option State) (j : Nat) : Option Bool := s.bind (fun s => (gr0 s).map (fun g => (sliceOf g j).scc))
/-- Class and code of the first record of context 0. -/
def firstCode (s : Option State) : Option (Nat × Nat) :=
  s.bind (fun s => (ctxOf s 0).bind (fun q => q.records.head?.map (fun r => (leNat ((r.bytes.drop 4).take 4), leNat ((r.bytes.drop 8).take 4)))))

/-! ### WellFormed refuses -/

theorem test_wf_accepts : WellFormed (.sadd (op .f64 (.scal 3) (.scal 4) (.scal 5))) = true := by decide +kernel
/-- R156: VMAD is F96C only. -/
theorem test_wf_form : WellFormed (.vmad (op .f64 (.vec 3) (.vec 4) (.vec 5))) = false := by decide +kernel
/-- R148: F64 has no literal, no source C, no xmod. -/
theorem test_wf_f64_literal : WellFormed (.sadd (op .f64 (.scal 3) (.scal 4) (.scal 5) z 0 0 1)) = false := by decide +kernel
theorem test_wf_f64_c : WellFormed (.sadd (op .f64 (.scal 3) (.scal 4) (.scal 5) (.vec 1))) = false := by decide +kernel
theorem test_wf_f96c_x : WellFormed (.vmad (op .f96c (.vec 3) (.vec 4) (.vec 5) (.vec 6) 0 (2 ^ 19))) = false := by decide +kernel
theorem test_wf_f96l_lit : WellFormed (.sadd (op .f96l (.scal 3) (.lit 0x400) (.scal 5) z 0 0 (2 ^ 32))) = false := by decide +kernel
theorem test_wf_f128c_lit : WellFormed (.tcopy (op .f128c none_ (.scal 8) (.scal 12) (.scal 16) 0 0 1 (.lit 16))) = false := by decide +kernel
theorem test_wf_f128l_d : WellFormed (.smov64 (op .f128l (.scal 8) (.lit 0x400) z z 0 0 5 (.vec 1))) = false := by decide +kernel
/-- R149: a destination or source the instruction does not use is reserved. -/
theorem test_wf_dst : WellFormed (.exit (op .f64 (.vec 1) z z)) = false := by decide +kernel
theorem test_wf_src : WellFormed (.smov (op .f64 (.scal 1) (.scal 2) (.scal 3))) = false := by decide +kernel
/-- R157: an unassigned modifier bit is reserved. -/
theorem test_wf_mod : WellFormed (.sadd (op .f64 (.scal 3) (.scal 4) (.scal 5) z 1)) = false := by decide +kernel
theorem test_wf_xmod : WellFormed (.vmad (op .f96c (.vec 3) (.vec 4) (.vec 5) (.vec 6) 0 1)) = false := by decide +kernel
/-- The variant is the one its field names. -/
theorem test_wf_variant : WellFormed (.fence (op .f64 none_ z z z 0x20)) = false ∧ WellFormed (.fenceSmp (op .f64 none_ z z z 0x20)) = true := by decide +kernel
/-- R144: a pool of length 0 is a reserved word. -/
theorem test_wf_pool : WellFormed (.poolHeader 0) = false ∧ WellFormed (.poolHeader 0x10000) = false := by decide +kernel

/-! ### Words of the spec's worked encodings, and words written out from the tables of R147, R148 and R156 -/

def dec (ws : List Nat) : Option Instr := decodeTableWord (32 * ws.length) (ws.foldr (fun x a => x + 2 ^ 32 * a) 0)

theorem test_dec_control :
    dec [0x00000039, 0] = some (.exit (op .f64 none_ z z)) ∧ dec [0xEB000015, 0x1F] = some (.brany (op .f64 none_ (.lit 0x7FA) z)) ∧
    dec [0x0300004A, 0x80000010, 0x0010306D] = some (.sfmt (op .f96l none_ (.lit 0x400) z z 0 0 0x10306D)) ∧
    dec [0x03001045, 0] = some (.getid (op .f64 (.vec 1) (.lit 0) z)) := by decide +kernel
/-- SADD s3, s4, s5: opcode 0x041; dst kind 1 number 3; A tag 01 value 4; B tag 01 value 5. -/
theorem test_dec_scalar : dec [0x11803105, 0x2A0] = some (.sadd (op .f64 (.scal 3) (.scal 4) (.scal 5))) := by decide +kernel
theorem test_dec_pair_mask :
    dec [0x0380821B, 0x80000010, 0, 1] = some (.smov64 (op .f128l (.scal 8) (.lit 0x400) z z 0 0 0x100000000)) ∧
    dec [0x0581421D, 1] = some (.msave (op .f64 (.scal 20) (.scal 65) z)) := by decide +kernel
theorem test_dec_vector :
    dec [0x04841339, 0x04000560] = some (.vcmp (op .f64 (.scal 65) (.vec 1) (.lit 10) z 0x100)) ∧
    dec [0x00001401, 0x3E0] = some (.vfadd (op .f64 (.vec 1) (.vec 0) (.lit 7))) ∧
    dec [0x0400240E, 0x8040, 0x406] = some (.vfma (op .f96c (.vec 2) (.vec 1) (.const 0x100) (.const 0x101))) := by decide +kernel
/-- VRCP v1, v2: opcode 0x140. -/
theorem test_dec_functions :
    dec [0x08003521, 0x04040000] = some (.vcvt (op .f64 (.vec 3) (.vec 2) z z 0x101)) ∧ dec [0x08001501, 0] = some (.vrcp (op .f64 (.vec 1) (.vec 2) z)) := by decide +kernel
/-- VSHUF v1, v2, v3: opcode 0x182. -/
theorem test_dec_lanes : dec [0x08001609, 0x180] = some (.vshuf (op .f64 (.vec 1) (.vec 2) (.vec 3))) := by decide +kernel
theorem test_dec_memory :
    dec [0x1100C702, 0x20340200, 0x00080000] = some (.vld (op .f96c (.vec 12) (.scal 4) (.vec 4) z 0x80D 0x40)) ∧
    dec [0x02002701, 0x20000084] = some (.vld (op .f64 (.vec 2) (.const 0x100) (.vec 1) z 0x800)) ∧
    dec [0x02000706, 0x20000004, 0x20] = some (.vst (op .f96c none_ (.const 0x100) (.vec 0) (.vec 8) 0x800)) ∧
    dec [0x0000090D, 0x00900000] = some (.fenceSmp (op .f64 none_ z z z 0x24)) := by decide +kernel
/-- VSAMPLE.REPEAT.LIN v4, b1, v0, v1: opcode 0x280, wrap 1 in [60:59], filt 1 in [58]. -/
theorem test_dec_sampler : dec [0x11004A02, 0x0C000000, 4] = some (.vsample (op .f96c (.vec 4) (.scal 4) (.vec 0) (.vec 1) 0x300)) := by decide +kernel
/-- TCOPY.GS.EXP b2, b3, b4, 0x10: opcode 0x283, dkind 1 in [62:61], exp in [59], D in [89:77]. -/
theorem test_dec_copy : dec [0x21000A0F, 0x28000620, 0x86041, 0] = some (.tcopy (op .f128c none_ (.scal 8) (.scal 12) (.scal 16) 0xA00 0 0 (.lit 16))) := by decide +kernel
/-- BARINIT 0x40, 1: opcode 0x2C0. -/
theorem test_dec_sync :
    dec [0x03000B01, 0xE1] = some (.barinit (op .f64 none_ (.lit 0x40) (.lit 1))) ∧ dec [0x27000B15, 0x520] = some (.tlwait (op .f64 none_ (.lit 9) (.scal 10))) ∧
    dec [0x1F000B22, 0x1060, 0x43] = some (.mbpost (op .f96c none_ (.lit 7) (.lit 32) (.lit 16))) := by decide +kernel
theorem test_dec_matrix :
    dec [0x03000C01, 0x60] = some (.mjob (op .f64 none_ (.lit 0) (.lit 0))) ∧ dec [0x00806C05, 0x00040000] = some (.commit (op .f64 (.scal 6) z z z 1)) ∧
    dec [0x03000C09, 0] = some (.mwait (op .f64 none_ (.lit 0) z)) ∧ dec [0x0F804C0D, 0] = some (.mquery (op .f64 (.scal 4) (.lit 3) z)) := by decide +kernel
theorem test_dec_rendezvous :
    dec [0x00808D01, 0] = some (.tagalloc (op .f64 (.scal 8) z z)) ∧ dec [0x21000D05, 0x00010060] = some (.tagset (op .f64 none_ (.scal 8) (.lit 0x200))) ∧
    dec [0x21000D0E, 0x00058060, 0x103] = some (.rvsend (op .f96c none_ (.scal 8) (.lit 0x300) (.lit 0x40) 1)) ∧ dec [0x00000D15, 0] = some (.gdone (op .f64 none_ z z)) := by decide +kernel
theorem test_dec_supervisor :
    dec [0x0B80AE19, 0] = some (.poolget (op .f64 (.scal 10) (.lit 2) z)) ∧ dec [0x00000E09, 0x00040000] = some (.tretOff (op .f64 none_ z z z 1)) ∧
    dec [0x17000E1D, 0xF60] = some (.haltctx (op .f64 none_ (.lit 5) (.lit 30))) ∧ dec [0x07000E25, 0x4060] = some (.prdecl (op .f64 none_ (.lit 1) (.lit 0x80))) := by decide +kernel
/-- R142 to R144: a word of zeros is a filler; another word with len 0 a pool header, length in its low half. -/
theorem test_dec_other : dec [0] = some .filler ∧ dec [0xABCD000C] = some (.poolHeader 0x2AF34003) := by decide +kernel
/-- R352: a reserved opcode, a form the opcode does not accept, a reserved word, a reserved bit. -/
theorem test_dec_refused :
    [0x00000001_00000F01, 0x00000000_0000030E, 0x00040000, 0x80000000_00000001].map (fun w => match decode w with | .error c => some c | .ok _ => none) = [some 1, some 2, some 4, some 5] := by decide +kernel

/-! ### Single steps -/

/-- R44, R195: VFADD.F32 v1, v0, 7 as the first instruction after reset: 0.0 + 7.0. -/
theorem test_step_vfadd :
    (match step (State.reset.withFetchWord 64 0x000003E000001401) with | .next s => (vr (some s) 1 31, pc0 (some s) 7, s.cycle) | _ => (none, none, 0)) =
      (some 0x40E00000, some 0x20008, 1) := by decide +kernel
/-- R143: a filler goes to the next 32-byte boundary. -/
theorem test_step_filler : (match step (State.reset.withFetchWord 32 0) with | .next s => pc0 (some s) 0 | _ => none) = some 0x20020 := by decide +kernel
/-- R354: a reserved opcode raises 0.1. -/
theorem test_step_illegal : (match step (State.reset.withFetchWord 64 0xF01) with | .next s => firstCode (some s) | _ => none) = some (0, 1) := by decide +kernel
/-- R466, R470: a start whose steps all pass leaves an entry of code 4 for each. -/
theorem test_power_on : (go (.powerOnReset [] 5 ⟨[], []⟩) State.reset).map (fun s => (s.boot.running, s.boot.entries, s.deviceId)) = some (true, List.replicate 16 0x4000, 5) := by decide +kernel

def s1 : State := setS 5 1 (setS 4 0xFFFFFFFF base)
def r3 (f : Operands → Instr) (s : State) : Option State := go (f (op .f64 (.scal 3) (.scal 4) (.scal 5))) s
/-- R183: carry out of bit 31; borrow; signed product; division by zero. -/
theorem test_sadd : (sr (r3 .sadd s1) 2 3, scc0 (r3 .sadd s1) 2, pc0 (r3 .sadd s1) 2) = (some 0, some true, some 0x20008) := by decide +kernel
theorem test_ssub : (sr (r3 .ssub (setS 4 1 (setS 5 2 base))) 0 3, scc0 (r3 .ssub (setS 4 1 (setS 5 2 base))) 0) = (some 0xFFFFFFFF, some true) := by decide +kernel
theorem test_smulhi : (sr (r3 .smulhi s1) 0 3, sr (r3 .smulhu (setS 5 2 s1)) 0 3) = (some 0xFFFFFFFF, some 1) := by decide +kernel
theorem test_sdivu : (sr (r3 .sdivu (setS 5 0 s1)) 0 3, scc0 (r3 .sdivu (setS 5 0 s1)) 0) = (some 0xFFFFFFFF, some false) := by decide +kernel
theorem test_ssra : sr (r3 .ssra (setS 4 0x80000000 (setS 5 33 base))) 0 3 = some 0xC0000000 := by decide +kernel
/-- R185: field 8 of 4 bits at offset 4, sign-extended. -/
theorem test_sbfe : sr (go (.sbfe (op .f96c (.scal 3) (.scal 4) (.lit 4) (.lit 4) 1)) (setS 4 0x80 base)) 0 3 = some 0xFFFFFFF8 := by decide +kernel
/-- R185: offset 8, width 4 in c[13:8]. -/
theorem test_sbfi : sr (go (.sbfi (op .f96c (.scal 3) (.scal 4) (.lit 5) (.scal 5))) (setS 5 0x408 (setS 4 0xFFFFFFFF base))) 0 3 = some 0xFFFFF5FF := by decide +kernel
/-- R186: 2^32 - 1 + 1 into q2. -/
theorem test_sadd64 : (sr (go (.sadd64 (op .f64 (.scal 8) (.scal 4) (.lit 1))) (setS 4 0xFFFFFFFF base)) 0 9, scc0 (go (.sadd64 (op .f64 (.scal 8) (.scal 4) (.lit 1))) (setS 4 0xFFFFFFFF base)) 0) = (some 1, some false) := by decide +kernel
/-- R187: MSAVE keeps the old exec in d, and leaves lanes 0 to 15. -/
theorem test_msave :
    let t := go (.msave (op .f96l (.scal 20) (.lit 0x400) z z 0 0 0xFFFF)) base
    (sr t 0 20, scc0 t 7, t.bind (fun s => (gr0 s).map (fun g => gangExec g 0xFF))) = (some 0xFFFFFFFF, some true, some 0xFFFF) := by decide +kernel
/-- R192: packed bytes wrap one by one. -/
theorem test_vadd : vr (go (.vadd (op .f64 (.vec 2) (.vec 0) (.vec 1) z 4)) (setV 0 (fun _ => 0x7F7FFF01) (setV 1 (fun _ => 0x010101FF) base))) 2 9 = some 0x80800000 := by decide +kernel
/-- R194: carry out into vcc of the active lanes. -/
theorem test_vaddc :
    let t := go (.vaddc (op .f64 (.vec 2) (.vec 0) (.lit 1))) (setExec4 3 (setV 0 (fun l => if l = 4 then 0xFFFFFFFF else 7) base))
    (vr t 2 4, vr t 2 5, vr t 2 6, t.bind (fun s => (gr0 s).map (fun g => gangVcc g 0xFF))) = (some 0, some 8, some 0, some 0x10) := by decide +kernel
/-- R197: minimumNumber of NaN and 1.0; R196: −0.5 truncates to −0. -/
theorem test_vfmin : vr (go (.vfmin (op .f64 (.vec 2) (.vec 0) (.lit 1))) (setV 0 (fun _ => 0x7F800001) base)) 2 0 = some 0x3F800000 := by decide +kernel
theorem test_vftrunc : vr (go (.vftrunc (op .f64 (.vec 2) (.vec 0) z)) (setV 0 (fun _ => 0xBF000000) base)) 2 0 = some 0x80000000 := by decide +kernel
/-- R203, R67: the worked ties of chapter 03: 1.0625 to E4M3 under the default rule and under rnd 0b01. -/
def cvt : Instr := .vcvt (op .f64 (.vec 3) (.vec 2) z z (BitVec.ofNat 13 (4 * 32 + 1)))
theorem test_vcvt_default : vr (go cvt (setV 2 (fun _ => 0x3F880000) base)) 3 0 = some 0x39 := by decide +kernel
theorem test_vcvt_even : vr (go cvt (setFmt 0x400000 (setV 2 (fun _ => 0x3F880000) base))) 3 0 = some 0x38 := by decide +kernel
/-- R204: the worked packing of chapter 08. -/
def packed8 : State := only 0x120 (withV ((List.range 8).flatMap (fun j => [(32 * (10 + j) + 5, BitVec.ofNat 32 (5 + j)), (32 * (10 + j) + 8, BitVec.ofNat 32 (8 + j))])) (modG (fun gr => { gr with budget := 64 }) base))
theorem test_vpack :
    let t := go (.vpack (op .f64 (.vec 20) (.vec 10) z z 1)) packed8
    (vr t 20 5, vr t 20 8, vr (go (.vunpack (op .f64 (.vec 30) (.vec 20) z z 9)) (t.getD base)) 36 8) = (some 0xCBA98765, some 0xFEDCBA98, some 0xFFFFFFFE) := by decide +kernel
/-- R208, R205, R206: the worked channel of chapter 08. -/
def channel : State :=
  only 0xF (withV ((List.range 4).map (fun l => (l, 0xBF800000)) ++ (List.range 4).map (fun l => (32 + l, 0x40400000)) ++ [(64, 0xBF800000), (66, 0x3F800000), (67, 0x40400000)]) base)
def ranged : State := goS (.qrange (op .f96c (.vec 4) (.vec 0) (.vec 1) (.lit 17))) channel
theorem test_qrange : (vr (some ranged) 4 0, vr (some ranged) 5 0, scc0 (some ranged) 0) = (some 0x3C808081, some 0xC2800000, some true) := by decide +kernel
def quantised : State := goS (.vquant (op .f96c (.vec 6) (.vec 2) (.vec 4) (.vec 5))) (setFmt 0x111000 ranged)
theorem test_vquant : (List.range 4).map (vr (some quantised) 6) = [some 0, some 64, some 128, some 255] := by decide +kernel
theorem test_vdeq : (List.range 4).map (vr (go (.vdeq (op .f96c (.vec 7) (.vec 6) (.vec 4) (.vec 5))) (setFmt 17 quantised)) 7) =
    [some 0xBF808081, some 0, some 0x3F808081, some 0x403FBFC0] := by decide +kernel
/-- R210: the worked tree and fold of chapter 08. -/
def tree : State := setV 7 (fun l => match l with | 0 => 0x3F800000 | 2 => 0x33800000 | 3 => 0x33800000 | _ => 0) base
theorem test_vreduce : vr (go (.vreduce (op .f64 (.vec 6) (.vec 7) z z 8)) tree) 6 17 = some 0x3F800001 := by decide +kernel
theorem test_vscan : vr (go (.vscan (op .f64 (.vec 6) (.vec 7) z z 8)) tree) 6 31 = some 0x3F800000 := by decide +kernel

/-- R174, R175: BR −2 at 0x20000; CALL leaves the return address. -/
theorem test_br : (pc0 (go (.br (op .f64 none_ (.lit 0x7FE) z)) base) 5, pc0 (go (.br (op .f64 none_ (.lit 4) z)) base) 0) = (some 0x1FFF8, some 0x20010) := by decide +kernel
theorem test_call : (let t := go (.call (op .f64 (.scal 8) (.lit 0x100) z)) base; (pc0 t 0, sr t 3 8, sr t 3 9)) = (some 0x20400, some 0x20008, some 0) := by decide +kernel
/-- R35: the slices whose active lanes have a vcc bit set branch, and the gang splits. -/
theorem test_brany :
    (let t := go (.brany (op .f64 none_ (.lit 4) z)) (modG (fun gr => setVcc gr 0xFF (fun _ => 0xF0)) base)
     (pc0 t 0, pc0 t 1, t.bind (fun s => (gr0 s).map (fun g => g.gangs.map (fun q => q.members))))) = (some 0x20008, some 0x20010, some [0xFD, 2]) := by decide +kernel
/-- R354: a target that is no multiple of 4 raises 0.17. -/
theorem test_ret_misaligned : firstCode (go (.ret (op .f64 none_ (.scal 8) z)) (setS 8 0x102 base)) = some (0, 17) := by decide +kernel
/-- R178: SLEEP 10 at cycle 0 waits until cycle 10; R50. -/
theorem test_sleep : (go (.sleep (op .f64 none_ (.lit 10) z)) base).bind (fun s => (gr0 s).map (fun g => g.gangs.map (fun q => q.wait.map (fun w => w.kind)))) = some [some (.sleep 10 0x20008)] := by decide +kernel
/-- R51: the only group passes BAR 15, 1 at once; the phase has flipped. -/
theorem test_bar : (let t := go (.bar (op .f64 none_ (.lit 15) (.lit 1))) base; (pc0 t 0, t.bind (fun s => (teamOf s 0).map (fun tm => tm.bars)))) =
    (some 0x20008, some [(15, { phase := true, expected := none, arrived := [] })]) := by decide +kernel
theorem test_bar_16 : firstCode (go (.bar (op .f64 none_ (.lit 16) (.lit 1))) base) = some (0, 13) := by decide +kernel
/-- R38, R52: EXIT of the last slices retires the group. -/
theorem test_exit : (go (.exit (op .f64 none_ z z)) base).bind (fun s => (gr0 s).map (fun g => (g.retired, g.gangs))) = some (true, []) := by decide +kernel
/-- R177, R363: TRAP 512 posts 11.512 and goes on; TRAP 511 stops the team. -/
theorem test_trap : (let t := go (.trap (op .f64 none_ (.lit 512) z)) base; (firstCode t, pc0 t 0)) = (some (11, 512), some 0x20008) := by decide +kernel
theorem test_trap_stops : (let t := go (.trap (op .f64 none_ (.lit 511) z)) base; (firstCode t, t.bind (fun s => (teamOf s 0).map (fun tm => tm.phase)))) = (some (11, 511), some .aborting) := by decide +kernel
/-- R181, R182. -/
theorem test_getid : vr (go (.getid (op .f64 (.vec 1) (.lit 1) z)) base) 1 31 = some 7 := by decide +kernel
theorem test_sfmt : (go (.sfmt (op .f96l none_ (.lit 0x400) z z 0 0 0x10306D)) base).bind (fun s => (gr0 s).map (fun g => (sliceOf g 7).fmt)) = some 0x10306D := by decide +kernel
theorem test_sfmt_reserved : firstCode (go (.sfmt (op .f96l none_ (.lit 0x400) z z 0 0 0x1000000)) base) = some (0, 5) := by decide +kernel
/-- R36: a gang that is the whole rejoin set resolves at once, with scc 1. -/
theorem test_regang : (let t := go (.regang (op .f64 none_ (.lit 3) z)) base; (pc0 t 0, scc0 t 0)) = (some 0x20008, some true) := by decide +kernel
/-- R44, R452: the same instruction in a group without privilege is 0.12. -/
theorem test_privilege : firstCode (go (.sysrd (op .f64 (.scal 8) (.lit 0) z)) (modT (fun tm => { tm with priv := false }) base)) = some (0, 12) := by decide +kernel

/-! Memory: b1 is a record at 0x40000, words. -/
def mem0 : State := setRec 0x40000 64 4 2 1 (only 0xF (setV 1 (fun l => BitVec.ofNat 32 l) base))
def vstI : Instr := .vst (op .f96c none_ (.scal 4) (.vec 1) (.vec 1) 0x800)
def stored : State := goS vstI mem0
/-- R216, R98: four lanes of one line make one entry; R407, R122: memory changes when it drains, once the line is in L2. -/
theorem test_vst : ((gr0 stored).map (fun g => g.queue.length), readByte stored.mem 0x40008) = (some 1, 0) := by decide +kernel
theorem test_drain : (go (.storeQueueDrain 0 ⟨0, 0⟩) (goS (.l2Fill 0x800 none .good) (goS (.storeQueueDrain 0 ⟨0, 0⟩) stored))).map (fun s => ((List.range 16).map (fun i => homeByte s 0 (0x40000 + i)), (gr0 s).map (fun g => g.queue))) =
    some ([0, 0, 0, 0, 1, 0, 0, 0, 2, 0, 0, 0, 3, 0, 0, 0], some []) := by decide +kernel
/-- R96, R97, R360: index 64 is outside the record: its lane is switched off. -/
theorem test_switch_off : (go (.vld (op .f64 (.vec 2) (.scal 4) (.vec 1) z 0x800)) (setV 1 (fun l => if l = 2 then 64 else 0) mem0)).bind (fun s => (gr0 s).map (fun g => (g.fmask, g.firstOff.map (fun f => f.1)))) = some (4, some 1) := by decide +kernel
/-- R220: scratchpad store and load. -/
theorem test_vsts : (let t := go (.vsts (op .f96l none_ (.vec 1) (.vec 1) z 0x800 0 0x100)) (setV 1 (fun l => BitVec.ofNat 32 (4 * l)) mem0)
    vr (go (.vlds (op .f64 (.vec 2) (.vec 1) (.lit 0x100) z 0x800)) (t.getD base)) 2 3) = some 12 := by decide +kernel
/-- R221: ACCZERO of tiles beyond the grant of one is 0.13; ACCRD of a cleared tile reads 0. -/
theorem test_acczero : (firstCode (go (.acczero (op .f64 none_ (.lit 0) (.lit 2))) base),
    vr (go (.accrd (op .f64 (.vec 2) (.lit 0) z z 0)) (only 1 (goS (.acczero (op .f64 none_ (.lit 0) (.lit 1))) base))) 2 0) = (some (0, 13), some 0) := by decide +kernel
/-- R237: one arrival completes the phase; BTEST sees it. -/
def barObj : State := goS (.bararv (op .f64 none_ (.lit 0x40) z)) (goS (.barinit (op .f64 none_ (.lit 0x40) (.lit 1))) base)
theorem test_bararv : (scc0 (go (.btest (op .f64 none_ (.lit 0x40) (.lit 0))) barObj) 0, scc0 (go (.btest (op .f64 none_ (.lit 0x40) (.lit 1))) barObj) 0) = (some true, some false) := by decide +kernel
/-- R418: BAREXP of a granule no BARINIT has set up is 5.10. -/
theorem test_barexp : firstCode (go (.barexp (op .f64 none_ (.lit 0x50) (.lit 4))) barObj) = some (5, 10) := by decide +kernel
/-- R136: a counter stops at 2^64 - 1, with 5.12. -/
theorem test_tlsig : (let t := go (.tlsig (op .f96l none_ (.lit 9) (.lit 0x400) z 0x10 0 0xFFFFFFFF)) base; (t.map (fun s => timelineOf s 0 9), firstCode t)) = (some 0xFFFFFFFFFFFFFFFF, some (5, 12)) := by decide +kernel
/-- R316, R391: a message to a mailbox that is not registered: see MAILBOX_MESSAGE. -/
theorem test_mbpost : (go (.mbpost (op .f96c none_ (.lit 7) (.lit 32) (.lit 16))) base).map (fun s => s.msgs.map (fun (m : Msg) => (m.mb, m.bytes.length))) = some [(7, 16)] := by decide +kernel
/-- R268: sixteen free job entries; R266: COMMIT numbers from 1, and an empty group is complete at once. -/
theorem test_mquery : sr (go (.mquery (op .f64 (.scal 8) (.lit 2) z)) base) 0 8 = some 16 := by decide +kernel
theorem test_commit : (go (.commit (op .f64 (.scal 6) z z z 1)) base).bind (fun s => (gr0 s).map (fun g => (g.cg, g.pending, g.doneCg, sreg g 7 6))) = some (1, [], 1, 1) := by decide +kernel
/-- R283: without a tag pool TAGALLOC finds nothing. -/
theorem test_tagalloc : (let t := go (.tagalloc (op .f64 (.scal 8) z z)) base; (sr t 0 8, scc0 t 0)) = (some 0xFFFFFFFF, some false) := by decide +kernel
/-- R289: GDONE outside a generator team is 0.19. -/
theorem test_gdone : firstCode (go (.gdone (op .f64 none_ z z)) base) = some (0, 19) := by decide +kernel
/-- R297, R300: SYSWR then SYSRD of errmb; a frame pushed and taken again. -/
theorem test_sysrd : sr (go (.sysrd (op .f64 (.scal 8) (.lit 5) z)) (goS (.syswr (op .f64 none_ (.lit 5) (.lit 9))) base)) 0 8 = some 9 := by decide +kernel
theorem test_poolget : (let t := go (.poolget (op .f64 (.scal 10) (.lit 2) z)) (goS (.apush (op .f64 none_ (.lit 12) (.scal 8))) (setS 8 0x50000 base)); (sr t 0 10, scc0 t 0)) = (some 0x50000, some true) := by decide +kernel
/-- R302: HALTCTX of the issuing context is 0.18; R301: TRET outside the handler likewise. -/
theorem test_haltctx : firstCode (go (.haltctx (op .f64 none_ (.lit 0) (.lit 30))) base) = some (0, 18) := by decide +kernel
theorem test_tret : firstCode (go (.tret (op .f64 none_ z z)) base) = some (0, 18) := by decide +kernel
/-- R358: a load through a page without a leaf enters the handler, whose s2 and s3 hold class 3 and its code. -/
def handled : Option State := go (.vld (op .f64 (.vec 2) (.scal 4) (.vec 1) z 0x800)) (modC (fun q => { q with hentry := 0x30000 }) (setRec 0x8000000 64 4 2 1 (only 4 base)))
theorem test_handler : (sr handled 0 2, sr handled 0 3, sr handled 0 4, sr handled 0 0, pc0 handled 0) = (some 3, some 2, some 4, some 0x8000000, some 0x30000) := by decide +kernel

/-! ### Witnesses: every word issues undisturbed with plain operands -/

def plainSrc (r : Role) : Src :=
  match r with
  | .no => .vec 0
  | .src v s _ l w _ _ => if l && decide (w < 4) then .lit 0 else if s then .scal 4 else if v then .vec 0 else .const 0
def plainDst (r : DRole) : Dst :=
  match r with
  | .no => .vec 0
  | .vec _ => .vec 0
  | .vecOrS => .vec 0
  | _ => .scal 8
/-- Operands of an instruction's first form, modifiers `m`, of the kinds its fields accept. -/
def plain (m : BitVec 13) (f : Operands → Instr) : Operands :=
  let o := op .f64 none_ z z z m
  match sig (f o) with
  | none => o
  | some g =>
    let o := { o with form := g.forms.headD .f64 }
    match sig (f o) with
    | none => o
    | some g => { o with dst := plainDst g.dst, a := plainSrc g.a, b := plainSrc g.b, c := plainSrc g.c, d := plainSrc g.d }
def blankIss (i : Instr) (o : Operands) : Iss :=
  { t := 0, g := 0, k := 0, tm := Team.blank, gr := placedGroup 0, q := { members := 0, wait := none, spinSince := 0, seen := [], starved := 0 }, i := i, o := o, sg := { op := 0, kind := .issue, forms := [] }, pc := 0, act := 0 }
/-- The issue of `i` with operands `o` at `s`. -/
def at_ (s : State) (i : Instr) (o : Operands) : Iss := (issOf s i o).getD (blankIss i o)
def issues (s : State) (i : Instr) (o : Operands) : Bool := decide (Issues s i o (at_ s i o))
theorem issues_spec (s : State) (i : Instr) (o : Operands) (h : issues s i o = true) : ∃ iss, Issues s i o iss := ⟨_, of_decide_eq_true h⟩
def issuesPlain (m : BitVec 13) (f : Operands → Instr) : Bool := issues base (f (plain m f)) (plain m f)

theorem witness_issues_1 : [Instr.nop, Instr.br, Instr.brc, Instr.bexecz, Instr.bexecnz, Instr.brany, Instr.brall, Instr.call, Instr.ret, Instr.jmpi, Instr.regang, Instr.region, Instr.yield, Instr.sleep, Instr.exit, Instr.trap, Instr.bar, Instr.getid, Instr.sfmt, Instr.smov, Instr.sadd, Instr.ssub, Instr.smul, Instr.smulhi].all (issuesPlain 0) = true := by decide +kernel
theorem witness_issues_2 : [Instr.smulhu, Instr.sand, Instr.sor, Instr.sxor, Instr.sandn, Instr.sshl, Instr.sshr, Instr.ssra, Instr.smin, Instr.smax, Instr.sminu, Instr.smaxu, Instr.scmp, Instr.ssel, Instr.sbfe, Instr.sbfi, Instr.sclz, Instr.spopc, Instr.sff1, Instr.sdivu, Instr.sremu, Instr.sbrev, Instr.sadd64, Instr.ssub64].all (issuesPlain 0) = true := by decide +kernel
theorem witness_issues_3 : [Instr.smul64, Instr.sshl64, Instr.sshr64, Instr.scmp64, Instr.smov64, Instr.msave, Instr.mset, Instr.mnot, Instr.mcount, Instr.vmov, Instr.vadd, Instr.vsub, Instr.vmul, Instr.vmulhi, Instr.vmad, Instr.vand, Instr.vor, Instr.vxor, Instr.vshl, Instr.vshr, Instr.vsra, Instr.vmin, Instr.vmax, Instr.vcmp].all (issuesPlain 0) = true := by decide +kernel
theorem witness_issues_4 : [Instr.vsel, Instr.vbfe, Instr.vbfi, Instr.vpopc, Instr.vclz, Instr.vaddc, Instr.vfadd, Instr.vfsub, Instr.vfmul, Instr.vfma, Instr.vfmin, Instr.vfmax, Instr.vfcmp, Instr.vfract, Instr.vfloor, Instr.vfceil, Instr.vfrnde, Instr.vftrunc, Instr.vfclass, Instr.vrcp, Instr.vrsq, Instr.vsqrt, Instr.vexp2, Instr.vlog2].all (issuesPlain 0) = true := by decide +kernel
theorem witness_issues_5 : [Instr.vsin, Instr.vcos, Instr.vdiv, Instr.vquant, Instr.vdeq, Instr.vscale, Instr.qrange, Instr.vlane, Instr.vbcast, Instr.vshuf, Instr.vrot, Instr.vswz, Instr.vreduce, Instr.vscan, Instr.vfirst, Instr.vballot, Instr.vreadl, Instr.vwritel, Instr.vunif, Instr.vld, Instr.vst, Instr.vstSequential, Instr.vldx, Instr.vstx].all (issuesPlain 0) = true := by decide +kernel
theorem witness_issues_6 : [Instr.sld, Instr.sst, Instr.vpref, Instr.ldrec, Instr.vlds, Instr.vsts, Instr.slds, Instr.ssts, Instr.acczero, Instr.accrd, Instr.accwr, Instr.accst, Instr.accld, Instr.cbld, Instr.vatom, Instr.vatoms, Instr.satom, Instr.fence, Instr.fenceSmp, Instr.vsample, Instr.vgather4, Instr.vsamplel, Instr.tcopy, Instr.tcopyx].all (issuesPlain 0) = true := by decide +kernel
theorem witness_issues_7 : [Instr.tpeer, Instr.barinit, Instr.barexp, Instr.bararv, Instr.bwait, Instr.btest, Instr.tlwait, Instr.tlrd, Instr.mbpost, Instr.launch, Instr.satrd, Instr.mjob, Instr.commit, Instr.mwait, Instr.mquery, Instr.tagalloc, Instr.tagset, Instr.tagfree, Instr.rvsend, Instr.rvsendg, Instr.gdone, Instr.gfail, Instr.prblk, Instr.previct].all (issuesPlain 0) = true := by decide +kernel
theorem witness_issues_8 : [Instr.sysrd, Instr.syswr, Instr.apush, Instr.hentryWrite, Instr.tret, Instr.tretOff, Instr.pmap, Instr.punmap, Instr.punmapRet, Instr.tlbinvAll, Instr.tlbinvPage, Instr.tlbinvRange, Instr.poolget, Instr.haltctx, Instr.haltctxRes, Instr.mbreg, Instr.prdecl, Instr.prdeclDel, Instr.tagpool].all (issuesPlain 0) = true := by decide +kernel
theorem witness_issues_modified : issuesPlain 1 Instr.vfdot2 && issuesPlain 33 Instr.vcvt && issuesPlain 4 Instr.vpack && issuesPlain 4 Instr.vunpack && issuesPlain 4 Instr.tlsig = true := by decide +kernel

/-! ### Witnesses: for each obligation a state and operands that meet what it asks beyond an undisturbed issue -/

/-- The instruction issues undisturbed, and `p` holds of its issue. -/
def holds (s : State) (f : Operands → Instr) (o : Operands) (p : Iss → Bool) : Bool := issues s (f o) o && p (at_ s (f o) o)
def uni (s : State) (iss : Iss) (a : Src) : Option W32 := match uniform32 s iss a with | .ok x => x | .error _ => none
/-- No instruction's record: every field 0. -/
def noRec : BufRec := recordOf 0 0 0 0
/-- The record source A names, and whether it is sound. -/
def recA (s : State) (iss : Iss) : BufRec := match readRecord s iss iss.o.a with | .ok (some r) => r | _ => noRec
def recOk (s : State) (iss : Iss) : Bool := match readRecord s iss iss.o.a with | .ok (some _) => true | _ => false
def setGang (f : Gang → Gang) (s : State) : State := modG (fun gr => { gr with gangs := gr.gangs.map f }) s
/-- Slice 0 in a gang of its own, the other seven in another, which waits at `w`. -/
def split (w : Option WaitKind) (s : State) : State :=
  modG (fun gr => { gr with gangs := [{ members := 1, wait := none, spinSince := 0, seen := [], starved := 0 }, { members := 0xFE, wait := w.map (fun k => { kind := k, since := 0, posted := false }), spinSince := 0, seen := [], starved := 0 }] }) s
def waitAt (w : WaitKind) (s : State) : State := setGang (fun q => { q with wait := some { kind := w, since := 0, posted := false } }) s

/-- PackedElements, FunctionSpecials, BitFunctions: bytes of a register, a NaN, the least negative number. -/
theorem witness_numbers : 3 < 32 / intWidth 4 ∧ 0 < 32 / intWidth 0 ∧ (0x7F800001#32).toNat / 2 ^ 23 % 256 = 255 ∧ (0x7F800001#32).toNat % 2 ^ 23 ≠ 0 ∧
    0x80000000 < (0x80000001#32).toNat ∧ (0xFF7FFFFF#32).toNat < 0xFF800000 := by decide +kernel
theorem witness_ConversionResults :
    (holds base .vcvt (plain 33 Instr.vcvt) (fun iss => rndOf (fmtOf iss) != 3) &&
     [2, 8, 16, 20, 22, 23].all (fun f => holds (setFmt (BitVec.ofNat 32 (4096 * f + 0x20000)) base) .vquant (plain 0 Instr.vquant) (fun iss => rndOf (fmtOf iss) != 3 && !noPlanes (fmtOf iss) (ofmtOf (fmtOf iss)) && ofmtOf (fmtOf iss) == f)) &&
     [9, 14].all (fun f => holds (setFmt (BitVec.ofNat 32 (4096 * f)) base) .vquant (plain 0 Instr.vquant) (fun iss => ofmtOf (fmtOf iss) == f && decide (dstNum iss.o.dst + 1 < budgetOf iss))) &&
     [2, 9, 23].all (fun f => holds (setFmt (BitVec.ofNat 32 f) base) .vdeq (plain 0 Instr.vdeq) (fun iss => afmtOf (fmtOf iss) == f && !noPlanes (fmtOf iss) f)) &&
     [(16, 0), (17, 0), (20, 0x20000)].all (fun c => holds (setFmt c.2 channel) .qrange (op .f96c (.vec 4) (.vec 0) (.vec 1) (.lit (BitVec.ofNat 11 c.1))) (fun iss => (lanes iss.act).all (fun l =>
       let a := ofF32 (vreg iss.gr 0 l)
       let b := ofF32 (vreg iss.gr 1 l)
       a.isFinite && b.isFinite && !FVal.lt b a)))) = true := by decide +kernel
theorem witness_SaturationCounters :
    (teamOf (modT (fun tm => { tm with sat := [0xFFFFFFFE, 0, 0, 0], lim := [0xFFFFFFFF, 1, 0, 0], eve := true }) base) 0).any (fun tm =>
      tm.sat.length == 4 && tm.spent.length == 4 && tm.eve && !tm.spent.getD 0 false && decide (tm.lim.getD 0 0 ≠ 0 ∧ (tm.sat.getD 0 0).toNat < (tm.lim.getD 0 0).toNat ∧
        (tm.lim.getD 0 0).toNat ≤ min (2 ^ 32 - 1) ((tm.sat.getD 0 0).toNat + 2)) && tm.lim.getD 3 0 == 0) = true := by decide +kernel
theorem witness_LaneExchangeResults : holds base .vreduce (plain 7 Instr.vreduce) (fun iss => mf iss.o 53 50 == 7 && decide (iss.o.a = .vec 0)) = true := by decide +kernel
theorem witness_QuietControl :
    (holds base .getid (op .f64 (.scal 8) (.lit 13) z) (fun iss => dstScalar iss.o.dst) && holds base .getid (op .f64 (.vec 1) (.lit 0) z) (fun iss => !dstScalar iss.o.dst) &&
     holds base .sfmt (op .f96l none_ (.lit 0x400) z z 0 0 0xFFFFFF) (fun iss => scal32 base iss 7 iss.o.a == 0xFFFFFF) &&
     holds base .sfmt (op .f96l none_ (.lit 0x400) z z 0 0 0x1000000) (fun iss => (scal32 base iss 0 iss.o.a).extractLsb' 24 8 == 1)) = true ∧
    base.cur.isSome = true ∧ ((groupOf base 0 0).bind (fun gr => gangAt gr 0)).isSome = true := by decide +kernel
/-- One way; two ways; a target that is no multiple of 4 or beyond the space. -/
theorem witness_BranchResults :
    (holds base .br (op .f64 none_ (.lit 4) z) (fun iss => (iss.pc + 16).extractLsb' 0 2 == 0) &&
     holds (modG (fun gr => setScc gr 1 (fun _ => true)) base) .brc (op .f64 none_ (.lit 4) z) (fun iss => (sliceOf iss.gr 0).scc && !(sliceOf iss.gr 1).scc) &&
     holds (setS 8 0x102 base) .ret (op .f64 none_ (.scal 8) z) (fun iss => (scal64 (setS 8 0x102 base) iss 0 iss.o.a).extractLsb' 0 2 != 0) &&
     holds (setS 9 0x02000000 base) .jmpi (op .f64 none_ (.scal 8) z) (fun iss => (scal64 (setS 9 0x02000000 base) iss 0 iss.o.a).extractLsb' 57 7 != 0)) = true := by decide +kernel
theorem witness_SleepAndRejoin :
    (holds base .sleep (op .f64 none_ (.lit 0) z) (fun _ => true) && holds base .sleep (op .f64 none_ (.lit 1023) z) (fun iss => scal32 base iss 0 iss.o.a == 1023) &&
     ((groupOf (waitAt (.sleep 5 0x20008) base) 0 0).bind (fun gr => gangAt gr 0)).any (fun q => q.wait.any (fun w => w.kind == .sleep 5 0x20008)) &&
     (gr0 (split (some (.regang (List.replicate 8 3) 0x20008)) base)).any (fun gr => (membersOf (liveSlices gr)).any (fun i => (regangOf gr i).isNone) && (regangOf gr 7).isSome) &&
     (gr0 (waitAt (.regang (List.replicate 8 3) 0x20008) base)).any (fun gr => (membersOf (liveSlices gr)).all (fun i => (regangOf gr i).isSome) && gr.slices.length == 8) &&
     holds (split none base) .regang (op .f64 none_ (.lit 3) z) (fun iss => (membersOf (liveSlices iss.gr)).any (fun i => !iss.q.members.getLsbD i && (regangOf iss.gr i).isNone && (barOf iss.gr i).isNone) &&
       iss.gr.gangs.all (fun q => q == iss.q || q.members &&& iss.q.members == 0))) = true := by decide +kernel
theorem witness_GoingOn : (teamOf base 0).any (fun tm => tm.groups[0]?.isSome) = true ∧ (sig (.fence (plain 0 Instr.fence))).map (fun g => (g.op, g.closes)) = some (0x243, true) := by decide +kernel
theorem witness_LeavingAndTrapping :
    (holds (split none base) .exit (plain 0 Instr.exit) (fun iss => decide (iss.tm.bars = []) && iss.gr.gangs.all (fun q => q == iss.q || q.members &&& iss.q.members == 0) && !(sliceOf iss.gr 1).exited && (regangOf iss.gr 1).isNone && (barOf iss.gr 1).isNone) &&
     holds base .exit (plain 0 Instr.exit) (fun iss => (List.range 8).all (fun j => iss.q.members.getLsbD j)) &&
     [0x400, 0x7FF, 0, 511, 512, 1023].all (fun n => holds base .trap (op .f64 none_ (.lit n) z) (fun iss => !shadowed iss.gr iss.k))) = true := by decide +kernel
/-- Barrier 15, counts 0, 1, 32 and 33; a phase open with another count; a replay; a second group that has not arrived. -/
def two (s : State) : State := modT (fun tm => { tm with groups := tm.groups ++ [placedGroup 0x20000] }) s
def halfBar : State := modT (fun tm => { tm with bars := [(15, { phase := false, expected := some 2, arrived := [(0, 0x80)] })] }) (split (some (.bwait 0 false 0)) (two base))
theorem witness_NamedBarriers :
    ([0, 1, 32, 33].all (fun c => holds base .bar (op .f64 none_ (.lit 15) (.lit c)) (fun iss => uni base iss iss.o.a == some 15)) &&
     holds halfBar .bar (op .f64 none_ (.lit 15) (.lit 1)) (fun iss => (mgetD iss.tm.bars barOpen 15).expected == some 2) &&
     holds halfBar .bar (op .f64 none_ (.lit 15) (.lit 2)) (fun iss => let b := mgetD iss.tm.bars barOpen 15
       b.expected == some 2 && !(mgetD b.arrived 0 0).getLsbD 1 && !iss.q.members.getLsbD 1 && (regangOf iss.gr 1).isNone && (barOf iss.gr 1).isNone && !hasArrived iss.tm b 1) &&
     holds (modG (fun gr => { gr with slices := gr.slices.map (fun x => { x with replay := 1 }) }) base) .bar (op .f64 none_ (.lit 0) (.lit 1)) (fun iss => (sliceOf iss.gr 0).replay == 1) &&
     holds base .bar (op .f64 none_ (.lit 0) (.lit 0)) (fun iss => decide (iss.tm.groups = [iss.gr] ∧ iss.gr.gangs = [iss.q] ∧ iss.gr.retired = false ∧ mgetD iss.tm.bars barOpen 0 = barOpen ∧ iss.gr.slices.length = 8)) &&
     (teamOf halfBar 0).any (fun tm => let b := mgetD tm.bars barOpen 15; b.expected == some 2 && !decide (arrivals tm b ≠ 0 ∧ 2 ≤ arrivals tm b)) &&
     (teamOf (waitAt (.bar 15) (modT (fun tm => { tm with bars := [(15, { phase := true, expected := some 1, arrived := [(0, 0xFF)] })] }) base)) 0).any (fun tm => decide (1 ≤ arrivals tm (mgetD tm.bars barOpen 15)))) = true := by decide +kernel
def ret0 : Ret := { id := 7, pc := 0x20000, members := 0xFF, sampler := false, fetch := false, shadow := false, vw := [(32, 5)], sw := [(3, 6)], cw := [], lines := [], peers := [], queued := 0, blocks := [], seq := 0, late := [], fill := [], prefetch := false, merges := [] }
def withRet (f : Ret → Ret) (s : State) : State := modG (fun gr => { gr with returns := [f ret0] }) s
theorem witness_SharedConditions :
    (let o := op .f64 (.scal 3) (.scal 4) (.scal 5)
     pendingReg (at_ (withRet id base) (.sadd o) o) && heldByAcquire (at_ (modG (fun gr => { gr with acqs := [(7, 4)] }) base) (.fence (plain 0 Instr.fence)) (plain 0 Instr.fence)) &&
     [((op .f64 (.scal 3) (.vec 4) (.scal 5)), 7), ((op .f64 (.scal 67) (.scal 4) (.scal 5)), 8)].all (fun c => decide (sharedTest base (at_ base (.sadd c.1) c.1) = some c.2)) &&
     (let p := op .f64 (.scal 8) (.lit 0) z
      let u := modT (fun tm => { tm with priv := false }) base
      decide (sharedTest u (at_ u (.sysrd p) p) = some 12)) &&
     (let u := modT (fun tm => { tm with bad := [(2, eccIndex 0 4)] }) base
      decide (sharedTest u (at_ u (.sadd o) o) = none ∧ badSource u (at_ u (.sadd o) o) = some 2)) &&
     (let s := modT (fun tm => { tm with groups := tm.groups ++ [{ placedGroup 0x20000 with acqs := [(7, 4)] }] }) mem0
      let v := op .f64 (.vec 2) (.scal 4) (.vec 1) z 0x800
      decide (sharedTest s (at_ s (.vld v) v) = none) && heldByMate s (at_ s (.vld v) v) && !heldByAcquire (at_ s (.vld v) v))) = true := by decide +kernel
theorem witness_HandlerEntry :
    (let s := modC (fun q => { q with hentry := 0x30000 }) base
     (ctxOf s 0).any (fun q => q.hentry != 0) && (gr0 s).any (fun gr => gr.handler == none && (gangAt gr 0).isSome)) = true ∧ (([(0, 0, 0), (31, 0, 1)] : List (Nat × W64 × Nat)).map Prod.fst).Nodup := by decide +kernel
def inHandler : State := { handled.getD base with cur := some { t := 0, g := 0, k := 0 } }
theorem witness_HandlerReturn :
    (holds base .tret (plain 0 Instr.tret) (fun iss => !shadowed iss.gr iss.k) && holds base .tretOff (op .f64 none_ z z z 1) (fun iss => !shadowed iss.gr iss.k) &&
     [Instr.tret (op .f64 none_ z z), .tretOff (op .f64 none_ z z z 1)].all (fun i => let o := (operands i).getD (op .f64 none_ z z)
       issues inHandler i o && (let iss := at_ inHandler i o
         shadowed iss.gr iss.k && iss.gr.handler.any (fun h => !h.issueKind && decide (h.saved.map (fun v => v.slice)).Nodup && h.saved.all (fun v => decide (v.slice < 8 ∧ v.slice < iss.gr.slices.length))))) &&
     (let s := modG (fun gr => { gr with handler := gr.handler.map (fun h => { h with issueKind := true }) }) inHandler
      holds s .tretOff (op .f64 none_ z z z 1) (fun iss => iss.gr.handler.any (fun h => h.issueKind)))) = true := by decide +kernel
def recs (n : Nat) (s : State) : State := modC (fun q => { q with records := List.replicate n { seq := 0, bytes := [], lost := false, arrived := 0 } }) s
theorem witness_RecordsAndAborts :
    ((ctxOf (recs 63 base) 0).map (fun q => q.records.length), (ctxOf (recs 64 base) 0).map (fun q => q.records.length)) = (some 63, some 64) ∧
    ((teamOf base 0).map (fun tm => tm.phase), (ctxOf base 0).map (fun q => q.hentry), (gr0 inHandler).map (fun gr => gr.handler.isSome), (mget base.grids 0).isSome, mwf base.teams) = (some .running, some 0, some true, true, true) ∧
    (teamOf (modT (fun tm => { tm with phase := .aborting }) base) 0).map (fun tm => tm.phase) = some .aborting := by decide +kernel

theorem witness_RecordAddressing :
    (let r := recordOf 0x40000 0 0x10003 0xA10002
     let q := recordOf 0x40000 0x18000000 0x10003 0xA10002
     [r.twoD, r.swz == 0, q.swz == 1, q.ozr, (element r 2).1, !(element r 3).1, (element r 2).2 % 4 == 0, !(noRec.twoD), !(element noRec 0).1]).all id = true := by decide +kernel
def put64 (a v : Nat) (s : State) : State := { s with mem := writeBytes s.mem a (bytesOf 8 v) }
def who0 : Who := { ctx := 0, core := 0, gen := none }
def entAt (s : State) (a : Nat) : Nat := match walkRead s who0 a with | .val n => n | _ => 0
def soundAt (s : State) (a : Nat) : Bool := walkRead s who0 a == .val (entAt s a)
def tableAt (s : State) (a : Nat) : Bool := soundAt s a && decide (entAt s a % 4 = 1 ∧ entAt s a / 4 % 2 ^ 12 = 0 ∧ entAt s a / 2 ^ 52 = 0)
def entry0 : SQEntry := { seq := 0, pc := 0, left := false, op := .store [(0x50000, 1)], relScope := 0, base := 0, replicas := [], va := 0x50000, block := none, members := 0xFF, lanes := 1 }
def fullQ (n : Nat) (s : State) : State := modG (fun gr => { gr with queue := List.replicate n entry0, acqSeq := 1 }) s
/-- Eight bytes queued. -/
def fullQ8 (s : State) : State := modG (fun gr => { gr with queue := [{ entry0 with op := .store ((List.range 8).map (fun i => (0x50000 + i, 1))) }], acqSeq := 1 }) s
/-- One walk for each case: entries of the tables at 0x10000, 0x14000, 0x18000 and, for level 0, 0x1C000. -/
theorem witness_Translation :
    (let deep := put64 0x18008 0x1C001 base
     [(coreOf base 0).tlb == [], (List.range 8).all (fun i => heldByte (coreQueue base 0) (0x10000 + i) == .no && heldByte (coreQueue (fullQ8 base) 0) (0x50000 + i) == .byte 1), (ctxOf base 0).any (fun q => q.xlroot == 0x10000 && q.key == 1),
      soundAt base (0x10000 + 8 * 255) && entAt base (0x10000 + 8 * 255) % 2 == 0,
      entAt (put64 0x10000 3 base) 0x10000 % 4 == 3,
      tableAt base 0x10000 && entAt base (0x14000 + 8) % 2 == 0,
      tableAt base 0x14000 && soundAt base (0x18000 + 8) && entAt base (0x18000 + 8) % 2 == 0,
      entAt base 0x18000 % 4 == 3 && !leafBad (entAt base 0x18000) 1 && !(entAt base 0x18000).testBit 6 && !(entAt base 0x18000).testBit 57 && decide (entAt base 0x18000 / 2 ^ 16 % 2 ^ 36 * 2 ^ 16 < 2 ^ 39),
      tableAt deep 0x18008 && soundAt deep 0x1C000 && entAt deep 0x1C000 % 2 == 0,
      (let s := put64 0x1C000 (2 ^ 39 + 0x3B) deep
       !leafBad (entAt s 0x1C000) 0 && entAt s 0x1C000 % 4 == 3 && entAt s 0x1C000 / 2 ^ 16 % 2 ^ 36 * 2 ^ 16 == 2 ^ 39),
      decide (walkRead { base with badLines := [(0x200, ())] } who0 0x10000 = .damaged),
      -- an atomic on an entry, and the entry's line in L1
      decide (walkRead (modG (fun gr => { gr with queue := [{ entry0 with op := .atomic 5 0x10000 1 0 none [] }] }) base) who0 0x10000 = .held),
      (mget (coreOf base 0).l1 (l1Key who0 0x200)).isNone && decide (dataError base 0x10000 8 = none)]).all id = true := by decide +kernel

/-- A lane's access goes to memory mapped onto itself, below 2^39. -/
def plainAt (s : State) (iss : Iss) (k : Access) (need : Nat) (x : Reach) : Bool :=
  match x with | .at va => decide (translate s (whoOf iss.tm) k false need va = .ok va [] none ∧ va < 2 ^ 39) | _ => false
def vaOf (x : Reach) : Nat := match x with | .at va => va | .off _ va => va | .zero => 0
def isOff (code : Nat) (x : Reach) : Bool := match x with | .off c _ => c == code | _ => false
def untouched (s : State) (iss : Iss) (a n : Nat) : Bool :=
  (List.range n).all (fun b => heldByte (coreQueue s 0) (a + b) == .no && decide (mget s.lost ((a + b) / 128) = none) && decide (mget (coreOf s 0).l1 (l1Key (whoOf iss.tm) ((a + b) / 128)) = none))
def loadsPlain (s : State) (n : Nat) (iss : Iss) : Bool :=
  let r := recA s iss
  recOk s iss && !r.cmp && ordOf iss.o == 0 && (iss.act != 0 || iss.sg.kind != .lane) && (actLanes iss).all (fun l =>
    let x := reach r n (ofsOf iss.o) (lane32 s iss .i32 l iss.o.b).toNat
    plainAt s iss .read 0 x && untouched s iss (vaOf x) n)
def mem8 : State := setRec 0x40000 64 8 3 1 (only 0x8000000F (setV 1 (fun l => BitVec.ofNat 32 (2 * l + 1)) base))
/-- All widths, the last index; a record of words; no active lane; lanes beyond the record. -/
theorem witness_GlobalLoads :
    ([0, 1, 2, 3].all (fun w => holds mem8 .vld (op .f64 (.vec 2) (.scal 4) (.vec 1) z (BitVec.ofNat 13 (0x400 * w))) (loadsPlain mem8 (2 ^ w)) &&
       holds mem8 .sld (op .f64 (.scal 8) (.scal 4) (.lit 63) z (BitVec.ofNat 13 (0x400 * w))) (loadsPlain mem8 (2 ^ w))) &&
     holds mem0 .vldx (op .f64 (.vec 2) (.scal 4) (.vec 1) z) (fun iss => loadsPlain mem0 4 iss && (recA mem0 iss).format == 1 && (recA mem0 iss).esz == 2) &&
     holds (only 0 mem0) .vld (op .f64 (.vec 2) (.scal 4) (.vec 1) z 0x800) (fun iss => iss.act == 0) &&
     (let s := setV 1 (fun _ => 64) mem0
      holds s .vld (op .f64 (.vec 2) (.scal 4) (.vec 1) z 0x800) (fun iss => recOk s iss && (lowest iss.act).isSome && (actLanes iss).all (fun l => isOff 1 (reach (recA s iss) 4 0 (lane32 s iss .i32 l iss.o.b).toNat)))) &&
     holds mem0 .sld (op .f64 (.scal 8) (.scal 4) (.lit 64) z 0x800) (fun iss => isOff 1 (reach (recA mem0 iss) 4 0 64))) = true := by decide +kernel
def storesPlain (s : State) (n : Nat) (idx : Iss → Nat → Nat) (iss : Iss) : Bool :=
  let r := recA s iss
  recOk s iss && !r.ro && !r.cmp && (actLanes iss).all (fun l => plainAt s iss .write 0 (reach r n (ofsOf iss.o) (idx iss l)))
def roRec (s : State) : State := setS 5 0x04000000 s
theorem witness_GlobalStores :
    ([mem0, fullQ 31 mem0, fullQ 32 mem0].all (fun s =>
      holds s .vst (op .f96c none_ (.scal 4) (.vec 1) (.vec 1) 0x800) (storesPlain s 4 (fun iss l => (vreg iss.gr 1 l).toNat)) &&
      holds s .vstSequential (op .f64 none_ (.scal 4) (.vec 1) z 0x800) (storesPlain s 4 (fun _ l => l)) &&
      holds s .sst (op .f96l none_ (.scal 4) (.scal 9) z 0x800 0 63) (storesPlain s 4 (fun _ _ => 63)) &&
      holds s .vstx (op .f96c none_ (.scal 4) (.vec 1) (.vec 1)) (fun iss => storesPlain s 4 (fun iss l => (vreg iss.gr 1 l).toNat) iss && rndOf (fmtOf iss) != 3 && (recA s iss).format == 1)) &&
     [Instr.vst, .vstx, .vatom].all (fun f => issues (roRec mem0) (f (op .f96c none_ (.scal 4) (.vec 1) (.vec 1) 1)) (op .f96c none_ (.scal 4) (.vec 1) (.vec 1) 1) || issues (roRec mem0) (f (op .f96c (.vec 2) (.scal 4) (.vec 1) (.vec 1))) (op .f96c (.vec 2) (.scal 4) (.vec 1) (.vec 1))) &&
     holds (roRec mem0) .sst (op .f64 none_ (.scal 4) (.scal 9) z 0x800) (fun iss => recOk (roRec mem0) iss && (recA (roRec mem0) iss).ro)) = true := by decide +kernel
/-- A leaf of the highest atomic class. -/
def acls3 (s : State) : State := put64 0x18000 (0x3B + 3 * 2 ^ 55) s
theorem witness_GlobalAtomics :
    ([(0, acls3 mem0), (16, acls3 mem8)].all (fun c => holds c.2 .vatom (op .f96c (.vec 2) (.scal 4) (.vec 1) (.vec 4) (BitVec.ofNat 13 (256 * c.1))) (fun iss =>
       recOk c.2 iss && (actLanes iss).all (fun l => plainAt c.2 iss .atomic (atomNeed c.1) (reach (recA c.2 iss) (atomBytes c.1) (ofsOf iss.o) (vreg iss.gr 1 l).toNat)))) &&
     holds (acls3 mem0) .satom (op .f96c (.scal 8) (.scal 4) (.lit 63) (.scal 9)) (fun iss => plainAt (acls3 mem0) iss .atomic (atomNeed 0) (reach (recA (acls3 mem0) iss) 4 (ofsOf iss.o) 63))) = true := by decide +kernel
/-- Lengths 0, 1, 256 and 257; nothing lies in a queue, in L1 or among the lost sectors. -/
theorem witness_ConstantLoads :
    ([0, 1, 256, 257].all (fun n =>
       let s := setS 9 (BitVec.ofNat 32 n) mem0
       holds s .cbld (op .f96c none_ (.scal 4) (.lit 0) (.scal 9)) (fun iss => (scal32 s iss 0 iss.o.c).toNat == n && recOk s iss && decide (coreQueue s 0 = [] ∧ s.lost = [] ∧ (coreOf s 0).l1 = []) &&
         [0, 255].all (fun j => plainAt s iss .read 0 (.at (0x40000 + 4 * j))))) &&
     holds mem0 .cbld (op .f64 none_ (.scal 4) (.lit 0) z 0x1FFC) (fun iss => mf iss.o 62 60 == 7 && mf iss.o 59 52 == 255) &&
     holds mem0 .vpref (op .f64 none_ (.scal 4) (.vec 1)) (recOk mem0) && holds (setS 5 0x20000000 mem0) .vpref (op .f64 none_ (.scal 4) (.vec 1)) (fun iss => !recOk (setS 5 0x20000000 mem0) iss)) = true := by decide +kernel
/-- `ord` in mod [51:50], scope in [54:52]: .AR, .ACQ, .REL at .PKG and .SYS. -/
theorem witness_Fences :
    ([0xC, 0xD, 0xE, 0x14].all (fun m => holds base .fence (op .f64 none_ z z z m) (fun iss => decide (smpWait iss = none) && storesAt base 0 0 0 (mf iss.o 54 52) iss.gr.acqSeq true && loadsPerformed iss.gr)) &&
     holds (fullQ 1 base) .fence (op .f64 none_ z z z 0xC) (fun iss => !storesAt (fullQ 1 base) 0 0 0 3 iss.gr.acqSeq true) &&
     holds (withRet (fun r => { r with queued := 1 }) base) .fence (op .f64 none_ z z z 0xD) (fun iss => !loadsPerformed iss.gr) &&
     holds base .fenceSmp (op .f64 none_ z z z 0x2C) (fun iss => decide (smpWait iss = none) && storesAt base 0 0 0 3 iss.gr.acqSeq true && storesAt base 0 0 0 3 iss.gr.acqSeq false && iss.gr.returns.all (fun r => !r.sampler)) &&
     [0, 1].all (fun d => holds (waitAt (.smp d) base) .fenceSmp (op .f64 none_ z z z 0x2C) (fun iss => decide (smpWait iss = some d)))) = true := by decide +kernel
def sp0 : State := setS 9 4092 (setS 10 4096 (setS 11 4094 (only 0x80000001 (setV 1 (fun l => BitVec.ofNat 32 (132 * l)) base))))
def objS : State := goS (.barinit (op .f64 none_ (.lit 0x40) (.lit 1))) sp0
def objN (b : BarObj) : State := objPut objS 0 0x40 b
def liveS : State := objN { expected := 0, arrived := 0, pending := 1, initial := 2, phase := false }
theorem witness_ScratchpadAccess :
    (let inside := fun (n : Nat) (iss : Iss) => (actLanes iss).all (fun l => let a := ((lane32 sp0 iss .i32 l iss.o.a).toNat + (lane32 sp0 iss .i32 l iss.o.b).toNat) % 2 ^ 32
       decide (a < iss.tm.scratchBytes ∧ a % n = 0)) && iss.tm.bad == []
     holds sp0 .vlds (op .f64 (.vec 2) (.vec 1) (.lit 0) z 0x800) (inside 4) && holds sp0 .slds (op .f64 (.scal 3) (.scal 9) (.lit 0) z 0x800) (inside 4) &&
     holds sp0 .slds (op .f64 (.scal 3) (.scal 10) (.lit 0) z 0x800) (fun iss => iss.tm.scratchBytes == 4096) && holds sp0 .slds (op .f64 (.scal 3) (.scal 11) (.lit 0) z 0x800) (fun iss => iss.tm.scratchBytes == 4096) &&
     [Instr.vsts (op .f64 none_ (.vec 1) (.vec 1) z 0x800), .ssts (op .f64 none_ (.scal 9) (.scal 9) z 0x800)].all (fun i => issues sp0 i ((operands i).getD (op .f64 none_ z z))) &&
     (teamOf liveS 0).any (fun tm => tm.phase == .running && decide (liveHit liveS 0 tm [0x4F] = some 0x40 ∧ liveHit liveS 0 tm [0x50] = none)) &&
     holds sp0 .vatoms (op .f96c (.vec 2) (.vec 1) (.lit 0) (.vec 1)) (fun iss => inside 4 iss && iss.tm.objs == [])) = true := by decide +kernel
/-- Tile 0 of a grant of one; counts 0, 1 and 2; rows 127 and, for the forms with a row in source C, 128; rows that end at 128; an offset
and an end of the rows at the edges of the scratchpad. -/
theorem witness_AccumulatorTiles :
    ([0, 1, 2].all (fun n => holds base .acczero (op .f64 none_ (.lit 0) (.lit n)) (fun iss => uni base iss iss.o.a == some 0)) &&
     (let s := setS 8 128 (setS 9 127 (setS 10 4088 (setS 12 4096 (setS 13 3968 base))))
      [8, 9].all (fun r => holds s .accrd (op .f96c (.vec 2) (.lit 0) z (.scal r)) (fun iss => iss.tm.bad == []) && holds s .accwr (op .f96c none_ (.lit 0) (.vec 1) (.scal r)) (fun iss => iss.tm.tiles.length == 1)) &&
      holds s .accrd (op .f64 (.vec 2) (.lit 0) z z 0x1FFC) (fun iss => mf iss.o 62 56 == 127 && mf iss.o 55 54 == 3 && mf iss.o 53 52 == 3) &&
      [8, 9, 10, 12, 13].all (fun r => holds s .accst (op .f96c none_ (.lit 0) (.scal r) (.lit 1)) (fun iss => iss.tm.phase == .running && decide (liveHit s 0 iss.tm [4095] = none)) && holds s .accld (op .f96c none_ (.lit 0) (.scal r) (.lit 1)) (fun iss => iss.tm.scratchBytes == 4096)) &&
      holds s .accst (op .f96c none_ (.lit 0) (.scal 13) (.lit 2) 0x1FC0) (fun iss => mf iss.o 62 56 + 2 == 129))) = true := by decide +kernel
theorem witness_BarrierObjects :
    (let b0 : BarObj := { expected := 0, arrived := 0, pending := 1, initial := 1, phase := false }
     [0, 1, 65535].all (fun n => holds (setS 8 n base) .barinit (op .f64 none_ (.lit 0x40) (.scal 8)) (fun iss => uni base iss iss.o.a == some 0x40)) &&
     holds (setS 8 65536 base) .barinit (op .f64 none_ (.lit 0x40) (.scal 8)) (fun _ => true) &&
     [0x48, 0xFF0, 0x1000].all (fun a => holds (setS 8 a base) .bwait (op .f64 none_ (.scal 8) (.lit 0)) (fun iss => iss.tm.scratchBytes == 4096 && decide (mget iss.tm.objs (a.toNat / 16) = none))) &&
     holds liveS .barinit (op .f64 none_ (.lit 0x40) (.lit 1)) (fun iss => objLive liveS 0 iss.tm 0x40) &&
     [b0, { b0 with expected := 0xFFFFFFFF }, { b0 with arrived := 1 }, { b0 with pending := 0, expected := 1 }, { b0 with pending := 2 }, { b0 with phase := true }].all (fun b =>
       [Instr.barexp (op .f64 none_ (.lit 0x40) (.lit 1)), .bararv (op .f64 none_ (.lit 0x40) z), .bwait (op .f64 none_ (.lit 0x40) (.lit 0)), .btest (op .f64 none_ (.lit 0x40) (.lit 1))].all (fun i =>
         let o := (operands i).getD (op .f64 none_ z z)
         let s := objN b
         issues s i o && (let iss := at_ s i o
           (mget iss.tm.objs 4).isSome && !badScratch iss.tm [0x40, 0x44, 0x48, 0x4C] && decide (objAt iss.tm 0x40 = b))))) = true := by decide +kernel

/-- A 2 by 2 texture of one FP32 component, or two, in b1 and b2; lane 0 samples its corner, lane 31 no number. -/
def tex (esz : Nat) : State :=
  let d3 : W32 := BitVec.ofNat 32 (2 ^ 21 + esz * 2 ^ 22 + 2 ^ 16 + 1)
  [4, 8].foldl (fun s n => setS (n + 3) d3 (setS (n + 2) 0x20002 (setS n 0x40000 s))) (only 0x80000001 (setV 0 (fun l => if l = 0 then 0x3F800000 else 0x7FC00000) base))
def texOk (s : State) (lin : Bool) (iss : Iss) (r : BufRec) : Bool :=
  (lanes iss.act).all (fun l => !finiteUV s iss l || (match tapsOf r lin (lane32 s iss .f32 l iss.o.b) (lane32 s iss .f32 l iss.o.c) 0 0 with
    | none => true
    | some ts => ts.all (fun p => match texelAddr r (mf iss.o 60 59) p.1 p.2.1 with | none => true | some a => a % 2 ^ r.esz == 0 && plainAt s iss .read 0 (.at a) && decide (mget s.lost (a / 128) = none))))
def sampled (s : State) (ne : Nat) (lin : Bool) (iss : Iss) : Bool :=
  recOk s iss && decide (components (recA s iss) = some ne) && iss.act != 0 && decide ((coreOf s 0).sampler = []) && texOk s lin iss (recA s iss)
theorem witness_Sampling :
    ([0, 0x100, 0x200, 0x300, 0x100 + 0x400, 0x700].all (fun m => holds (tex 2) .vsample (op .f96c (.vec 4) (.scal 4) (.vec 0) (.vec 1) m) (fun iss => sampled (tex 2) 1 (mf iss.o 58 58 == 1) iss && decide (4 + 1 ≤ budgetOf iss))) &&
     holds (tex 2) .vsample (op .f128c (.vec 4) (.scal 4) (.vec 0) (.vec 1) 0 0 0 (.lit 0)) (fun iss => sampled (tex 2) 1 false iss && decide (uni (tex 2) iss iss.o.d = some 0)) &&
     holds (tex 3) .vsample (op .f96c (.vec 7) (.scal 4) (.vec 0) (.vec 1)) (fun iss => sampled (tex 3) 2 false iss && budgetOf iss == 8) &&
     holds (tex 3) .vgather4 (op .f96c (.vec 4) (.scal 4) (.vec 0) (.vec 1) 0x40) (fun iss => sampled (tex 3) 2 true iss && mf iss.o 57 56 == 1) &&
     holds (tex 2) .vgather4 (op .f96c (.vec 4) (.scal 4) (.vec 0) (.vec 1) 0x40) (fun iss => sampled (tex 2) 1 true iss && mf iss.o 57 56 == 1) &&
     holds (tex 2) .vsamplel (op .f128c (.vec 4) (.scal 4) (.vec 0) (.vec 1) 0 0 0 (.vec 1)) (fun iss => sampled (tex 2) 1 true iss && (match nextRecord (tex 2) iss iss.o.a with | .ok (some (w1, r)) => (match checkRecord iss w1 with | .ok _ => true | .error _ => false) && decide (components r = some 1) && texOk (tex 2) true iss r | _ => false))) = true := by decide +kernel

/-- TCOPY's sources: records in b2 and b3, parameters in b4, a second quad in b5. -/
def copyS (w : Nat) (src dst : Nat) : State :=
  let d3 : W32 := BitVec.ofNat 32 (2 * 2 ^ 22 + 2 ^ 16 + 4)
  setS 22 0 (setS 20 1 (setS 23 16 (setS 18 (BitVec.ofNat 32 (0x10000 + w)) (setS 15 d3 (setS 14 64 (setS 12 (BitVec.ofNat 32 dst) (setS 11 d3 (setS 10 64 (setS 8 (BitVec.ofNat 32 src) base)))))))))
def copyBy (s : State) (iss : Iss) (planes : Nat) : Copy :=
  let q := fun (a : Src) j => (quadW32 s iss 0 a j).toNat
  copyOf s iss (q iss.o.a) (q iss.o.b) (skindOf iss.o) (dkindOf iss.o == 1) (xfOf iss.o) (.timeline 0) planes 0 0
def copyWell (s : State) (planes : Nat) (iss : Iss) : Bool :=
  recOk s iss && (match readRecord s iss iss.o.b with | .ok (some _) => true | _ => dkindOf iss.o == 2) &&
  !copySizesBad (copyBy s iss planes) (dkindOf iss.o) true true && !copyFormatBad (copyBy s iss planes) (decide (dkindOf iss.o ≠ 2)) true true
def tcopyO (m : BitVec 13) (d : Src) : Operands := op .f128c none_ (.scal 8) (.scal 12) (.scal 16) m 0 0 d
def busy (n : Nat) (s : State) : State :=
  let c := copyBy s (at_ s (.tcopy (tcopyO 0 (.lit 0))) (tcopyO 0 (.lit 0))) 1
  { s with cores := [(0, { Core.empty with copies := List.replicate n c })] }
/-- A leaf for the 128 MiB from 2^27 on that leads to device 1, which is one hop away. -/
def peerS (s : State) : State := { put64 0x18008 (peerAddr 1 0 + 0x3B) s with hops := [(1, 0x04000000)] }
theorem witness_CopyAcceptance :
    ([busy 31 (copyS 1 0x40000 0x50000), busy 32 (copyS 64 0x40000 0x50000)].all (fun s => holds s .tcopy (tcopyO 0 (.lit 1023)) (fun iss => copyWell s 1 iss && uni s iss iss.o.d == some 1023)) &&
     (let s := setS 24 4095 (setS 25 4096 (copyS 1 0x40000 0x50000))
      [24, 25].all (fun d => holds s .tcopy (tcopyO 0 (.scal d)) (copyWell s 1))) &&
     holds (copyS 0 0x40000 0x50000) .tcopy (tcopyO 0 (.lit 1)) (fun iss => copySizesBad (copyBy (copyS 0 0x40000 0x50000) iss 1) 0 true true) &&
     (let s := setS 15 0 (copyS 1 0x40000 0x50000)
      holds s .tcopy (tcopyO 0 (.lit 1)) (fun iss => !copySizesBad (copyBy s iss 1) 0 true true && copyFormatBad (copyBy s iss 1) true true true)) &&
     (let s := copyS 1 0x40000 0x100
      [0x800, 0xA00].all (fun m => holds s .tcopy (tcopyO m (.lit 0x3F0)) (fun iss => copyWell s 1 iss && dkindOf iss.o == 1 && decide (mget iss.tm.objs 0x3F = none)))) &&
     (let s := { copyS 1 0x40000 0x100 with teams := liveS.teams.map (fun e => (e.1, { e.2 with groups := (mget (copyS 1 0x40000 0x100).teams 0).elim [] (fun tm => tm.groups) })) }
      holds s .tcopy (tcopyO 0xA00 (.lit 0x40)) (fun iss => copyWell s 1 iss && (match objTest (objAt iss.tm 0x40) (.expect (copyBytes (copyBy s iss 1))) with | .ok _ => true | _ => false))) &&
     (let s := setS 12 7 (copyS 64 0x40000 0)
      holds s .tcopy (tcopyO 0x1000 (.lit 1)) (fun iss => copyWell s 1 iss && (uni s iss iss.o.b).any (fun w => decide (targetBad w = none)))) &&
     holds (copyS 1 0x40000 0x50000) .tcopyx (op .f128c none_ (.scal 8) (.scal 12) (.scal 16) 0 0 0 (.scal 20)) (fun iss => copyWell (copyS 1 0x40000 0x50000) 1 iss && decide (quadW32 (copyS 1 0x40000 0x50000) iss 0 iss.o.d 0 = 1)) &&
     [copyS 1 0x40000 0x8000000, copyS 1 0x8000000 0x40000, copyS 1 0x40000 0x50000].all (fun s => holds (peerS s) .tpeer (tcopyO 0 (.lit 1)) (fun iss => copyWell (peerS s) 1 iss &&
       (match baseFrame (peerS s) iss .read (copyBy (peerS s) iss 1 |> copySrc).base, baseFrame (peerS s) iss .write (copyBy (peerS s) iss 1 |> copyDst).base with | .ok _, .ok _ => true | _, _ => false)))) = true := by decide +kernel
def landing : Copy := { copyBy (copyS 2 0x100 0x200) (at_ (copyS 2 0x100 0x200) (.tcopy (tcopyO 0 (.lit 0))) (tcopyO 0 (.lit 0))) 1 with id := 5, srcScratch := true, dstScratch := true, done := .timeline 9 }
def landS (pos : Nat) (landed : Bool) : State := { base with cores := [(0, { Core.empty with copies := [{ landing with pos := pos, landed := landed }] })] }
def tl9 (v : W64) (s : State) : State := modC (fun q => { q with timelines := [(9, v)] }) s
theorem witness_Timelines :
    ([4095, 4096].all (fun n => [Instr.tlwait (op .f64 none_ (.scal 4) (.lit 1)), .tlsig (op .f64 none_ (.scal 4) (.lit 1) z 0xC), .tlrd (op .f64 (.scal 8) (.scal 4) z)].all (fun i => issues (setS 4 n base) i ((operands i).getD (op .f64 none_ z z)))) &&
     [0, 1].all (fun v => holds (tl9 v base) .tlwait (op .f64 none_ (.lit 9) (.lit 1)) (fun iss => timelineOf (tl9 v base) 0 9 == v && decide (uni (tl9 v base) iss iss.o.a = some 9))) &&
     holds (fullQ 1 base) .tlsig (op .f64 none_ (.lit 9) (.lit 1) z 0xC) (fun iss => !storesReached (fullQ 1 base) 0 0 (mf iss.o 54 52)) && holds base .tlsig (op .f64 none_ (.lit 9) (.lit 1) z 0xC) (fun iss => storesReached base 0 0 (mf iss.o 54 52)) &&
     [3, 4].all (fun c => holds base .satrd (op .f64 (.scal 8) (.lit c) z) (fun iss => scal32 base iss 0 iss.o.a == c.setWidth 32)) &&
     (ctxOf (tl9 0xFFFFFFFFFFFFFFFE base) 0).any (fun q => (mgetD q.timelines 0 9).toNat + 1 == 2 ^ 64 - 1 && !q.tlPosted.contains 9)) = true := by decide +kernel
/-- Target words: local; reserved bits; a device beyond the last; a peer; the host, with and without an endpoint. -/
theorem witness_MailboxPosts :
    ([0x007, 0x400, 0x82800000, 0x80010007, 0x83FF0007].map (fun w => targetBad (BitVec.ofNat 32 w)) = [none, some 5, some 13, none, none]) ∧
    ([0, 1, 256, 257].all (fun x => holds (setS 4 x base) .mbpost (op .f96c none_ (.lit 7) (.lit 32) (.scal 4)) (fun iss => scal32 (setS 4 x base) iss 0 iss.o.c == x && storesReached base 0 0 3)) &&
     [16, 4064, 4096].all (fun a => holds (setS 4 a base) .mbpost (op .f96c none_ (.lit 7) (.scal 4) (.lit 32)) (fun iss => iss.tm.scratchBytes == 4096)) &&
     holds (fullQ 1 base) .mbpost (op .f96c none_ (.lit 7) (.lit 32) (.lit 16)) (fun _ => !storesReached (fullQ 1 base) 0 0 3) &&
     [1023, 1024, 0xFFFFFFFF].all (fun r => holds (setS 4 r base) .launch (op .f96c none_ (.lit 7) (.lit 32) (.scal 4)) (fun iss => privileged iss && scal32 (setS 4 r base) iss 0 iss.o.c == r)) &&
     holds (modT (fun tm => { tm with priv := false }) base) .launch (op .f96c none_ (.lit 0) (.lit 32) (.lit 7)) (fun iss => !privileged iss && privMailbox base 0 0) &&
     (ctxOf base 0).any (fun q => decide (q.endpoint = none)) && (ctxOf base 0).any (fun q => decide (q.tracked.length < 256))) = true := by decide +kernel
def jobs (n : Nat) (s : State) : State := { s with cores := [(0, { Core.empty with jobs := (List.range n).map (fun i => { id := 100 + i, team := 0, group := 0, pc := 0, card := 0, tile := 0, fmt := 0, progress := 0, counted := false, read := none, sums := [] }) })] }
/-- INT8 by INT8 into INT32 is a format; rnd 3 is none. -/
theorem witness_MatrixInstructions :
    (let right := fun (iss : Iss) => let f := fmtOf iss
       !(fmtAcc f == 2) && comboAny f && rndOf f != 3 && !noPlanes f (fmtA f)
     [0, 8, 4080, 4096].all (fun c => holds (setFmt 0x610 (setS 4 c (jobs 15 base))) .mjob (op .f64 none_ (.scal 4) (.lit 0)) (fun iss => right iss && iss.tm.tiles.length == 1 && iss.tm.scratchBytes == 4096)) &&
     holds (setFmt 0x610 (jobs 16 base)) .mjob (op .f64 none_ (.lit 0) (.lit 0)) right && holds base .mjob (op .f64 none_ (.lit 0) (.lit 1)) (fun iss => iss.tm.tiles.length == 1) &&
     holds (setFmt 0xC00000 base) .mjob (op .f64 none_ (.lit 0) (.lit 0)) (fun iss => rndOf (fmtOf iss) == 3) &&
     (let s := modG (fun gr => { gr with pending := [(1, [100])] }) (jobs 1 base)
      [0, 1].all (fun n => holds s .mwait (op .f64 none_ (.lit n) z) (fun iss => iss.gr.pending.length == 1))) &&
     [0, 5].all (fun n => holds base .mquery (op .f64 (.scal 8) (.lit n) z) (fun _ => true))) = true := by decide +kernel

/-- A MULTIPLY card at 0 for two INT8 elements, 1 by 1, with zinit and an output at 3072; both operands in scratchpad. -/
def cardMap : Map Byte :=
  let w := fun (a v : Nat) => (List.range 4).map (fun j => (a + j, BitVec.ofNat 8 (v / 256 ^ j)))
  ((List.range 63).flatMap (fun j => w (4 * j) (match j with | 0 => 0x80 | 1 => 2 | 2 => 0x40 | 4 => 1024 | 6 => 2048 | 24 => 3072 | 28 => 1 | _ => 0))) ++ w 1024 0x0201 ++ w 2048 0x0403
def jobS (read : Bool) (card : Nat) : State :=
  modT (fun tm => { tm with scratch := cardMap }) { base with cores := [(0, { Core.empty with jobs := [{ id := 9, team := 0, group := 0, pc := 0, card := card, tile := 0, fmt := 0x610, progress := 0, counted := false, read := if read then some (cardMap.take 252 |>.map Prod.snd) else none, sums := [] }] })] }
/-- A card that passes, already read or not; one that does not (its header is of the reserved mode 4 and more: it begins at byte 1024). -/
theorem witness_JobSteps :
    ((teamOf (jobS false 0) 0).any (fun tm => let card := scratchBytes tm 0 252
       tm.bad == [] && decide (checkCard 4096 0 0 1 card 0x610 = none) && totalSteps card == 1 &&
       (let e := jobStep tm [] card 0x610 0 0 false
        e.out.map Prod.fst == [3072, 3073, 3074, 3075] && decide (liveHit (jobS false 0) 0 tm (e.out.map Prod.fst) = none)) &&
       (let b := card.set 0 0x0F
        (checkCard 4096 0 0 1 b 0x610).isSome)) &&
     ((coreOf (jobS true 0) 0).jobs.any (fun j => j.read.isSome)) && decide ((coreOf base 0).jobs = [] ∧ fmtAcc 0x610 = 1)) = true := by decide +kernel

/-- A pool of two tags at 0x50000; word 0 of tag 0 given. -/
def tagS (w0 : Nat) : State := modC (fun q => { q with tagbase := 0x50000, tagcount := 2, lostbase := 0x60000, lostsize := 0x10000 }) { base with mem := writeBytes base.mem 0x50000 (bytesOf 4 w0) }
theorem witness_Tags :
    (let free := tagS 0
     let used := { tagS 0x8000 with mem := writeBytes (tagS 0x8000).mem 0x50020 (bytesOf 4 0x8000) }
     let talloc := op .f64 (.scal 8) z z
     holds (modG (fun gr => { gr with allocs := [(0x20000, 5)] }) free) .tagalloc talloc (fun iss => again iss == some 5) &&
     holds used .tagalloc talloc (fun iss => decide (again iss = none) && (List.range (tagCount used 0)).all (fun i => recAlloc (tagWord used 0 i 0))) &&
     holds (tagS 0x8000) .tagalloc talloc (fun iss => decide (again iss = none) && !recAlloc (tagWord (tagS 0x8000) 0 1 0) && recAlloc (tagWord (tagS 0x8000) 0 0 0) && decide ((tagS 0x8000).badLines = [] ∧ recAddr (tagS 0x8000) 0 1 + 32 ≤ 2 ^ 39)) &&
     [1, 2].all (fun t => [Instr.tagset (op .f64 none_ (.lit t) (.lit 0x20)), .tagfree (op .f64 none_ (.lit t) z), .rvsend (op .f96c none_ (.lit t) (.lit 0x40) (.lit 64)), .rvsendg (op .f96c none_ (.lit t) (.vec 7) (.lit 128))].all (fun i => issues (tagS 0x8000) i ((operands i).getD talloc))) &&
     [0, 32, 64, 512, 576].all (fun n => holds (setS 8 n (tagS 0x8000)) .rvsend (op .f96c none_ (.lit 0) (.lit 0x40) (.scal 8)) (fun iss => uni (setS 8 n (tagS 0x8000)) iss iss.o.a == some 0)) &&
     [128, 256].all (fun n => holds (setS 8 n (tagS 0x8000)) .rvsendg (op .f96c none_ (.lit 0) (.vec 7) (.scal 8)) (fun iss => budgetOf iss == 8)) &&
     [0x41, 4032, 4096].all (fun a => holds (setS 8 a (tagS 0x8000)) .rvsend (op .f96c none_ (.lit 0) (.scal 8) (.lit 64)) (fun iss => iss.tm.scratchBytes == 4096 && storesReached (tagS 0x8000) 0 0 3 && loadsPerformed iss.gr)) &&
     holds (fullQ 1 (tagS 0x8000)) .rvsend (op .f96c none_ (.lit 0) (.lit 0x40) (.lit 64)) (fun _ => !storesReached (fullQ 1 (tagS 0x8000)) 0 0 3) &&
     holds (tagS 0x5008000) .tagfree (op .f64 none_ (.lit 0) z) (fun _ => recGen (tagWord (tagS 0x5008000) 0 0 0) == 5) &&
     holds (tagS 0x8000) .tagfree (op .f64 none_ (.lit 0) z) (fun _ => recGen (tagWord (tagS 0x8000) 0 0 0) == 0 && (tagState (tagS 0x8000) 0 0).queue == [])) = true := by decide +kernel
def sd0 : Send := { id := 3, ctx := 0, tag := 0, slot := 0, bytes := List.replicate 64 7, src := 0, group := 0, seq := 0, core := 0, tx := 0, ty := 0, tz := 0, device := 0, result := false, set := none }
def ent0 : Entry := { id := 2, ctx := 0, tag := 0, annex := none, segment := 0, send := { sd0 with id := 2, slot := 1 }, round := 1, dests := [], waitTouch := [] }
def sendS (w0 : Nat) (sd : Send) (x : TagState) (es : List Entry) : State := modC (fun q => { q with tags := [(0, x)] }) { tagS w0 with sends := [sd], entries := es }
/-- A stale generation, a free tag, one without a record, another size, an orphan; the first operand; the second, with and without
destinations; TAGSETs; timeouts; the three kinds of destination. -/
theorem witness_RendezvousEvents :
    ([(0x1018000, tagStateNew), (0x10000, tagStateNew), (0x8000, tagStateNew), (0x38000, tagStateNew), (0x18000, { tagStateNew with orphan := true }), (0x18000, tagStateNew)].map (fun c =>
       let d := tagWord (sendS c.1 sd0 c.2 []) 0 0 0
       (recGen d == 0, recAlloc d, recSet d, decide (sd0.bytes.length = (recSzc d + 1) * 64), (tagState (sendS c.1 sd0 c.2 []) 0 0).orphan)) =
     [(false, true, true, true, false), (true, false, true, true, false), (true, true, false, true, false), (true, true, true, false, false), (true, true, true, true, true), (true, true, true, true, false)]) ∧
    (let s := sendS 0x18000 sd0 tagStateNew []
     let two := sendS 0x18000 sd0 { tagStateNew with slot := 1, queue := [2] } [ent0]
     cloakRoom s (Config.tagHash 0 0).val && (findEntry two 2).isSome && !annexBad two ent0 && decide (destsOf two 0 0 = []) && (ctxOf two 0).isSome &&
     (let d : W32 := (tagWord s 0 0 0 &&& 0xFF008000) ||| 0x00010000
      recOp d == 0 && decide (recAddr s 0 0 + 32 ≤ 2 ^ 39)) &&
     (let d : W32 := (tagWord s 0 0 0 &&& 0xFF008000) ||| (0x00C00000 &&& 0x00FE0000) ||| 0x00010000
      recOp d == 12)) = true ∧
    (let s := modC (fun q => { q with defaultTmo := 1 }) { sendS 0x18000 sd0 { tagStateNew with queue := [2] } [ent0] with l2cycle := Config.timeoutUnit + 1 }
     (ctxOf s 0).any (fun q => q.phase == .running && q.defaultTmo == 1) && decide (tagWord s 0 0 1 = 0 ∧ Config.timeoutUnit < s.l2cycle)) = true ∧
    [2 ^ 46 + 2 ^ 32 + 1, 2 ^ 47 + 5 * 2 ^ 32 + 0x100010, 2 ^ 47 + 0x100010, 3 * 2 ^ 46 + 5].all (fun l =>
      let s := sendS 0x18000 sd0 tagStateNew [{ ent0 with dests := [(0, l)] }]
      (findEntry s 2).any (fun e => decide (e.dests.find? (fun y => y.1 == 0) = some (0, l) ∧ s.peerReqs = [] ∧ e.waitTouch = []) && !annexBad s e) &&
      (handleTeam s 0 5).isNone && (handleTeam s 0 0).any (fun x => takesDelivery s x.2)) = true := by decide +kernel

/-! Procedural memory: the 128 MiB from 2^27 on are mapped by a table of level 0 at 0x1C000; range 0 is its first block. -/

def range0 : Range := { base := 2 ^ 27, len := 2 ^ 16, packet := List.replicate 64 0, param := 0, limit := 1, retry := 1, budget := 0, tl := none, perms := 7, acls := 0, deleting := false }
def gen0 : GenInfo := { fill := 0, block := 2048, range := 0, depth := 1, ancestors := [2048], attempt := 0, acted := false }
def blk0 : Block := { range := 0, frame := 0x90000, die := 0, gen := gen0, began := 0, grid := none, ended := none, queue := [], filled := false, filledAt := 0, evict := false, held := false }
def procS (leaf : Nat) (bs : Map Block) : State := modC (fun q => { q with catalogue := [(0, range0)], blocks := bs }) (put64 0x1C000 leaf (put64 0x18008 0x1C001 base))
def genS (acted : Bool) : State := modT (fun tm => { tm with gen := some { gen0 with acted := acted } }) (procS (2 ^ 52 + 0x7B) [(2048, { blk0 with grid := some 0 })])
theorem witness_Generators :
    (holds base .gdone (plain 0 Instr.gdone) (fun iss => decide (iss.tm.gen = none)) && holds base .gfail (plain 0 Instr.gfail) (fun iss => decide (iss.tm.gen = none)) &&
     [false, true].all (fun a => holds (genS a) .gdone (plain 0 Instr.gdone) (fun iss => iss.tm.gen.any (fun g => g.acted == a) && decide (iss.q.wait = none)) && holds (genS a) .gfail (plain 0 Instr.gfail) (fun iss => iss.tm.gen.any (fun g => g.acted == a))) &&
     holds (waitAt (.gdone 0) (genS true)) .gdone (plain 0 Instr.gdone) (fun iss => (ownBlock (act (genS true) 0) iss.tm).isSome && storesHome (act (genS true) 0) 0 iss.tm 0) &&
     holds (fullQ 1 (waitAt (.gdone 1) (genS true))) .gdone (plain 0 Instr.gdone) (fun iss => !storesHome (act (fullQ 1 (waitAt (.gdone 1) (genS true))) 0) 0 iss.tm 1) &&
     [Instr.prblk (op .f96l (.scal 8) (.lit 0x400) z z 0 0 0x8000000), .previct (op .f96l none_ (.lit 0x400) z z 0 0 0x8000000)].all (fun i => issues (procS 0 [(2048, { blk0 with filled := true })]) i ((operands i).getD (plain 0 Instr.gdone))) &&
     (let s := procS 0 [(2048, { blk0 with filled := true })]
      (blockOf s 0 2048).any (fun b => b.filled) && !pinned s 0 2048 && pinned (modG (fun gr => { gr with queue := [{ entry0 with block := some 2048 }] }) s) 0 2048)) = true := by decide +kernel
def touch0 : Touch := { id := 4, ctx := 0, block := 2048, die := 0, req := .gang 0 0 0, gen := none, lanes := 1, addr := 2 ^ 27, origin := none }
def touchS (r : Range) (bs : Map Block) (a0 a1 : List Nat) : State := { modC (fun q => { q with catalogue := [(0, r)], allot0 := a0, allot1 := a1 }) (procS 0x7B bs) with touches := [touch0] }
/-- A packet of one team of one group of role 0. -/
def packet0 : List Byte := pkPut (pkPut (pkPut (List.replicate 64 0) 4 1) 5 0x10001) 6 0x100
theorem witness_ProceduralEvents :
    (let r := { range0 with packet := packet0 }
     let p := pkSingle (pkWithCtx packet0 0)
     [touchS r [(2048, { blk0 with filled := true })] [] [], touchS r [(2048, blk0)] [] []].all (fun s => (ctxOf s 0).any (fun q => (mget q.blocks 2048).isSome) && s.touches.any (fun u => u.id == 4 && u.gen == none)) &&
     (ctxOf (touchS r [] [] []) 0).any (fun q => decide (q.phase = .running ∧ mget q.blocks 2048 = none) && (rangeOf q 2048).isSome && (rangeOf q 2049).isNone) &&
     (let e := leafOf (touchS r [] [] []) 0 (65536 * 2048)
      e % 4 == 3 && e / 2 ^ 6 % 2 == 1 && e / 2 ^ 52 % 4 == 0) &&
     packetMask p == 0 && packetMask (pkSingle (pkWithCtx range0.packet 0)) != 0 && !windowDead (touchS r [] [0x90000] []) p &&
     (attemptEnd (touchS r [] [] []) { blk0 with ended := some (3, 0, true) }).isSome && (attemptEnd (touchS r [] [] []) { blk0 with grid := some 0 }).isNone &&
     decide (leafAddr (touchS r [] [] []) 0 (65536 * 2048) = some 0x1C000) && !pinned (touchS r [] [] []) 0 2048) = true := by decide +kernel
theorem witness_SystemRegisters :
    ((List.range 16).all (fun n => holds base .sysrd (op .f64 (.scal 8) (.lit (BitVec.ofNat 11 n)) z) (fun iss => litA iss == n)) &&
     [0, 3, 5, 6, 11].all (fun n => holds base .syswr (op .f64 none_ (.lit n) (.lit 9)) (fun iss => litA iss == n.toNat)) &&
     [0x50000, 0xFFFF0000, 0x50001].all (fun f => holds (setS 8 f base) .apush (op .f64 none_ (.lit 12) (.scal 8)) (fun iss => litA iss == 12)) && holds (setS 9 0x40 base) .apush (op .f64 none_ (.lit 13) (.scal 8)) (fun iss => litA iss == 13) &&
     [0, 9].all (fun v => holds base .hentryWrite (op .f64 none_ (.lit 4) (.lit v)) (fun _ => true)) && (ctxOf base 0).isSome) = true := by decide +kernel
def va27 (s : State) : State := setS 8 0x8000000 (setS 12 0x90000 (setS 9 0 s))
theorem witness_Leaves :
    (let none' := va27 base
     let empty := va27 (procS 0 [])
     let full := va27 (procS 0x9003B [])
     let proc := va27 (procS 0x7B [])
     let pm := op .f96c none_ (.scal 8) (.scal 12) (.lit 0x38)
     let pu := op .f64 none_ (.scal 8) z
     decide (leafAddr none' 0 0x8000000 = none ∧ leafAddr empty 0 0x8000000 = some 0x1C000 ∧ empty.badLines = []) && isProc (home64 proc 0 0x1C000) && home64 empty 0 0x1C000 % 2 == 0 && home64 full 0 0x1C000 % 2 == 1 && !isProc (home64 full 0 0x1C000) &&
     [none', empty, full, proc].all (fun s => issues s (.pmap pm) pm && issues s (.punmap pu) pu && issues s (.punmapRet { pu with m := 1 }) { pu with m := 1 }) &&
     [Instr.tlbinvAll (plain 0 Instr.tlbinvAll), .tlbinvPage (plain 0 Instr.tlbinvPage), .tlbinvRange (plain 0 Instr.tlbinvRange)].all (fun i => issues empty i ((operands i).getD pu)) &&
     !storesReached (fullQ 1 empty) 0 0 3 && storesReached empty 0 0 3 && !inFlight empty 0 .all && inFlight (withRet (fun r => { r with queued := 1 }) empty) 0 (.from 2048 1) && empty.lost == [] &&
     [0, 1, 2, 3].all (fun n => holds base .poolget (op .f64 (.scal 10) (.lit n) z) (fun iss => decide (again iss = none ∧ iss.tm.core < 256)))) = true := by decide +kernel

/-- Context 1 beside context 0, in a phase. -/
def ctx1 (p : CtxPhase) (s : State) : State := { s with ctxs := mput s.ctxs 1 { freshCtx { session := 0, frames := [], root := 0, packet := [], slotBase := 0, slots := 1 } 2 with phase := p } }
/-- A block of 128 bytes at 0 of the scratchpad: dwords as listed, else 0. -/
def blockS (ws : List (Nat × Nat)) (s : State) : State := modT (fun tm => { tm with scratch := (List.range 32).flatMap (fun j => (bytesOf 4 ((ws.find? (fun w => w.1 == j)).map Prod.snd |>.getD 0)).mapIdx (fun i b => (4 * j + i, b))) }) s
theorem witness_SupervisorRequests :
    ([(63, 4095, 0), (64, 0, 0), (0, 4095, 0), (1, 4096 % 2048, 0)].all (fun x => holds (setS 4 (BitVec.ofNat 32 x.1) (setS 5 (BitVec.ofNat 32 x.2.1) base)) .haltctx (op .f64 none_ (.scal 4) (.scal 5)) (fun _ => (ctxOf base 1).isNone)) &&
     [CtxPhase.running, .draining, .stopped].all (fun p => holds (ctx1 p base) .haltctx (op .f64 none_ (.lit 1) (.lit 5)) (fun _ => (ctxOf (ctx1 p base) 1).any (fun q => q.phase == p && !q.fatal)) && holds (ctx1 p base) .haltctxRes (op .f64 none_ (.lit 1) z) (fun _ => (ctxOf (ctx1 p base) 1).isSome)) &&
     [0, 1, 64, 65].all (fun n => holds (blockS [(18, 1)] base) .mbreg (op .f96c none_ (.lit 1023) (.lit 0) (.lit n)) (fun iss => !badScratch iss.tm (List.range 80))) &&
     (let s := blockS [(16, 0x8000000), (18, 0x10000), (22, 1)] (put64 0x18008 0x1C001 base)
      holds s .prdecl (op .f64 none_ (.lit 255) (.lit 0)) (fun iss => let bs := scratchBytes iss.tm 0 128
        descriptorOk bs && (rangeOfBlock 0 bs).len == 2 ^ 16 && decide (leafAddr s 0 (2 ^ 27) = some 0x1C000) && (ctxOf s 0).any (fun q => decide (q.catalogue = [])) && storesReached s 0 0 3)) &&
     holds (blockS [] base) .prdecl (op .f64 none_ (.lit 0) (.lit 0)) (fun iss => !descriptorOk (scratchBytes iss.tm 0 128)) &&
     [procS 0x7B [], procS 0x7B [(2048, blk0)]].all (fun s => holds s .prdeclDel (op .f64 none_ (.lit 0) z z 1) (fun _ => (ctxOf s 0).any (fun q => (mget q.catalogue 0).isSome))) &&
     holds (tagS 0x8000) .tagpool (op .f64 none_ (.lit 0) (.lit 1)) (fun _ => tagsInUse (tagS 0x8000) 0) &&
     [[], [(0, 0x50000), (2, 0x60000), (4, 0x70000), (6, 1)], [(0, 0x50000), (6, 0xFFFFFF)], [(0, 0x50000), (6, 0x1000000)]].all (fun ws => holds (blockS ws base) .tagpool (op .f64 none_ (.lit 0) (.lit 1)) (fun _ => !tagsInUse (blockS ws base) 0))) = true := by decide +kernel
def phaseS (p : CtxPhase) (s : State) : State := modC (fun q => { q with phase := p }) s
theorem witness_ContextStops :
    ([phaseS .draining base, { phaseS .draining base with teams := [] }].all (fun s => (ctxOf s 0).any (fun q => q.phase == .draining && drainOver s 0 q && decide (q.destroying = none))) &&
     (ctxOf (fullQ 1 (phaseS .draining base)) 0).any (fun q => !drainOver (fullQ 1 (phaseS .draining base)) 0 q) &&
     -- an advance that is owed: with nothing before it, and behind a store
     (let tl : HaltTl := { ctx := 1, index := 4095, core := 0, place := 1 }
      let s := { ctx1 .running (modC (fun q => { q with phase := .draining, haltTls := [tl] }) base) with teams := [] }
      (ctxOf s 0).any (fun q => drainOver s 0 q) && reached s 0 0 0 3 1 && (ctxOf s 1).isSome && !reached (fullQ 1 base) 0 0 0 3 1 &&
      [base, fullQ 1 base].all (fun s => (ctxOf (modC (fun q => { q with owed := [{ tl with ctx := 0 }] }) s) 0).any (fun q => q.owed.length == 1))) && (teamOf base 0).isSome) = true := by decide +kernel
def inL2 (s : State) : State := { s with l2 := [(0xA00, false)] }
theorem witness_MemoryTraffic :
    (let drains := fun (s : State) => (teamOf s 0).any (fun tm => tm.bad == [] && (gr0 s).any (fun gr => (gr.queue.mapIdx (fun n e => e.left && mayArrive s n 0 gr e)).any id))
     let away := fun (op : SQOp) => modG (fun gr => { gr with queue := [{ entry0 with left := true, op := op }] }) base
     -- the head leaves; one on its way arrives once its line is in L2
     (gr0 (fullQ 1 base)).any (fun gr => mayLeave (fullQ 1 base) 0 0 0 0 gr entry0 && !entry0.left) && drains (inL2 (away entry0.op)) && !drains (away entry0.op) &&
     drains (inL2 (away (.atomic 5 0x50000 1 0 (some 7) [64]))) && decide (dataError base 0x50000 4 = none ∧ base.badLines = []) &&
     (gr0 (withRet id base)).any (fun gr => gr.returns.all (fun x => !stillServes gr x && x.cw == [] && !readAfter gr x && decide (lateLost base 0 x = none)) && gr.acqs == []) && (gr0 (withRet (fun r => { r with lines := [0xA00] }) base)).any (fun gr => gr.returns.any (fun x => x.lines.any (fun l => (mget base.l2 l).isNone)))) = true := by decide +kernel
/-- Of 97 lines two have the same home segment, whatever the hash is: a line and a victim for its place. -/
theorem witness_victim : ∃ v line : Nat, v ≠ line ∧ line < 2 ^ 32 ∧ segmentOf v = segmentOf line := by
  have die : ∀ i : Fin 97, Word.field (128 * i.val) 38 38 = 0 := by decide +kernel
  obtain ⟨a, b, h, e⟩ := Fintype.exists_ne_map_eq_of_card_lt (fun i : Fin 97 => Config.lineHash i.val) (by simp)
  have e' : Config.lineHash a.val = Config.lineHash b.val := e
  refine ⟨a.val, b.val, fun x => h (Fin.ext x), by omega, ?_⟩
  simp only [segmentOf, die, e']

def msg0 (kind : MsgKind) (mb : Nat) : Msg := { plainMsg base kind 0 mb (List.replicate 16 7) with id := 6 }
def mailS (m : Msg) (f : Ctx → Ctx) : State := modC f { base with msgs := [m] }
def slots (n : Nat) (st : Map SlotState) (q : Ctx) : Ctx := { q with mailboxes := [(0, { n := n, base := 0x50000, packet := packet0, priv := true, slots := st })] }
def full1 : Ctx → Ctx := slots 1 [(0, .waiting)]
/-- No mailbox; a free slot; none, with 63 and 64 messages held; a slot taken; a packet that launches and one that does not. -/
theorem witness_MailboxEvents :
    (decide (mailboxOf (mailS (msg0 .post 9) id) 0 9 = none) && (mailboxOf (mailS (msg0 .post 0) (slots 2 [(0, .waiting)])) 0 0).any (fun m => decide (mget m.slots 1 = none) && (mget m.slots 0).isSome) &&
     (mailboxOf (mailS (msg0 .post 0) full1) 0 0).any (fun m => (mget m.slots 0).isSome && m.n == 1) &&
     [63, 64].all (fun n => (ctxOf (mailS (msg0 .post 0) (fun q => { full1 q with overflow := List.replicate n (0, msg0 .post 0) })) 0).any (fun q => q.overflow.length == n && someoneWaits q 0)) &&
     (ctxOf (mailS (msg0 (.host .rud) 0) full1) 0).any (fun q => !someoneWaits q 0) && !flowBusy (mailS (msg0 (.host .rud) 0) full1) .rud 6 && flowBusy { mailS (msg0 (.host (.rod 1)) 0) full1 with hostOps := [{ id := 5, flow := .rod 1, ctx := 0, write := false, offset := 0, bytes := [], n := 1, tl := 0, more := false, failed := false, waitTouch := none, fetched := [] }] } (.rod 1) 6 &&
     (match engineXlat (mailS { msg0 .post 0 with slot := some 0, slotAddr := 0x50000 } id) (segmentWho 0) .write false ((List.range 256).map (fun i => (0x50000 + i) % 2 ^ 57)) with
       | .ok xs => xs.length == 256 && xs.all (fun x => x.pa == x.va && x.others == []) && (xs.map (fun x => x.pa)) == (List.range 256).map (fun i => 0x50000 + i)
       | .error _ => false) &&
     (let p := pkWithCtx packet0 0
      packetMask p == 0 && !windowDead base p) && packetMask (pkWithCtx (List.replicate 64 0) 0) != 0 &&
     (mailboxOf (recs 1 base) 0 0).any (fun m => freeSlot m == some 0) && (ctxOf (recs 1 base) 0).any (fun q => (waitingRecord q 0).isSome && (waitingMsg q 0).isNone) &&
     (ctxOf (mailS (msg0 .post 1) (fun q => { q with overflow := [(0, msg0 .post 0)] })) 0).any (fun q => (waitingMsg q 0).isSome && (waitingRecord q 0).isNone)) = true := by decide +kernel
def gridS : State := { base with gridQueue := [5], grids := mput base.grids 5 { ctx := 0, mb := 0, slot := 0, slotAddr := 0x50000, packet := packet0, priv := true, next := 0, retired := 0, total := 1, bypass := 0, blocking := false, aborted := false, reply := none, firstTeam := none, reported := true, gen := none } }
def doneS : State := modG (fun gr => { gr with retired := true }) base
theorem witness_TeamEvents :
    ((mget gridS.grids 5).any (fun gd => (bestCore gridS gd.packet 0).isSome) && (ctxOf gridS 0).any (fun q => q.phase == .running && decide (q.handleSkipped = []) && decide (q.handleNext < 16383) && !handleNamed gridS 0 q.handleNext) && decide (gridS.saved = []) &&
     (teamOf (modT (fun tm => { tm with phase := .placed }) base) 0).any (fun tm => tm.phase == .placed && decide (tm.bankTouch = none) && (mget base.grids tm.grid).any (fun gd => bankLoads gd.packet == [])) &&
     (teamOf doneS 0).any (fun tm => tm.phase == .running && tm.groups.all (fun gr => gr.retired) && teamSettled doneS 0 tm) && (teamOf base 0).any (fun tm => !tm.groups.all (fun gr => gr.retired)) &&
     (let s := modT (fun tm => { tm with phase := .moving }) base
      (teamOf s 0).any (fun tm => tm.phase == .moving && drained s 0 tm && !tm.groups.all (fun gr => gr.retired))) &&
     (teamOf (fullQ 1 base) 0).any (fun tm => !drained (fullQ 1 base) 0 tm) &&
     (let s := { base with cycle := 64 }
      (teamOf s 0).any (fun tm => (gr0 s).any (fun gr => gr.gangs.any (gangReady s 0 tm gr) && decide (gr.readySince + 64 ≤ s.cycle.toNat ∧ gr.curPrio < 3))))) = true := by decide +kernel
/-- A wait of each kind that is not over; a gang whose lanes 4 to 31 were not active at its last issue, a full interval on; a tracked LAUNCH. -/
theorem witness_Watchdogs :
    (let late := { objPut (modT (fun tm => { tm with objs := [(4, ())] }) (modG (fun gr => { gr with pending := [(1, [5]), (2, [6])] }) base)) 0 0x40 { expected := 0, arrived := 0, pending := 1, initial := 1, phase := true } with cycle := BitVec.ofNat 64 Config.watchdog, touches := [{ id := 4, ctx := 0, block := 2048, die := 0, req := .gang 0 0 0, gen := none, lanes := 1, addr := 2 ^ 27, origin := none }] }
     [WaitKind.mwait 1 0, .bar 15, .bwait 0x40 true 0, .tlwait 9 1 0, .fill 2048 4, .regang (List.replicate 8 3) 0].all (fun k => (teamOf (waitAt k late) 0).any (fun tm => (gr0 (waitAt k late)).any (fun gr =>
       (gangAt gr 0).any (fun q => q.wait.any (fun w => w.kind == k && !w.posted && decide (w.since + 2 ^ 32 ≤ late.cycle.toNat) && !waitOver (waitAt k late) 0 tm gr w.kind))))) &&
     (gr0 (waitAt .retry late)).any (fun gr => (gangAt gr 0).any (fun q => q.wait.any (fun w => w.kind == .retry))) &&
     (teamOf late 0).any (fun tm => tm.phase == .running) && (gr0 (setGang (fun q => { q with seen := [(0, 0xFFFFFFF0), (2 ^ 32, 0xF)] }) late)).any (fun gr => (gangAt gr 0).any (fun q => decide (q.wait = none) && starvedLanes gr q == 0xFFFFFFF0 && q.starved == 0)) &&
     (gr0 base).any (fun gr => (gangAt gr 0).any (fun q => starvedLanes gr q == 0)) &&
     (ctxOf (modC (fun q => { q with tracked := [{ id := 3, target := 7, since := 0 }] }) late) 0).any (fun q => q.phase == .running && (q.tracked.find? (fun y => y.id == 3)).any (fun x => decide (x.since + 2 ^ 32 ≤ late.cycle.toNat)))) = true := by decide +kernel
/-- A running package with an established session 0, to which context 0 is bound. -/
def hostS (st : SessionStage) : State := modC (fun q => { q with endpoint := some 0 }) { base with eth := { up := true, lostAt := none, downPosted := false }, sessions := [(0, { stage := st, keys := 1, last := 0, authFails := 0 })] }
theorem witness_HostEvents :
    (let s := hostS .established
     s.boot.running && !s.boot.recovery && s.eth.up && s.sessions.any (fun x => x.2.stage == .established) && !base.eth.up && decide (s.hostOps = [] ∧ s.peerReqs = [] ∧ s.msgs = [] ∧ s.badLines = [] ∧ s.lost = []) &&
     (match engineXlat s (segmentWho 0) .write false [0x50000, 0x50001] with | .ok xs => xs.map (fun x => (x.pa, x.others)) == [(0x50000, []), (0x50001, [])] | .error _ => false) &&
     (match engineRead s (segmentWho 0) false [] [0x5FFFF] with | .ok bs => bs == [0] | .error _ => false) &&
     (ctxOf (modC (fun q => { q with outAcks := [{ msg := 8, seq := 0, t := 0, g := 0, mb := 7, tl := some { ctx := 0, index := 9, team := 0, pc := 0 } }] }) s) 0).any (fun q => (q.outAcks.find? (fun a => a.msg == 8)).isSome)) = true := by decide +kernel
theorem witness_SpdmSessions :
    ([SessionStage.version, .capabilities, .negotiated, .exchanging, .established].all (fun st => spdmUp (hostS st) && decide (stageOf (hostS st) 0 = some st)) && decide (stageOf (hostS .established) 1 = none) && !spdmUp base &&
     (let s := { hostS .established with cycle := BitVec.ofNat 64 Config.heartbeatBound }
      (mget s.sessions 0).any (fun x => decide (x.last + Config.heartbeatBound ≤ s.cycle.toNat))) &&
     (hostS .established).ctxs.map Prod.fst == [0] && (ctxOf (hostS .established) 0).any (fun q => decide (q.endpoint = some 0 ∧ q.outAcks = [] ∧ q.records.length + 2 ≤ 64))) = true := by decide +kernel
def req0 : CreateRequest := { session := 0, frames := [0x10000], root := 0x10000, packet := packet0, slotBase := 0x50000, slots := 64 }
theorem witness_FirmwareRequests :
    (let s := hostS .established
     sessionOn s 0 && !sessionOn s 1 && createOk s req0 && !createOk s { req0 with slots := 65 } && decide (ctxOf s 1 = none) && (ctxOf s 0).any (fun q => q.phase == .running) && (ctxOf (phaseS .stopped s) 0).any (fun q => q.phase == .stopped) &&
     (teamOf s 0).any (fun tm => decide (tm.core < 256) && octetOn s tm.core && !(coreOf s tm.core).vacated && tm.resident && tm.phase == .running && ctxRuns s tm.ctx)) = true := by decide +kernel
def preq (who : PeerFor) : PeerReq := { id := 4, device := 1, addr := 0, since := 0, who := who, ctx := 0, pc := 0, port := some 3, bulk := false, size := 128 }
theorem witness_LinkEvents :
    (let s := { peerS base with hops := [(1, 0x0403FFFF)], ports := List.replicate 18 { bad := 0, width := 4, up := true, keys := 1, attested := true, flits := 0 } }
     decide (dataError s 0x50000 128 = none) && (dataError { s with badLines := [(0xA00, ())] } 0x50000 1).isSome && !overdue s (preq (.load 0 0 7 [] true)) && overdue { s with cycle := BitVec.ofNat 64 Config.peerBound } (preq (.load 0 0 7 [] true)) &&
     (answerSize (preq (.load 0 0 7 [] true)) s).contains 128 && lostLong { s with eth := { up := false, lostAt := some 0, downPosted := false }, cycle := BitVec.ofNat 64 Config.linkDownBound } &&
     s.ports[17]?.any (fun x => x.up && !x.bad.getLsbD 3) && portWidth 8 != 4 && portWidth 3 == portWidth 1 && pclsOf s 1 == 0 && decide (s.boot.running = true ∧ s.bridge.failed = false)) = true ∧ (Config.spareLanes 0).val ≤ 64 := ⟨by decide +kernel, by omega⟩
theorem witness_StartUp :
    (let b := State.reset.boot
     decide (b.counters = List.replicate 16 0 ∧ b.bases = List.replicate 16 0 ∧ b.failing = List.replicate 16 none ∧ b.degr.pins = List.replicate 8 0) && b.entries.length == 16 && !b.degr.alone && !b.exitFlag && !State.reset.bridge.failed) = true ∧
    spdmUp (hostS .established) = true ∧ (640#10).toNat ≥ 640 ∧ (639#10).toNat < 640 := by decide +kernel
theorem witness_OperandValues :
    (let o := op .f96l (.vec 1) (.lit 0x400) (.lit 0x3FF) z 0 0 0x80000000
     decide (o.form ≠ .f64) && holds (only 0x80000001 (setV 1 (fun l => BitVec.ofNat 32 l) base)) .vadd (op .f64 (.vec 2) (.vec 1) (.vec 0)) (fun iss => iss.act.getLsbD 0 && iss.act.getLsbD 31 && vreg iss.gr 1 31 != vreg iss.gr 1 0 && iss.q.members.getLsbD 7)) = true := by decide +kernel
/-- A step that issues, a fetch of a whole block's last words, an event. -/
theorem witness_StepRunsDecoded :
    (let s := State.reset.withFetchWord 64 0x000003E000001401
     decide (s.agenda = [.issue 0 0 0]) && (teamOf s 0).any (fun tm => (gr0 s).any (fun gr => (gangAt gr 0).any (fun q => gangReady { s with agenda := [] } 0 tm gr q && (match fetch { s with agenda := [] } 0 0 0 tm gr q with | .word _ => true | _ => false)))) &&
     decide (dataError s 0x20000 32 = none) && (match decode 0x000003E000001401 with | .ok _ => true | .error _ => false) && isEvent (.teamPlacement)) = true := by decide +kernel
theorem witness_DecodeEncode : WellFormed (.smov (op .f64 (.scal 1) (.scal 2) z)) = true ∧ (encode (.smov (op .f64 (.scal 1) (.scal 2) z))).isSome = true := by decide +kernel
theorem witness_InvKept : Inv State.reset ∧ (match step (State.reset.withFetchWord 32 0) with | .next t => Memory.wf t.mem | _ => false) = true := by decide +kernel

/-! ### Witnesses of further cases -/

/-- A byte stored into a damaged word; lanes beyond the allocation in the context handler. -/
theorem witness_ScratchpadDamage :
    (let s := modT (fun tm => { tm with bad := [(3, 1)] }) sp0
     holds s .ssts (op .f64 none_ (.lit 5) (.scal 9) z 0) (fun iss => badPart iss.tm [5] && !badPart iss.tm [4, 5, 6, 7] && !iss.tm.ending)) = true ∧
    (let o := op .f96l (.vec 2) (.lit 0x400) (.vec 0) z 0x800 0 0x1000
     holds inHandler .vlds o (fun iss => shadowed iss.gr iss.k && (lowest iss.act).isSome && (actLanes iss).all (fun l => decide (iss.tm.scratchBytes ≤ ((lane32 inHandler iss .i32 l o.a).toNat + (lane32 inHandler iss .i32 l o.b).toNat) % 2 ^ 32)))) = true := by decide +kernel
/-- An entry that follows a release not yet through, and one behind another of its line; the second entry of a queue; a result of the sampler. -/
theorem witness_MemoryOrder :
    (let e1 : SQEntry := { entry0 with seq := 1, op := .store [(0x50080, 2)] }
     let q := fun (es : List SQEntry) => { modG (fun gr => { gr with queue := es, acqSeq := 2 }) base with l2 := [(0xA00, false), (0xA01, false)] }
     let e0 := { entry0 with left := true }
     -- the second does not leave before the first; both on their way, the second may overtake the first to another line, but not on its own
     let e2 := { entry0 with seq := 1, left := true }
     (gr0 (q [entry0, e1])).any (fun gr => !mayLeave (q [entry0, e1]) 0 0 1 0 gr e1) && (gr0 (q [e0, e1])).any (fun gr => mayLeave (q [e0, e1]) 0 0 1 0 gr e1) &&
     (gr0 (q [e0, { e1 with left := true }])).any (fun gr => mayArrive (q [e0, { e1 with left := true }]) 1 0 gr { e1 with left := true }) && (gr0 (q [e0, e2])).any (fun gr => !mayArrive (q [e0, e2]) 1 0 gr e2) &&
     (entryLines e1).contains 0xA01 && (entryLines entry0).contains 0xA00 && !reached (q [e0, { e1 with relScope := 3, base := 1 }]) 0 0 0 3 1 &&
     (gr0 (withRet (fun r => { r with sampler := true, vw := [(32, 5)], late := [{ keys := [32], pa := 0x50000, n := 4, mode := 0 }] }) base)).any (fun gr => gr.returns.all (fun x =>
       !stillServes gr x && !readAfter gr x && decide (lateLost base 0 x = none) && !x.shadow))) = true := by decide +kernel
/-- A line in L2, clean or dirty; a set with a free way. -/
theorem witness_L2Lines : (mget (inL2 base).l2 0xA00, mget ({ base with l2 := [(0xA00, true)] } : State).l2 0xA00, mget base.l2 7, wayFree base 7, base.lost) = (some false, some true, none, true, []) := by decide +kernel
/-- Of 15 x 98,304 + 1 lines of die 0 some sixteen share a set and another line of the set remains, whatever the hashes are. -/
theorem witness_fullSet : ∃ (ls : List Nat) (line : Nat), ls.length = 16 ∧ ls.Nodup ∧ line ∉ ls ∧ line < 2 ^ 32 ∧ ∀ l ∈ ls, segmentOf l = segmentOf line ∧ Config.lineSet l = Config.lineSet line := by
  obtain ⟨y, hy⟩ := Fintype.exists_lt_card_fiber_of_mul_lt_card (fun i : Fin 1572865 => (Config.lineHash i.val, Config.lineSet i.val)) (n := 16) (by simp)
  obtain ⟨t, ht, hc⟩ := Finset.exists_subset_card_eq (n := 17) hy
  have mem : ∀ i ∈ t, (Config.lineHash i.val, Config.lineSet i.val) = y := fun i hi => (Finset.mem_filter.mp (ht hi)).2
  have len : (t.toList.map Fin.val).length = 17 := by simp [hc]
  have nd : (t.toList.map Fin.val).Nodup := t.nodup_toList.map Fin.val_injective
  have all : ∀ l ∈ t.toList.map Fin.val, l < 1572865 ∧ (Config.lineHash l, Config.lineSet l) = y := by
    intro l hl
    obtain ⟨i, hi, rfl⟩ := List.mem_map.mp hl
    exact ⟨i.isLt, mem i (Finset.mem_toList.mp hi)⟩
  match h : t.toList.map Fin.val with
  | [] => simp [h] at len
  | line :: ls =>
    rw [h] at len nd all
    have die : ∀ l, l < 1572865 → Word.field (128 * l) 38 38 = 0 := by intro l hl; simp only [Word.field]; omega
    have at0 := all line (by simp)
    refine ⟨ls, line, by simpa using len, nd.of_cons, (List.nodup_cons.mp nd).1, by omega, fun l hl => ?_⟩
    have at1 := all l (by simp [hl])
    have e := at1.2.trans at0.2.symm
    exact ⟨by simp only [segmentOf, die l at1.1, die line at0.1, (Prod.mk.inj e).1], (Prod.mk.inj e).2⟩
/-- A TAGSET of one dword with a current tag; another with a reserved operation. -/
theorem witness_TagsetArrival :
    (let im := (List.range 8).flatMap (fun j => bytesOf 4 (if j = 0 then 0x00020000 else 0))
     let s := sendS 0x18000 { sd0 with set := some (1, im), bytes := [] } tagStateNew []
     let d := tagWord s 0 0 0
     recGen d == 0 && recAlloc d && decide (recAddr s 0 0 + 32 ≤ 2 ^ 39) && s.badLines == [] && s.lost == [] && (ctxOf s 0).isSome && s.sends.length == 1 && elapse s 0 0 (s.l2cycle + 1) == s &&
     decide (recOp (BitVec.ofNat 32 (leNat (im.take 4))) < 12) && decide (12 ≤ recOp (0x00E00000 : W32))) = true := by decide +kernel
/-- A range number in use; a report; a vacated core named again; peers' requests on a damaged line and on a lost sector. -/
theorem witness_furtherRequests :
    (holds (procS 0x7B []) .prdecl (op .f64 none_ (.lit 0) (.lit 0)) (fun iss => (ctxOf (procS 0x7B []) iss.tm.ctx).any (fun q => (mget q.catalogue 0).isSome)) &&
     (let s := { hostS .established with cores := [(0, { Core.empty with vacated := true })] }
      sessionOn s 0 && (coreOf s 0).vacated && (teamOf s 0).any (fun tm => tm.resident && tm.phase == .running && tm.core == 0)) &&
     (match dataError { base with badLines := [(0xA00, ())] } 0x50000 4, dataError { base with lost := [(0xA00, 1)] } 0x50000 4 with | some (1, _), some (2, _) => true | _, _ => false) && base.boot.running && !base.boot.recovery &&
     State.reset.boot.rollback == 0 && !State.reset.boot.degr.i3cOff && portWidth 0 != 0 &&
     (ctxOf (procS 0 [(2048, { blk0 with filled := true, evict := true })]) 0).any (fun q => mwf q.blocks)) = true := by decide +kernel
/-- A gang that its port chooses; a block of code kept as it was before a store; no gang that waits. -/
theorem witness_choices :
    (let s := { State.reset.withFetchWord 64 0x000003E000001401 with agenda := [] }
     (choices s).any (fun r => r.t == 0 && r.g == 0 && nextGang r == 0) &&
     -- a store a group made and has not released; one an engine made before the grid's launch
     (let j : OldBlock := { stamp := 5, by_ := some (.store 0 3), block := 0x1000, bytes := List.replicate 32 0, key := none }
      j.hidden 9 && !({ j with by_ := none } : OldBlock).hidden 9 && ({ j with by_ := none } : OldBlock).hidden 0 && readsUnder s 0 0x400 none) &&
     decide (allGangs s).Nodup && s.teams.all (fun e => e.2.groups.all (fun gr => gr.gangs.all (fun q => q.wait == none))) && s.ctxs.all (fun e => e.2.owed == []) && s.peerReqs == [] && s.hostOps == [] && s.vacates == [] && decide (0 < s.tele.clock.toNat)) = true := by decide +kernel

/-! ### Witnesses of the clauses on what lands, is delivered, is computed and is sent -/

/-- A copy within scratchpad counted by the live object at 0x40. -/
def objLandS (pos : Nat) : State := { liveS with cores := [(0, { Core.empty with copies := [{ landing with done := .object 0x40, pos := pos }] })] }
def gatheredS (pos : Nat) : List (Nat × Byte) := if pos = 1 then [(0x50000, 0), (0x50001, 0), (0x50002, 0), (0x50003, 0)] else []
/-- A copy from scratchpad to global memory; its first element waits for the second, which lies in the same sector. -/
def memLandS (pos : Nat) (landed : Bool) (done : CopyDone) : State :=
  { base with cores := [(0, { Core.empty with copies := [{ landing with dstScratch := false, dst := [0x50000, 0, 64, 0x810004], done := done, pos := pos, landed := landed, pending := gatheredS pos }] })] }
def elemAt (b : BufRec) (c : Copy) : Bool × Nat := placed b c.sstart c.sstep 0 c.width (c.pos % c.width : Nat) 0
/-- The object as it is, and with one arrival of its threads and four bytes still to come: the landing then ends its phase. -/
theorem witness_CopyProgress :
    (findCopy (landS 2 true) 5).isSome = true ∧ copyAcks (landS 2 true) 5 = false ∧ copyAsks (landS 1 false) 5 = false ∧ mwf (landS 1 false).cores = true ∧
    ([0, 1].all (fun p => [objLandS p, modT (fun tm => { tm with scratch := mput (mput tm.scratch 0x40 4) 0x48 0 }) (objLandS p)].all (fun s => (findCopy s 5).any (fun x => let c := x.2
       let src := elemAt (copySrc c) c
       let dst := elemAt (copyDst c) c
       !c.landed && c.xf == 0 && c.srcScratch && c.dstScratch && decide (c.done = .object 0x40) && copySourceReady s 0 c && decide (c.waitTouch = none) && src.1 && dst.1 && decide (src.2 + 4 ≤ 4096 ∧ dst.2 + 4 ≤ 4096 ∧ 0x50 ≤ dst.2) &&
       (teamOf s 0).any (fun tm => tm.bad == [] && (mget tm.objs 4).isSome && decide (liveHit s 0 tm ((List.range 4).map (fun b => dst.2 + b)) = none) &&
         decide ((objAt tm 0x40).arrived + 4 < 2 ^ 32) && !((objAt tm 0x40).pending == 0 && decide ((objAt tm 0x40).expected < (objAt tm 0x40).arrived + 4))) && (ctxOf s 0).any (fun q => q.phase == .running))))) = true := by decide +kernel
/-- To global memory, in two units; completions of each kind, with and without an acknowledgement to come. -/
theorem witness_CopyToMemory :
    ([0, 1].all (fun p => (findCopy (memLandS p false (.timeline 9)) 5).any (fun x => let c := x.2
       let s := memLandS p false (.timeline 9)
       !c.landed && c.xf == 0 && c.srcScratch && !c.dstScratch && copySourceReady s 0 c && (elemAt (copySrc c) c).1 && (elemAt (copyDst c) c).1 && s.badLines == [] && s.lost == [] && decide ((elemAt (copyDst c) c).2 = 0x50000 + 4 * p) &&
       (teamOf s 0).any (fun tm => match engineXlat s (whoOf tm) .write false ((List.range 8).map (fun b => 0x50000 + b)) with | .ok xs => xs.length == 8 && xs.all (fun (x : EByte) => x.others == [] && !isPeer x.pa) | .error _ => false)))) = true ∧
    ([CopyDone.timeline 9, .object 0x40, .peerTimeline 1 9, .message 7 9, .message 0x80010007 9].all (fun d => let s := memLandS 2 true d
       (findCopy s 5).any (fun x => x.2.landed && !x.2.stopped) && !copyAcks s 5 && reached s 0 0 0 (targetScope 7) landing.after && reached s 0 0 0 (targetScope 0x80010007) landing.after)) = true := by decide +kernel
/-- A card from its dwords. -/
def cardOf (w : Nat → Nat) : List Byte := (List.range 63).flatMap (fun j => bytesOf 4 (w j))
/-- One step of FP32 with the scale, bias and activation stages on; in each mode; the last step of a block written to scratchpad as raw
words, converted, as MX, and to the accumulator; a step that is not the last. -/
theorem witness_MatrixSteps :
    (let gemm := fun (k pen ctl : Nat) => cardOf (fun j => match j with | 0 => 0x1F0080 | 1 => k | 2 => pen | 16 => ctl | _ => 0)
     let fmt := fun (o : Nat) => BitVec.ofNat 32 (3 + 3 * 32 + o * 2 ^ 12)
     let lastAt := fun (bs : List Byte) => (stepAt bs 0).last
     [0, 1, 3].all (fun m => cardMode (cardOf (fun j => if j = 0 then m else 0)) == m) && decide (fmtAcc (fmt 3) = 0) && cardW (cardOf (fun j => if j = 12 then 1 else 0)) 48 % 2 == 1 &&
     !lastAt (gemm 33 0x40 0) && lastAt (gemm 32 0x40 0) && cardPen (gemm 32 0x5E 0) 6 && !cardPen (gemm 32 0x40 0) 4 && cardPen (gemm 32 0x5E 0) 4 && cardPen (gemm 32 0x5E 0) 1 && cardPen (gemm 32 0x5E 0) 2 && cardPen (gemm 32 0x5E 0) 3 &&
     !cardDacc (gemm 32 0x40 0) && cardDacc (gemm 32 0x40 0x100) && cardN (gemm 32 0x40 0) == 32 && cardM (gemm 32 0x40 0) == 1 &&
     !isMx (ofmtOf (fmt 3)) && decide (ofmtOf (fmt 3) ≠ 20 ∧ ofmtOf (fmt 3) ≠ 21) && fmtBits (ofmtOf (fmt 3)) 0 == 16 && isMx (ofmtOf (fmt 9))) = true := by decide +kernel
/-- The products of a chunk: a NaN; infinities of both signs, of one; zeros; finite ones with a largest; a fraction cut to units. -/
theorem witness_ChunkSums :
    (let one := FVal.fin false 1 1
     let zero := FVal.fin true 0 1
     let ps := fun (xs ys : List FVal) => (xs.zip ys).map (fun p => p.1.mul p.2)
     (ps [.nan, one] [one, one]).contains .nan && (let q := ps [.inf true, .inf false] [one, one]; !q.contains .nan && q.contains (.inf true) && q.contains (.inf false)) &&
     (let q := ps [.inf true, one] [one, one]; q.contains (.inf true) && !q.contains (.inf false) && !q.contains .nan) &&
     (ps [zero, one] [one, zero]).all (fun p => p.isFinite && p.isZero) &&
     (let q := ps [one, .fin true 3 1] [one, one]
      q.all (fun p => p.isFinite && (p.isZero || (match p with | .fin _ n d => decide (flog2 n d ≤ 1) | _ => false))) && q.any (fun p => match p with | .fin _ n d => decide (flog2 n d = 1) | _ => false))) = true := by decide +kernel
/-- A tag destination of the pool and one beyond it; a handle whose team is not there, with an annex slot and without; a global delivery
from the default base; bytes that land beside a live object. -/
theorem witness_Deliveries :
    ([2 ^ 46 + 1, 2 ^ 46 + 2].map (fun l => decide (tagCount (tagS 0x18000) 0 ≤ tagIndex (BitVec.ofNat 32 l)))) = [false, true] ∧
    (let e := { ent0 with dests := [(0, 2 ^ 47 + 0x100010)] }
     let s := phaseS .draining (sendS 0x18000 sd0 tagStateNew [e])
     (handleTeam s 0 0).any (fun x => !takesDelivery s x.2) && [e, { e with annex := some 3 }].all (fun e => !annexBad s e) && decide (annexFree s 0 = none)) = true ∧
    (let s := sendS 0x18000 sd0 tagStateNew [{ ent0 with dests := [(0, 3 * 2 ^ 46 + 0x50000 / 64)] }]
     (match engineXlatOut s (segmentWho 0) false ((List.range 64).map (fun i => (0x50000 + i) % 2 ^ 57)), engineXlatOut s (segmentWho 0) false ((List.range 0).map (fun i => (0x50040 + i) % 2 ^ 57)) with
       | .ok xs, .ok ys => xs.length == 64 && ys.length == 0 && xs.all (fun (x : EByte) => x.others == [] && !isPeer x.pa) | _, _ => false) &&
     (match engineXlatOut s (segmentWho 0) false [2 ^ 40] with | .error (.charge _ _ _ _) => true | _ => false) && decide (s.badLines = [] ∧ s.lost = [])) = true ∧
    ([liveS, modT (fun tm => { tm with scratch := mput (mput tm.scratch 0x40 64) 0x48 0 }) liveS].all (fun s => mwf s.teams && (teamOf s 0).any (fun tm => (mget tm.objs 4).isSome && tm.bad == [] &&
       [0, 0x50].all (fun off => decide (liveHit s 0 tm ((List.range 64).map (fun j => off + j)) = none)) && decide ((objAt tm 0x40).arrived + 64 < 2 ^ 32) && !((objAt tm 0x40).pending == 0 && decide ((objAt tm 0x40).expected < (objAt tm 0x40).arrived + 64))))) = true := by decide +kernel
/-- A block whose requester is gone; ranges of two blocks, declared and to be taken back, apart from the tables above them; a stopped context
named by a group that has nothing to store and by one that has; a frame of the allotment. -/
theorem witness_SupervisorChoices :
    ((ctxOf (touchS range0 [(2048, { blk0 with queue := [{ touch0 with req := .gang 9 0 0 }] })] [] []) 0).any (fun q => (mget q.blocks 2048).any (fun b => b.queue.length == 1 && b.queue.all (fun t => !requesterLives (touchS range0 [] [] []) t))) &&
     [touchS range0 [] [] [], { touchS range0 [] [] [] with owner := mput base.owner 1 0 }].all (fun s => decide (leafAddr s 0 (65536 * 2048) = some 0x1C000 ∧ 0x1C008 ≤ 2 ^ 39 ∧ 0x1C000 / 2 ^ 16 ≠ blk0.frame / 2 ^ 16)) &&
     (let s := blockS [(16, 0x8000000), (18, 0x20000), (22, 1)] (put64 0x18008 0x1C001 base)
      let r := procS 0x7B []
      let r := modC (fun q => { q with catalogue := [(0, { range0 with len := 2 ^ 17 })] }) r
      holds s .prdecl (op .f64 none_ (.lit 255) (.lit 0)) (fun iss => let bs := scratchBytes iss.tm 0 128
        descriptorOk bs && decide ((rangeOfBlock 0 bs).len / 2 ^ 16 = 2 ∧ s.badLines = [] ∧ s.lost = []) && storesReached s 0 0 3) &&
      holds r .prdeclDel (op .f64 none_ (.lit 0) z z 1) (fun _ => (ctxOf r 0).any (fun q => rangeBlocks q 0 == []) && decide (r.touches = [])) &&
      [s, r].all (fun s => (ctxOf s 0).any (fun q => q.xlroot == 0x10000) && [0, 1].all (fun p => let va := 2 ^ 16 * (2048 + p)
        leafAddr s 0 va == some (0x1C000 + 8 * p) && nextTable (home64 s 0 (0x10000 + 8 * (va / 2 ^ 49 % 2 ^ 8))) == 0x14000 && nextTable (home64 s 0 0x14000) == 0x18000 && localise s 0x10000 == 0x10000 && localise s 0x14000 == 0x14000 && localise s 0x18008 == 0x18008))) &&
     (let s := ctx1 .stopped base
      let w := modG (fun gr => { gr with acqSeq := 9 }) (ctx1 .stopped (fullQ 1 base))
      [(s, true), (w, false)].all (fun x => holds x.1 .haltctx (op .f64 none_ (.lit 1) (.lit 5)) (fun iss => reached x.1 0 0 iss.tm.core 3 iss.gr.acqSeq == x.2))) &&
     (let s := modC (fun q => { q with allot0 := [], allot1 := [2 ^ 38] }) base
      holds s .poolget (op .f64 (.scal 10) (.lit 2) z) (fun iss => decide (again iss = none ∧ iss.tm.core < 256)) && (ctxOf s 0).any (fun q => q.allot0 == [] && q.allot1.head? == some (2 ^ 38)))) = true := by decide +kernel
/-- A result for exec, vcc and scc; a line that L1 holds. -/
theorem witness_LateResults :
    ((gr0 (withRet (fun r => { r with sw := [(512, 5), (520, 6), (528, 1)] }) base)).any (fun gr => gr.returns.all (fun x => !stillServes gr x && !readAfter gr x && x.cw == [] && x.lines == [] && !x.shadow && decide (lateLost base 0 x = none))) &&
     (let s := { base with cores := [(0, { Core.empty with l1 := [(0 * 2 ^ 45 + 0xA00, List.replicate 128 3)] })] }
      (teamOf s 0).any (fun tm => let w := whoOf tm
        l1Key w 0xA00 == 0xA00 && (mget (coreOf s w.core).l1 (l1Key w 0xA00)).any (fun l => l.length == 128) && (List.range 8).all (fun i => heldByte (coreQueue s w.core) (0x50000 + i) == .no)) )) = true := by decide +kernel
/-- A session established and forged packets; the second packet of a Write; two contexts, one of which waits for an acknowledgement on the
other's timeline; a port that leads to a peer; its flits forged. -/
theorem witness_OutsideWorld :
    (let s := hostS .established
     let o : HostOp := { id := 5, flow := .rod 1, ctx := 0, write := true, offset := 64, bytes := [], n := 0, tl := 9, more := true, failed := false, waitTouch := none, fetched := [] }
     let two := ctx1 .running (modC (fun q => { q with outAcks := [{ msg := 8, seq := 0, t := 0, g := 0, mb := 7, tl := some { ctx := 1, index := 9, team := 0, pc := 0 } }] }) s)
     s.sessions.map (fun x => x.2.stage) == [.established] && decide (s.hostOps = [] ∧ { s with hostOps := [o] }.hostOps = [o] ∧ o.bytes = [] ∧ s.peerReqs = [] ∧ s.msgs = []) &&
     mwf two.ctxs && (ctxOf two 0).any (fun q => (q.outAcks.find? (fun a => a.msg == 8)).isSome) && (ctxOf two 1).any (fun q => q.outAcks == []) &&
     mwf (hostS .established).ctxs && (ctxOf s 0).any (fun q => q.endpoint == some 0) &&
     (let p := { peerS base with hops := [(1, 0x0403FFFF)], ports := List.replicate 18 { bad := 0, width := 4, up := true, keys := 1, attested := true, flits := 2 ^ 32 } }
      portsTo p 1 == List.range 18 && portsTo base 1 == [] && (p.ports[17]?).any (fun x => x.up) && p.boot.running && !p.boot.recovery)) = true := by decide +kernel
/-- A step of a start that begins for the first time, and one at the limit. -/
theorem witness_StartSteps :
    (let b := State.reset.boot
     [1, 7, 12, 16].all (fun n => decide (b.counters.getD (n - 1) 0 < 4096 ∧ b.failing.getD (n - 1) none = none)) && b.counters.length == 16 && b.bases.length == 16 && b.entries.length == 16 &&
     decide (4096 ≤ ({ b with counters := List.replicate 16 4096 } : Boot).counters.getD 0 0)) = true := by decide +kernel
/-- A REGANG and an EXIT where the other slices wait at REGANG, at BAR, or some at either. -/
theorem witness_Rejoining :
    (let tags : List W32 := List.replicate 8 3
     let others := fun (iss : Iss) => (membersOf (liveSlices iss.gr)).filter (fun i => !iss.q.members.getLsbD i)
     let apart := fun (iss : Iss) => iss.gr.gangs.all (fun q => q == iss.q || q.members &&& iss.q.members == 0)
     let g1 := fun (m : BitVec 8) (w : Option WaitKind) => ({ members := m, wait := w.map (fun k => { kind := k, since := 0, posted := false }), spinSince := 0, seen := [], starved := 0 } : Gang)
     let mixed := modG (fun gr => { gr with gangs := [g1 1 none, g1 0x0E (some (.regang tags 0x20008)), g1 0xF0 (some (.bar 15))] }) base
     [Instr.regang (op .f64 none_ (.lit 3) z), .exit (plain 0 Instr.exit)].all (fun i =>
       let o := (operands i).getD (op .f64 none_ z z)
       holds (split (some (.regang tags 0x20008)) base) (fun _ => i) o (fun iss => apart iss && (others iss).length == 7 && (others iss).all (fun j => (regangOf iss.gr j).isSome)) &&
       holds (split (some (.bar 15)) base) (fun _ => i) o (fun iss => apart iss && (others iss).length == 7 && (others iss).all (fun j => (barOf iss.gr j).isSome) && !(sliceOf iss.gr iss.k).exited) &&
       holds mixed (fun _ => i) o (fun iss => apart iss && decide (iss.tm.bars = []) && (others iss).all (fun j => (regangOf iss.gr j).isSome || (barOf iss.gr j).isSome) && (others iss).any (fun j => (regangOf iss.gr j).isNone) && (others iss).any (fun j => (regangOf iss.gr j).isSome)))) = true := by decide +kernel
/-- Scratchpad lanes within the allocation, at its end, beyond it and misaligned; a scalar store at its end, beyond it and misaligned. -/
theorem witness_ScratchpadBounds :
    (let far := fun (l : Nat) => if l = 2 then 4096#32 else if l = 1 then 4094#32 else 4092#32
     let sp := setV 1 far sp0
     let h := setV 1 far (modT (fun tm => { tm with scratchBytes := 4096 }) inHandler)
     let va := fun (s : State) (iss : Iss) (l : Nat) => (lane32 s iss .i32 l iss.o.a).toNat
     [Instr.vlds (op .f64 (.vec 2) (.vec 1) (.lit 0) z 0x800), .vsts (op .f64 none_ (.vec 1) (.vec 1) z 0x800), .vatoms (op .f96c (.vec 2) (.vec 1) (.lit 0) (.vec 1))].all (fun i =>
       let o := (operands i).getD (op .f64 none_ z z)
       [7, 1].all (fun m => holds (only m sp) (fun _ => i) o (fun iss => !shadowed iss.gr iss.k && decide ((actLanes iss).any (fun l => iss.tm.scratchBytes ≤ va (only m sp) iss l) = (m == 7)) && iss.tm.scratchBytes == 4096)) &&
       holds h (fun _ => i) o (fun iss => shadowed iss.gr iss.k && (actLanes iss).any (fun l => decide (iss.tm.scratchBytes ≤ va h iss l)))) &&
     [9, 10, 11].all (fun r => holds sp0 .ssts (op .f64 none_ (.scal r) (.scal 9) z 0x800) (fun iss =>
       let a := (lane32 sp0 iss .i32 0 iss.o.a).toNat
       decide ((iss.tm.scratchBytes ≤ a) = (r = 10)) && decide (a % 4 ≠ 0) == (r == 11)))) = true := by decide +kernel
/-- A gang that waits at BWAIT for the phase 0, with either phase; a gang that sleeps. -/
theorem witness_BwaitRelease :
    ([false, true].all (fun ph => (teamOf (waitAt (.bwait 0x40 false 0x20008) (objN { expected := 0, arrived := 0, pending := 1, initial := 1, phase := ph })) 0).any (fun tm =>
       (mget tm.objs 4).isSome && tm.phase == .running && (objAt tm 0x40).phase == ph && tm.groups.any (fun gr => (gangAt gr 0).any (fun q => q.wait.any (fun w => w.kind == .bwait 0x40 false 0x20008))))) &&
     (ctxOf base 0).any (fun q => q.phase == .running)) = true := by decide +kernel
/-- Aborts put off: none, one, and two of teams whose places in the grid differ. -/
theorem witness_PutOffAborts :
    (let p : PutOff := { team := 0, cls := 0, code := 1, cause := (0, 0, false) }
     let s := (teamOf base 0).elim base (fun tm => { base with teams := mput base.teams 1 { tm with x := 1 } })
     decide (base.putOff = none) && decide (({ base with putOff := some [p] } : State).putOff = some [p]) && decide (gridPlace s 0 < gridPlace s 1)) = true := by decide +kernel
/-- A Write that has met a condition, with an established session; cores of which a VACATE_CORES chooses, one of them with a group. -/
theorem witness_FailedWrite :
    (let s := hostS .established
     let o : HostOp := { id := 5, flow := .rud, ctx := 0, write := true, offset := 64, bytes := [], n := 0, tl := 9, more := true, failed := true, waitTouch := none, fetched := [] }
     decide (({ s with hostOps := [o] } : State).hostOps = [o] ∧ o.offset + 256 ≤ 2 ^ 40 ∧ o.tl < 4096) && (ctxOf s o.ctx).isSome && sessionOn s 0 && s.boot.running && !s.boot.recovery && s.eth.up &&
     octetOn s 0 && !(coreOf s 0).vacated && groupsOn s 0 == 1 && groupsOn s 1 == 0) = true := by decide +kernel
/-- Reserved bits of a target word and of a record's fourth dword; a record selector that is no multiple of 4. -/
theorem witness_ReservedWords :
    (let p := op .f96c none_ (.scal 8) (.lit 0x40) (.lit 16)
     let s := setS 8 0x00000400 base
     uni s (at_ s (.mbpost p) p) p.a == some 0x400 && reservedWord s (at_ s (.mbpost p) p) &&
     (let v := op .f64 (.vec 2) (.scal 4) (.vec 1) z 0x800
      let u := setS 7 0x01000000 mem0
      reservedWord u (at_ u (.vld v) v) && decide (sharedTest u (at_ u (.vld v) v) = some 5)) &&
     (let v := op .f64 (.vec 2) (.vec 3) (.vec 1) z 0x800
      let u := setV 3 (fun _ => 2) mem0
      selectorOdd (at_ u (.vld v) v) && decide (sharedTest u (at_ u (.vld v) v) = some 9))) = true := by decide +kernel
/-- A message held with its saved team; a LAUNCH whose report is overdue, and one whose is not; a frame withheld. -/
theorem witness_HeldBack :
    (let s := modT (fun tm => { tm with phase := .saved }) base
     let m := { msg0 .post 0 with held := true, slot := some 0, tl := some { ctx := 0, index := 9, team := 0, pc := 0 } }
     messageHeld s m && !messageHeld s { m with held := false } &&
     (ctxOf base 0).any (fun q => !launchOverdue base q { id := 1, target := 0, since := 0 }) &&
     (ctxOf base 0).any (fun q => launchOverdue { base with cycle := BitVec.ofNat 64 Config.watchdog } q { id := 1, target := 0, since := 0 }) &&
     isWithheld { base with withheld := [1] } 0x10000 && !isWithheld base 0x10000) = true := by decide +kernel

end Sys2Proof.Tests
end

section
/-! SUPPORT. Bit functions and flags (R183 to R185), bit by bit and in terms of numbers, and the two statements on the scalar
instructions. -/

namespace Sys2Proof.Machine

/-! ### Lane masks -/

theorem maskNat_lt (p : Nat → Bool) (n : Nat) : maskNat p n < 2 ^ n := by
  induction n with
  | zero => simp [maskNat]
  | succ n ih => rw [maskNat, Nat.pow_succ]; split <;> omega

theorem testBit_maskNat (p : Nat → Bool) (n l : Nat) : (maskNat p n).testBit l = (decide (l < n) && p l) := by
  induction n with
  | zero => simp [maskNat]
  | succ n ih =>
    have e : maskNat p (n + 1) = 2 ^ n * (p n).toNat + maskNat p n := by rw [maskNat]; cases p n <;> simp [Nat.add_comm]
    rw [e, Nat.testBit_two_pow_mul_add _ (maskNat_lt p n)]
    split
    · next h => rw [ih]; simp [h, Nat.lt_succ_of_lt h]
    · next h =>
      obtain rfl | h' : l = n ∨ n < l := by omega
      · cases p l <;> simp
      · obtain ⟨k, hk⟩ : ∃ k, l - n = k + 1 := ⟨l - n - 1, by omega⟩
        have : ¬ l < n + 1 := by omega
        rw [hk, Nat.testBit_succ]
        cases p n <;> simp [this]

theorem getLsbD_maskOf (p : Nat → Bool) {l : Nat} (hl : l < 32) : (maskOf p).getLsbD l = p l := by
  simp only [maskOf, BitVec.getLsbD_ofNat, testBit_maskNat, hl, decide_true, Bool.true_and]

/-- The lowest lane of a mask is set, and none below it is. -/
theorem lowest_eq_some {a : W32} {l : Nat} : lowest a = some l ↔ a.getLsbD l = true ∧ ∀ m, m < l → a.getLsbD m = false := by
  simp only [lowest, lanes, List.head?_filter, List.find?_range_eq_some, laneIn, List.mem_range, Bool.not_eq_true']
  exact ⟨fun ⟨h, _, hm⟩ => ⟨h, hm⟩, fun ⟨h, hm⟩ => ⟨h, BitVec.lt_of_getLsbD h, hm⟩⟩

theorem lowest_eq_none {a : W32} : lowest a = none ↔ a = 0 := by
  simp only [lowest, lanes, List.head?_filter, List.find?_eq_none, List.mem_range, laneIn, Bool.not_eq_true]
  exact ⟨fun h => BitVec.eq_of_getLsbD_eq (by simpa using h), fun h => by simp [h]⟩

/-! ### The bit functions -/

theorem leadingZeros_zero : (leadingZeros 0).toNat = 32 := rfl

/-- The leading zeros are the bits above the highest set one. -/
theorem toNat_leadingZeros {a : W32} (h : a ≠ 0) : (leadingZeros a).toNat = 31 - Nat.log2 a.toNat := by
  simp only [leadingZeros, h, if_false, BitVec.toNat_ofNat]
  omega

theorem log2_toNat_lt {a : W32} (h : a ≠ 0) : Nat.log2 a.toNat < 32 := (Nat.log2_lt (BitVec.toNat_ne_iff_ne.2 h)).2 a.isLt

theorem leadingZeros_eq_32_iff (a : W32) : (leadingZeros a).toNat = 32 ↔ a = 0 := by
  refine ⟨fun h => ?_, fun h => h ▸ leadingZeros_zero⟩
  by_contra ha
  rw [toNat_leadingZeros ha] at h
  omega

/-- Below `n` leading zeros stands a set bit, and above that none. -/
theorem getLsbD_of_leadingZeros {a : W32} {n : Nat} (hn : n < 32) (h : (leadingZeros a).toNat = n) :
    a.getLsbD (31 - n) = true ∧ ∀ m, 31 - n < m → a.getLsbD m = false := by
  have ha : a ≠ 0 := fun e => by rw [(leadingZeros_eq_32_iff a).2 e] at h; omega
  have top : 31 - n = Nat.log2 a.toNat := by
    have := log2_toNat_lt ha
    rw [toNat_leadingZeros ha] at h
    omega
  rw [top]
  refine ⟨Nat.testBit_log2 (BitVec.toNat_ne_iff_ne.2 ha), fun m hm => Nat.testBit_lt_two_pow ?_⟩
  exact Nat.lt_of_lt_of_le Nat.lt_log2_self (Nat.pow_le_pow_right (by omega) hm)

theorem toNat_popCount (a : W32) : (popCount a).toNat = ((List.range 32).filter (fun l => a.getLsbD l)).length := by
  have : (lanes a).length ≤ 32 := (List.length_filter_le _ _).trans_eq List.length_range
  rw [popCount, BitVec.toNat_ofNat, Nat.mod_eq_of_lt (by omega)]
  rfl

theorem firstSet_zero : firstSet 0 = 0xFFFFFFFF := by rw [firstSet, lowest_eq_none.2 rfl]

theorem toNat_firstSet {a : W32} {l : Nat} (h : lowest a = some l) : (firstSet a).toNat = l := by
  have hl : l < 32 := BitVec.lt_of_getLsbD (lowest_eq_some.1 h).1
  rw [firstSet, h, BitVec.toNat_ofNat]
  omega

/-- The bit that SFF1 finds is set, and none below it is. -/
theorem getLsbD_firstSet {a : W32} (h : a ≠ 0) :
    a.getLsbD (firstSet a).toNat = true ∧ ∀ m, m < (firstSet a).toNat → a.getLsbD m = false := by
  obtain ⟨l, hl⟩ := Option.ne_none_iff_exists'.1 (fun e => h (lowest_eq_none.1 e))
  rw [toNat_firstSet hl]
  exact lowest_eq_some.1 hl

theorem getLsbD_bitReverse (a : W32) {l : Nat} (hl : l < 32) : (bitReverse a).getLsbD l = a.getLsbD (31 - l) :=
  getLsbD_maskOf _ hl

theorem bit_eq_testBit (n i : Nat) : Word.bit n i = n.testBit i := by
  rw [Nat.testBit_eq_decide_div_mod_eq, Word.bit, beq_eq_decide]

/-- A field of at most 32 bits fits a word. -/
theorem field_lt (n : Nat) {w : Nat} (hw : w ≤ 32) : n % 2 ^ w < 2 ^ 32 :=
  Nat.lt_of_lt_of_le (Nat.mod_lt n (Nat.two_pow_pos w)) (Nat.pow_le_pow_right (by omega) hw)

theorem toNat_bitExtract_unsigned (a b c : W32) :
    (bitExtract false a b c).toNat = a.toNat / 2 ^ (b.toNat % 32) % 2 ^ min (c.toNat % 64) (32 - b.toNat % 32) := by
  simp only [bitExtract, Bool.false_and, Bool.false_eq_true, if_false, BitVec.toNat_ofNat]
  exact Nat.mod_eq_of_lt (field_lt _ (by omega))

/-- A signed field: its top bit counts negatively. -/
theorem bitExtract_signed (a b c : W32) :
    let w := min (c.toNat % 64) (32 - b.toNat % 32)
    let f := a.toNat / 2 ^ (b.toNat % 32) % 2 ^ w
    bitExtract true a b c = BitVec.ofInt 32 (if 0 < w ∧ f.testBit (w - 1) = true then (f : Int) - 2 ^ w else f) := by
  intro w f
  have top : (true && w != 0 && Word.bit f (w - 1)) = decide (0 < w ∧ f.testBit (w - 1) = true) := by
    rw [bit_eq_testBit, Bool.true_and, Bool.decide_and, Bool.decide_eq_true, bne, beq_eq_decide, ← decide_not]
    simp only [Nat.pos_iff_ne_zero, ne_eq]
  show (if (true && w != 0 && Word.bit f (w - 1)) = true then BitVec.ofInt 32 ((f : Int) - 2 ^ w) else BitVec.ofNat 32 f) = _
  simp only [top, decide_eq_true_eq, apply_ite (BitVec.ofInt 32), BitVec.ofInt_natCast]

/-- The bits of the field mask of SBFI. -/
theorem getLsbD_fieldMask (off w : Nat) {l : Nat} (hl : l < 32) :
    (BitVec.ofNat 32 ((2 ^ w - 1) * 2 ^ off)).getLsbD l = decide (off ≤ l ∧ l < off + w) := by
  rw [BitVec.getLsbD_ofNat, Nat.testBit_mul_two_pow, Nat.testBit_two_pow_sub_one, Bool.eq_iff_iff]
  simp only [Bool.and_eq_true, decide_eq_true_eq]
  omega

/-- Within the field a bit comes from the inserted word, elsewhere from the old one. -/
theorem getLsbD_bitInsert (a b c : W32) {l : Nat} (hl : l < 32) :
    let off := c.toNat % 32
    let w := min (c.toNat / 256 % 64) (32 - off)
    (bitInsert a b c).getLsbD l = if off ≤ l ∧ l < off + w then b.getLsbD (l - off) else a.getLsbD l := by
  intro off w
  show ((a &&& ~~~(BitVec.ofNat 32 ((2 ^ w - 1) * 2 ^ off))) ||| ((b <<< off) &&& BitVec.ofNat 32 ((2 ^ w - 1) * 2 ^ off))).getLsbD l = _
  simp only [BitVec.getLsbD_or, BitVec.getLsbD_and, BitVec.getLsbD_not, BitVec.getLsbD_shiftLeft, getLsbD_fieldMask off w hl, hl, decide_true, Bool.true_and]
  by_cases h : off ≤ l ∧ l < off + w
  · have : ¬ l < off := by omega
    simp [h, this]
  · simp [h]

/-! ### Minimum, maximum and comparison as numbers -/

section
variable {w : Nat} (a b : BitVec w)

theorem signedMin_eq : signedMin a b = if a.toInt < b.toInt then a else b := by simp only [signedMin, BitVec.slt_iff_toInt_lt]
theorem signedMax_eq : signedMax a b = if a.toInt < b.toInt then b else a := by simp only [signedMax, BitVec.slt_iff_toInt_lt]
theorem unsignedMin_eq : unsignedMin a b = if a.toNat < b.toNat then a else b := by
  simp only [unsignedMin, BitVec.ult_eq_decide, decide_eq_true_eq]
theorem unsignedMax_eq : unsignedMax a b = if a.toNat < b.toNat then b else a := by
  simp only [unsignedMax, BitVec.ult_eq_decide, decide_eq_true_eq]

end

/-- The number a comparison takes a word for: in two's complement if ty is 0 (R184). -/
def comparand (ty : Nat) {w : Nat} (x : BitVec w) : Int := if ty = 0 then x.toInt else (x.toNat : Int)

theorem comparand_inj (ty : Nat) {w : Nat} (a b : BitVec w) : comparand ty a = comparand ty b ↔ a = b := by
  unfold comparand
  split
  · exact BitVec.toInt_inj
  · rw [Int.natCast_inj, BitVec.toNat_inj]

/-- The order that `condHolds` takes is that of the numbers. -/
theorem comparand_lt (ty : Nat) {w : Nat} (a b : BitVec w) :
    (if ty == 0 then a.slt b else a.ult b) = decide (comparand ty a < comparand ty b) := by
  by_cases h : ty = 0
  · simp [comparand, h, BitVec.slt_eq_decide]
  · simp [comparand, h, BitVec.ult_eq_decide]

/-- The conditions 0 to 5 of R159 on numbers. -/
def compares (code : Nat) (x y : Int) : Bool :=
  match code with
  | 0 => decide (x = y) | 1 => decide (x ≠ y) | 2 => decide (x < y) | 3 => decide (x ≤ y) | 4 => decide (y < x) | 5 => decide (y ≤ x) | _ => false

theorem condHolds_eq_compares (code ty : Nat) {w : Nat} (a b : BitVec w) :
    condHolds code (ty == 0) a b = compares code (comparand ty a) (comparand ty b) := by
  have eq : (a == b) = decide (comparand ty a = comparand ty b) := by simp [comparand_inj, beq_eq_decide]
  have lt := comparand_lt ty a b
  match code with
  | 0 => exact eq
  | 1 => simp [condHolds, compares, bne, eq]
  | 2 => exact lt
  | 3 => simp only [condHolds, compares, lt, eq, ← Bool.decide_or]; congr 1; exact propext le_iff_lt_or_eq.symm
  | 4 =>
    simp only [condHolds, compares, bne, lt, eq, ← decide_not, ← Bool.decide_and]
    congr 1; apply propext; omega
  | 5 => simp only [condHolds, compares, lt, ← decide_not]; congr 1; apply propext; omega
  | _ + 6 => rfl

end Sys2Proof.Machine
end

section
namespace Sys2Proof.Machine

open Sys2Proof.Safety

/-! ### The scalar instructions -/

/-- An issue that meets no shared condition has a destination of the right kind, writable and aligned. -/
theorem dst_of_sharedTest_none {s : State} {iss : Iss} (h : sharedTest s iss = none) :
    dstKindOk iss.sg.dst iss.o.dst = true ∧ dstWritable iss.sg.dst iss.o.dst = true ∧ dstAligned iss.sg.dst iss.o.dst = true := by
  simp only [sharedTest] at h
  split_ifs at h with _ _ hkinds hwritable haligned
  simp only [Bool.not_eq_true, Bool.not_eq_false', Bool.or_eq_false_iff, Bool.and_eq_true] at hkinds hwritable haligned
  obtain ⟨-, hkind⟩ := hkinds
  obtain ⟨⟨-, haligned⟩, -⟩ := haligned
  exact ⟨hkind, hwritable, haligned⟩

/-- A destination pair that no shared condition stops lies in s0 to s63 (R151, R152). -/
theorem pairDst_lt {s : State} {i : Instr} {o : Operands} {iss : Iss} {sg : Sig} (h : Issues s i o iss) (hs : sig i = some sg)
    (hp : sg.dst = .pair true) : dstNum iss.o.dst + 1 < 64 := by
  obtain ⟨hi, -, -, -, ht, -⟩ := h
  obtain ⟨-, hsg, -⟩ := issOf_some hi
  obtain rfl : sg = iss.sg := Option.some.inj (hs.symm.trans hsg)
  obtain ⟨kind, writable, aligned⟩ := dst_of_sharedTest_none ht
  rw [hp] at kind writable aligned
  simp only [dstKindOk, dstWritable, dstAligned, dstWords, Bool.and_eq_true, Bool.or_eq_true, decide_eq_true_eq, beq_iff_eq] at kind writable aligned
  obtain ⟨scalar, range⟩ := kind
  have low : dstNum iss.o.dst < 64 := by omega
  obtain (notScalar | ⟨high, -⟩) | ⟨-, even⟩ := aligned
  · simp [scalar] at notScalar
  · omega
  · exact pair_lt low even

/-- A comparison writes scc by the order of the numbers its sources stand for. -/
theorem comparison_done {s : State} {i : Instr} {o : Operands} {iss : Iss} {f : Iss → Except Flt Group} {code ty w : Nat}
    {x y : Nat → BitVec w} (h : Issues s i o iss) (hx : exec i s = groupEffect i o s f)
    (hf : f iss = .ok (setScc iss.gr iss.q.members (fun j => condHolds code (ty == 0) (x j) (y j)))) :
    SccDone i s iss (fun j => compares code (comparand ty (x j)) (comparand ty (y j))) := by
  simp only [condHolds_eq_compares] at hf
  exact setScc_done h hx hf

/-- Settles O1: each instruction is a `scalarOp` whose result is the one of the table of R183; the bit functions by their lemmas. -/
theorem scalarResults : Obligations.ScalarResults := by
  unfold Obligations.ScalarResults
  refine ⟨fun s o iss => ⟨?smov, ?sadd, ?ssub, ?smul, ?smulhi, ?smulhu, ?sand, ?sor, ?sxor, ?sandn, ?sshl, ?sshr, ?ssra, ?smin, ?smax, ?sminu, ?smaxu,
    ?ssel, ?sbfe, ?sbfi, ?sclz, ?spopc, ?sff1, ?sdivu, ?sremu, ?sbrev⟩, fun a b c => ⟨?leading, ?allZero, ?count, ?noneSet, ?first, ?reverse, ?extract, ?insert⟩⟩
  case smov => exact fun h => scalarOp_done h (exec_smov o s) (fun _ => rfl)
  case sadd => exact fun h => scalarOp_done h (exec_sadd o s) (fun _ => rfl)
  case ssub => exact fun h => scalarOp_done h (exec_ssub o s) (fun _ => rfl)
  case smul => exact fun h => scalarOp_done h (exec_smul o s) (fun _ => rfl)
  case smulhi => exact fun h => scalarOp_done h (exec_smulhi o s) (fun _ => rfl)
  case smulhu => exact fun h => scalarOp_done h (exec_smulhu o s) (fun _ => rfl)
  case sand => exact fun h => scalarOp_done h (exec_sand o s) (fun _ => rfl)
  case sor => exact fun h => scalarOp_done h (exec_sor o s) (fun _ => rfl)
  case sxor => exact fun h => scalarOp_done h (exec_sxor o s) (fun _ => rfl)
  case sandn => exact fun h => scalarOp_done h (exec_sandn o s) (fun _ => rfl)
  case sshl => exact fun h => scalarOp_done h (exec_sshl o s) (fun _ => rfl)
  case sshr => exact fun h => scalarOp_done h (exec_sshr o s) (fun _ => rfl)
  case ssra => exact fun h => scalarOp_done h (exec_ssra o s) (fun _ => rfl)
  case smin => exact fun h => scalarOp_done h (exec_smin o s) (fun _ => congrArg (·, none) (signedMin_eq _ _))
  case smax => exact fun h => scalarOp_done h (exec_smax o s) (fun _ => congrArg (·, none) (signedMax_eq _ _))
  case sminu => exact fun h => scalarOp_done h (exec_sminu o s) (fun _ => congrArg (·, none) (unsignedMin_eq _ _))
  case smaxu => exact fun h => scalarOp_done h (exec_smaxu o s) (fun _ => congrArg (·, none) (unsignedMax_eq _ _))
  case ssel => exact fun h => scalarOp_done h (exec_ssel o s) (fun _ => congrArg (·, none) (ite_not _ _ _))
  case sbfe => exact fun h => scalarOp_done h (exec_sbfe o s) (fun _ => rfl)
  case sbfi => exact fun h => scalarOp_done h (exec_sbfi o s) (fun _ => rfl)
  case sclz => exact fun h => scalarOp_done h (exec_sclz o s) (fun _ => rfl)
  case spopc => exact fun h => scalarOp_done h (exec_spopc o s) (fun _ => rfl)
  case sff1 => exact fun h => scalarOp_done h (exec_sff1 o s) (fun _ => rfl)
  case sdivu => exact fun h => scalarOp_done h (exec_sdivu o s) (fun _ => by rw [BitVec.udiv_def]; rfl)
  case sremu => exact fun h => scalarOp_done h (exec_sremu o s) (fun _ => by rw [BitVec.umod_def]; rfl)
  case sbrev => exact fun h => scalarOp_done h (exec_sbrev o s) (fun _ => rfl)
  case leading => exact fun n hn h => getLsbD_of_leadingZeros hn h
  case allZero => exact leadingZeros_eq_32_iff a
  case count => exact toNat_popCount a
  case noneSet => exact fun h => h ▸ firstSet_zero
  case first => exact getLsbD_firstSet
  case reverse => exact fun l hl => getLsbD_bitReverse a hl
  case extract => exact ⟨toNat_bitExtract_unsigned a b c, bitExtract_signed a b c⟩
  case insert => exact fun l hl => getLsbD_bitInsert a b c hl

/-- Settles O2: each 64-bit instruction is a `scalarOp64` whose result is the one of the table of R186; a comparison compares the numbers its
sources stand for (R184). -/
theorem pairAndCompareResults : Obligations.PairAndCompareResults := by
  unfold Obligations.PairAndCompareResults
  refine ⟨fun s o iss => ⟨?sadd64, ?ssub64, ?smul64, ?sshl64, ?sshr64, ?smov64⟩, fun s o iss => ⟨?scmp, ?scmp64⟩⟩
  case sadd64 => exact fun h => scalarOp64_done h (exec_sadd64 o s) (pairDst_lt h rfl rfl) (fun _ => rfl)
  case ssub64 => exact fun h => scalarOp64_done h (exec_ssub64 o s) (pairDst_lt h rfl rfl) (fun _ => rfl)
  case smul64 => exact fun h => scalarOp64_done h (exec_smul64 o s) (pairDst_lt h rfl rfl) (fun _ => rfl)
  case sshl64 => exact fun h => scalarOp64_done h (exec_sshl64 o s) (pairDst_lt h rfl rfl) (fun _ => rfl)
  case sshr64 => exact fun h => scalarOp64_done h (exec_sshr64 o s) (pairDst_lt h rfl rfl) (fun _ => rfl)
  case smov64 => exact fun h => scalarOp64_done h (exec_smov64 o s) (pairDst_lt h rfl rfl) (fun _ => rfl)
  case scmp => exact fun h => comparison_done h (exec_scmp o s) rfl
  case scmp64 => exact fun h => comparison_done h (exec_scmp64 o s) rfl

end Sys2Proof.Machine
end

section
/-! SUPPORT. Elements of packed dwords, carries and lane masks (R65, R189, R192 to R199, R209), and the two statements on the
integer vector instructions and on the instructions whose result is a lane mask. -/

namespace Sys2Proof.Machine

open Sys2Proof.Safety

/-! ### Elements of a dword -/

/-- Digits below 2^w laid side by side: bit i of digit e stands at w e + i. -/
theorem testBit_sum_digits {w i : Nat} (hi : i < w) {n : Nat} (x : Nat → Nat) (hx : ∀ e, x e < 2 ^ w) {e : Nat} (he : e < n) :
    (((List.range n).map (fun e => x e * 2 ^ (w * e))).sum).testBit (w * e + i) = (x e).testBit i := by
  induction n generalizing x e with
  | zero => omega
  | succ n ih =>
    have step : ((List.range (n + 1)).map (fun e => x e * 2 ^ (w * e))).sum =
        2 ^ w * ((List.range n).map (fun e => x (e + 1) * 2 ^ (w * e))).sum + x 0 := by
      rw [List.range_succ_eq_map, List.map_cons, List.map_map, List.sum_cons, ← List.sum_map_mul_left, Nat.add_comm]
      simp [Function.comp_def, Nat.mul_add, Nat.pow_add, Nat.mul_comm, Nat.mul_left_comm]
    rw [step, Nat.testBit_two_pow_mul_add _ (hx 0)]
    cases e with
    | zero => simp [hi]
    | succ e =>
      have above : ¬ w * (e + 1) + i < w := by rw [Nat.mul_succ]; omega
      have rest : w * (e + 1) + i - w = w * e + i := by rw [Nat.mul_succ]; omega
      rw [if_neg above, rest, ih (fun e => x (e + 1)) (fun e => hx (e + 1)) (by omega)]

/-- An operation on packed elements acts on each element by itself (R192). -/
theorem elemOf_packed {w : Nat} (f : BitVec w → BitVec w → BitVec w → BitVec w) (a b c : W32) {e : Nat} (he : e < 32 / w) :
    elemOf w (packed w f a b c) e = f (elemOf w a e) (elemOf w b e) (elemOf w c e) := by
  refine BitVec.eq_of_getLsbD_eq fun i hi => ?_
  have room : w * e + i < 32 := by
    have : w * (e + 1) ≤ 32 := (Nat.mul_le_mul_left w he).trans (Nat.mul_div_le 32 w)
    rw [Nat.mul_succ] at this
    omega
  rw [elemOf, packed, BitVec.getLsbD_extractLsb', BitVec.getLsbD_ofNat,
    testBit_sum_digits hi (fun e => (f (elemOf w a e) (elemOf w b e) (elemOf w c e)).toNat) (fun _ => BitVec.isLt _) he]
  simp only [hi, room, decide_true, Bool.true_and, BitVec.testBit_toNat]

/-! ### Nibbles of a gang's masks -/

/-- Nibble j of a lane mask: the bits of the lanes of slice j. -/
theorem nibble_maskOf {p q : Nat → Bool} {j : Nat} (hj : j < 8) (h : ∀ i, i < 4 → p (4 * j + i) = q i) :
    nibble (maskOf p) j = BitVec.ofNat 4 (maskNat q 4) := by
  refine BitVec.eq_of_getLsbD_eq fun i hi => ?_
  rw [nibble, BitVec.getLsbD_extractLsb', getLsbD_maskOf p (by omega), BitVec.getLsbD_ofNat, testBit_maskNat, h i hi]
  simp only [hi, decide_true, Bool.true_and]

/-- vcc as a gang reads it holds the bits of its member slices (R33). -/
theorem getLsbD_gangVcc {gr : Group} {m : BitVec 8} {l : Nat} (hm : m.getLsbD (l / 4) = true) (hj : l / 4 < gr.slices.length) :
    (gangVcc gr m).getLsbD l = (sliceOf gr (l / 4)).vcc.getLsbD (l % 4) := by
  have hl : l < 32 := by have := BitVec.lt_of_getLsbD hm; omega
  rw [gangVcc, assemble, getLsbD_maskOf _ hl, hm, sliceOf, List.getElem?_eq_getElem hj]
  rfl

/-! ### The integer vector instructions -/

section
variable {s : State} {i : Instr} {o : Operands} {iss : Iss}

/-- An operation per element of the type of ty. -/
theorem intOp_done {f : (w : Nat) → Bool → BitVec w → BitVec w → BitVec w → BitVec w}
    {g : BitVec (intWidth (tyOf o)) → BitVec (intWidth (tyOf o)) → BitVec (intWidth (tyOf o)) → BitVec (intWidth (tyOf o))}
    (h : Issues s i o iss) (hx : exec i s = intOp i o s f) (hr : ∀ a b c, f (intWidth (tyOf o)) (intSigned (tyOf o)) a b c = g a b c) :
    LaneDone i s iss (fun l => packed (intWidth (tyOf o)) g (lane32 s iss (intTy (tyOf o)) l o.a) (lane32 s iss (intTy (tyOf o)) l o.b)
      (lane32 s iss (intTy (tyOf o)) l o.c)) := by
  obtain rfl : f (intWidth (tyOf o)) (intSigned (tyOf o)) = g := by funext a b c; exact hr a b c
  exact laneOp_done h hx (fun _ => rfl)

/-- The lesser or the greater element, by the order that its type gives. -/
theorem minMax_of_less {w : Nat} (sg : Bool) (a b x y : BitVec w) :
    (if (if sg then decide (a.toInt < b.toInt) else decide (a.toNat < b.toNat)) = true then x else y) =
      if sg then (if a.toInt < b.toInt then x else y) else if a.toNat < b.toNat then x else y := by
  cases sg <;> simp only [Bool.false_eq_true, if_true, if_false, decide_eq_true_eq]

theorem mul_add_eq_ofNat {w : Nat} (a b c : BitVec w) : a * b + c = BitVec.ofNat w (a.toNat * b.toNat + c.toNat) := by
  simp [BitVec.ofNat_add, BitVec.ofNat_mul]

/-- An instruction that writes the active lanes of a register, and of each member's vcc the bits of the active lanes (R194). -/
theorem vccActive_done {f : Iss → Except Flt Group} {v : Nat → W32} {c : Nat → Bool} (h : Issues s i o iss)
    (hx : exec i s = groupEffect i o s f) (hf : f iss = .ok (vccActive iss (setLanes iss.gr (dstNum o.dst) iss.act v) c)) :
    Done i s iss
      (fun j x => { x with vcc := BitVec.ofNat 4 (maskNat (fun i => if laneIn iss.act (4 * j + i) then c (4 * j + i) else x.vcc.getLsbD i) 4) })
      noRegs (fun r l => if r == dstNum o.dst && laneIn iss.act l then some (v l) else none) := by
  have kept := regsOnly_setLanes iss.gr (dstNum o.dst) iss.act v
  have ⟨_, slices, _⟩ := kept
  refine done_of_groupEffect h hx hf (kept.trans (regsOnly_modMembers _ _ _)) (fun j hj => ?slices) (fun j n _ _ => ?scalars) (fun r l hl => ?lanes)
  case slices =>
    rw [vccActive, setVcc, sliceOf_modMembers _ _ _ _ (by rw [slices]; exact hj), sliceOf_setLanes]
    by_cases hm : iss.q.members.getLsbD j = true
    · have bits : ∀ i, i < 4 → laneIn (gangVcc iss.gr iss.q.members) (4 * j + i) = (sliceOf iss.gr j).vcc.getLsbD i := by
        intro i hi
        have slice : (4 * j + i) / 4 = j := by omega
        have bit : (4 * j + i) % 4 = i := by omega
        rw [laneIn, getLsbD_gangVcc (by rwa [slice]) (by rwa [slice]), slice, bit]
      rw [if_pos hm, if_pos hm, nibble_maskOf (BitVec.lt_of_getLsbD hm) (fun i hi => by rw [bits i hi])]
    · rw [if_neg hm, if_neg hm]
  case scalars =>
    refine Eq.trans ?_ (sreg_setLanes iss.gr (dstNum o.dst) iss.act v j n)
    exact sreg_modMembers _ _ _ _ _ (fun _ _ => rfl)
  case lanes =>
    rw [vccActive, setVcc, vreg_modMembers, vreg_setLanes _ _ _ _ _ _ hl]
    by_cases hr : r = dstNum o.dst <;> by_cases ha : laneIn iss.act l = true <;> simp [hr, ha]

end

/-- Settles O4: each instruction is a lane operation whose result is the one of the table of R192, VSEL and VADDC those of R194;
the elements of a packed result by `elemOf_packed`. -/
theorem vectorIntegerResults : Obligations.VectorIntegerResults := by
  unfold Obligations.VectorIntegerResults
  refine ⟨fun s o iss => ⟨?vmov, ?vadd, ?vsub, ?vmul, ?vmulhi, ?vmad, ?vand, ?vor, ?vxor, ?vshl, ?vshr, ?vsra, ?vmin, ?vmax, ?vsel, ?vbfe, ?vbfi, ?vpopc, ?vclz⟩,
    fun ty f a b c e he => elemOf_packed f a b c he, fun s o iss => ?vaddc⟩
  case vmov => exact fun h => laneOp_done h (exec_vmov o s) (fun _ => rfl)
  case vadd => exact fun h => intOp_done h (exec_vadd o s) (fun _ _ _ => rfl)
  case vsub => exact fun h => intOp_done h (exec_vsub o s) (fun _ _ _ => rfl)
  case vmul => exact fun h => intOp_done h (exec_vmul o s) (fun _ _ _ => rfl)
  case vmulhi => exact fun h => intOp_done h (exec_vmulhi o s) (fun _ _ _ => rfl)
  case vmad => exact fun h => intOp_done h (exec_vmad o s) (fun a b c => mul_add_eq_ofNat a b c)
  case vand => exact fun h => laneOp_done h (exec_vand o s) (fun _ => rfl)
  case vor => exact fun h => laneOp_done h (exec_vor o s) (fun _ => rfl)
  case vxor => exact fun h => laneOp_done h (exec_vxor o s) (fun _ => rfl)
  case vshl => exact fun h => intOp_done h (exec_vshl o s) (fun _ _ _ => rfl)
  case vshr => exact fun h => intOp_done h (exec_vshr o s) (fun _ _ _ => rfl)
  case vsra => exact fun h => intOp_done h (exec_vsra o s) (fun _ _ _ => rfl)
  case vmin => exact fun h => intOp_done h (exec_vmin o s) (fun a b _ => by rw [signedMin_eq, unsignedMin_eq, minMax_of_less])
  case vmax => exact fun h => intOp_done h (exec_vmax o s) (fun a b _ => by rw [signedMax_eq, unsignedMax_eq, minMax_of_less])
  case vsel => exact fun h => laneOp_done h (exec_vsel o s) (fun _ => rfl)
  case vbfe => exact fun h => laneOp_done h (exec_vbfe o s) (fun _ => rfl)
  case vbfi => exact fun h => laneOp_done h (exec_vbfi o s) (fun _ => rfl)
  case vpopc => exact fun h => laneOp_done h (exec_vpopc o s) (fun _ => rfl)
  case vclz => exact fun h => laneOp_done h (exec_vclz o s) (fun _ => rfl)
  case vaddc =>
    intro cin sum h
    exact vccActive_done (c := fun l => decide (2 ^ 32 ≤ sum l)) h (exec_vaddc o s) rfl

/-! ### Lane masks -/

/-- VCMP compares the numbers its sources stand for, in two's complement where the type is signed (R184, R193). -/
theorem condHolds_intSigned (code ty : Nat) {w : Nat} (a b : BitVec w) :
    condHolds code (intSigned ty) a b =
      compares code (if intSigned ty then a.toInt else (a.toNat : Int)) (if intSigned ty then b.toInt else (b.toNat : Int)) := by
  have number : ∀ x : BitVec w, (if intSigned ty then x.toInt else (x.toNat : Int)) = comparand (ty % 2) x := fun x => by
    simp only [intSigned, comparand, beq_iff_eq]
  rw [number, number]
  exact condHolds_eq_compares code (ty % 2) a b

/-- That no lane from `base` up to l is set, counted up from `base` or sought among all 32 lanes. -/
theorem none_set_from {set near : Nat → Bool} {base l : Nat} (hl : l < 32) (hn : ∀ j, j < l → (near j = true ↔ base ≤ j)) :
    (List.range (l - base)).all (fun j => !set (base + j)) = (List.range 32).all (fun j => !(set j && decide (j < l) && near j)) := by
  rw [Bool.eq_iff_iff]
  simp only [List.all_eq_true, List.mem_range, Bool.not_eq_true', ← Bool.not_eq_true, Bool.and_eq_true, decide_eq_true_eq]
  constructor
  · rintro unset j - ⟨⟨hset, below⟩, hnear⟩
    have from_base := (hn j below).1 hnear
    refine unset (j - base) (by omega) ?_
    rwa [Nat.add_sub_cancel' from_base]
  · exact fun unset k hk hset => unset (base + k) (by omega) ⟨⟨hset, by omega⟩, (hn _ (by omega)).2 (by omega)⟩

/-- That l is the first set lane of its span, in both forms. -/
theorem first_set_from {set near : Nat → Bool} {base l : Nat} (hl : set l = true → l < 32) (hn : ∀ j, j < l → (near j = true ↔ base ≤ j)) :
    (set l && (List.range (l - base)).all (fun j => !set (base + j))) =
      (set l && (List.range 32).all (fun j => !(set j && decide (j < l) && near j))) := by
  cases h : set l with
  | false => rfl
  | true => exact congrArg (true && ·) (none_set_from (hl h) hn)

/-- The span of VFIRST below lane l: the lanes of its slice, or of the group (R209). -/
theorem near_iff_base_le (m : Nat) {j l : Nat} (hj : j < l) :
    (m != 1 || decide (j / 4 = l / 4)) = true ↔ (if m = 1 then 4 * (l / 4) else 0) ≤ j := by
  by_cases h : m = 1
  · simp only [h, bne_self_eq_false, Bool.false_or, decide_eq_true_eq, if_true]; omega
  · simp [h]

/-- Settles O5: each instruction is a lane operation whose result is a mask of the active lanes; VFIRST seeks the first set lane
of a span. -/
theorem laneMaskResults : Obligations.LaneMaskResults := by
  unfold Obligations.LaneMaskResults
  intro s o iss _ _ _ set _
  refine ⟨?vcmp, ?vfcmp, ?vfclass, ?vballot, ?vfirst⟩
  case vcmp => exact fun h => lmaskOp_done h (exec_vcmp o s) (fun l => condHolds_intSigned _ _ _ _)
  case vfcmp => exact fun h => lmaskOp_done h (exec_vfcmp o s) (fun _ => rfl)
  case vfclass => exact fun h => lmaskOp_done h (exec_vfclass o s) (fun _ => rfl)
  case vballot => exact fun h => lmaskOp_done h (exec_vballot o s) (fun _ => rfl)
  case vfirst =>
    exact fun h => lmaskOp_done h (exec_vfirst o s)
      (fun _ => first_set_from (set := set) (fun hl => lanes_lt (Bool.and_eq_true_iff.1 hl).1) (fun _ hj => near_iff_base_le _ hj))

end Sys2Proof.Machine
end
